-- ==== Sys2Proof/Word.lean ====
section
/-! DEFINITION. The plain types the model is written in: bytes, micro-register words, and the sparse map that
every large table of the part (registers, counters, queues, billets, entries) is held in. -/
namespace Sys2Proof

/-- One byte of a frame, a record or a memory. -/
abbrev Byte := BitVec 8
/-- A micro-register or a scratch word of R159 and R178. -/
abbrev W64 := BitVec 64
/-- A 32-bit register word on the bus of R52. -/
abbrev W32 := BitVec 32

/-- A sparse table: the entries that differ from what an unlisted index reads as, by rising index.
What an unlisted index reads as is given at every use; a `put` of that value removes the entry. -/
structure SMap (α : Type) where
  entries : List (Nat × α)
  deriving DecidableEq, Repr

namespace SMap

/-- The empty table. -/
def empty {α : Type} : SMap α := ⟨[]⟩

/-- Look an index up in a list. -/
def findIn {α : Type} : List (Nat × α) → Nat → Option α
  | [], _ => none
  | (k, v) :: m, i => if i = k then some v else findIn m i

/-- Put an entry into a rising list. -/
def insertIn {α : Type} : List (Nat × α) → Nat → α → List (Nat × α)
  | [], i, v => [(i, v)]
  | (k, w) :: m, i, v =>
    if i = k then (i, v) :: m
    else if i < k then (i, v) :: (k, w) :: m
    else (k, w) :: insertIn m i v

/-- Take an index's entry out of a list. -/
def eraseIn {α : Type} : List (Nat × α) → Nat → List (Nat × α)
  | [], _ => []
  | (k, w) :: m, i => if i = k then eraseIn m i else (k, w) :: eraseIn m i

/-- The entry at an index, when one is listed. -/
def find? {α : Type} (m : SMap α) (i : Nat) : Option α := findIn m.entries i

/-- The value at an index, `d` where none is listed. -/
def get {α : Type} (d : α) (m : SMap α) (i : Nat) : α := (findIn m.entries i).getD d

/-- Whether an index is listed. -/
def has {α : Type} (m : SMap α) (i : Nat) : Bool := (findIn m.entries i).isSome

/-- List a value at an index. -/
def insert {α : Type} (m : SMap α) (i : Nat) (v : α) : SMap α := ⟨insertIn m.entries i v⟩

/-- Take an index out. -/
def erase {α : Type} (m : SMap α) (i : Nat) : SMap α := ⟨eraseIn m.entries i⟩

/-- Write a value where an unlisted index reads as `d`. -/
def put {α : Type} [DecidableEq α] (d : α) (m : SMap α) (i : Nat) (v : α) : SMap α :=
  if v = d then m.erase i else m.insert i v

/-- Change the value at an index where an unlisted index reads as `d`. -/
def upd {α : Type} [DecidableEq α] (d : α) (m : SMap α) (i : Nat) (f : α → α) : SMap α :=
  m.put d i (f (m.get d i))

/-- Keep the entries a test accepts. -/
def filter {α : Type} (m : SMap α) (p : Nat → α → Bool) : SMap α :=
  ⟨m.entries.filter (fun e => p e.1 e.2)⟩

/-- The listed indices, rising. -/
def keys {α : Type} (m : SMap α) : List Nat := m.entries.map (·.1)

/-- Whether indices rise strictly. -/
def rising {α : Type} : List (Nat × α) → Bool
  | [] => true
  | (k, _) :: m => (match m with | [] => true | (k', _) :: _ => k < k') && rising m

/-- The canonical form: indices rise strictly. -/
def wf {α : Type} (m : SMap α) : Bool := rising m.entries

end SMap

/-- The four views of a register page (R54). -/
inductive View where
  | normal | set | clear | toggle
  deriving DecidableEq, Repr

/-- The instructions of the TAP (R597): the private debug ones as one. -/
inductive Tap where
  | idcode | bypass | sample | extest | extestPulse | extestTrain | debug | other
  deriving DecidableEq, Repr

/-- An upset of one copy of a T field (R67): the field's key in the register file, the copy (1 to 3), and the bits that flipped. -/
structure Upset where
  key : Nat
  copy : Nat
  flips : Nat
  deriving DecidableEq, Repr

/-- An error of the LPDDR6 memory (R364): which of a step's accesses meets it, whether it is a corrected one (0), uncorrectable data (1) or
a command error (2), its channel, and its place in the channel in units of 32 B. -/
structure DramErr where
  site : Nat
  kind : Nat
  ch : Nat
  unit : Nat
  deriving DecidableEq, Repr

/-- What the pins and the parts on the board show at a reset release: the BOOT_MODE and MATE_ID straps (R584), TIME_CLK (0 for 10 MHz, 1 for
25 MHz, else neither; R396), the flash's size (R593) and whether it does not answer, and the LPDDR6 channels that fail initialisation, a bit
each (R592). DESIGN CHOICE (log entry 16). -/
structure Board where
  bootMode : Nat := 0
  mateId : Bool := false
  clk : Nat := 0
  flashSize : Nat := 0
  flashDead : Bool := false
  lpFail : Nat := 0
  deriving DecidableEq, Repr

/-- A count that stops at `top`. -/
def satAdd (top a b : Nat) : Nat := min top (a + b)

/-- Bits `hi` down to `lo` of a number. -/
def bitsOf (n hi lo : Nat) : Nat := (n >>> lo) % 2 ^ (hi - lo + 1)

/-- Bit `i` of a number. -/
def bitOf (n i : Nat) : Bool := n.testBit i

/-- A number with bit `i` set. -/
def setBit (n i : Nat) : Nat := n ||| (1 <<< i)

/-- A number with bit `i` cleared. -/
def clrBit (n i : Nat) : Nat := if n.testBit i then n - (1 <<< i) else n

/-- One for true, zero for false. -/
def b2n (b : Bool) : Nat := if b then 1 else 0

/-- The bitwise majority of three numbers (R67). -/
def maj3 (a b c : Nat) : Nat := (a &&& b) ||| (a &&& c) ||| (b &&& c)

/-- A number read as two's complement of `w` bits. -/
def toSigned (w n : Nat) : Int := if n % 2 ^ w < 2 ^ (w - 1) then (n % 2 ^ w : Int) else (n % 2 ^ w : Int) - 2 ^ w

/-- The `w` low bits of an integer in two's complement. -/
def ofSigned (w : Nat) (x : Int) : Nat := (x % (2 ^ w : Int)).toNat

/-- An integer held within two ends. -/
def clampInt (lo hi x : Int) : Int := max lo (min hi x)

/-- Change the element at a place of a list; a place past the end changes nothing. -/
def modAt {α : Type} (l : List α) (i : Nat) (f : α → α) : List α := l.modify i f

/-- `n` in big-endian bytes, `len` of them (network byte order, R9). -/
def beBytes (len n : Nat) : List Byte :=
  (List.range len).map (fun i => BitVec.ofNat 8 (n >>> (8 * (len - 1 - i))))

/-- `n` in little-endian bytes, `len` of them (ring and ledger formats, R562). -/
def leBytes (len n : Nat) : List Byte :=
  (List.range len).map (fun i => BitVec.ofNat 8 (n >>> (8 * i)))

/-- The number big-endian bytes spell. -/
def ofBe (l : List Byte) : Nat := l.foldl (fun a b => a * 256 + b.toNat) 0

/-- The number little-endian bytes spell. -/
def ofLe (l : List Byte) : Nat := l.foldr (fun b a => a * 256 + b.toNat) 0

/-- `len` bytes from offset `o`; bytes past the end are not there. -/
def slice (l : List Byte) (o len : Nat) : List Byte := (l.drop o).take len

/-- A big-endian field of a byte list. -/
def beAt (l : List Byte) (o len : Nat) : Nat := ofBe (slice l o len)

/-- A byte of a list, 0 past its end. -/
def byteAt (l : List Byte) (o : Nat) : Nat := ((l[o]?).getD 0).toNat

end Sys2Proof
end

