-- ==== Sys2Proof/Syntax.lean ====
section
/-! DEFINITION. The commands of the block: one constructor per row of the spec's table of steps, with the operands the step
needs from outside the block. `pg` is a register page (R49), `ag` an agent (R15), `v` a written word, `arg` a command
argument. -/
namespace Sys2Proof

/-- A step of the part (opcode_table.json). -/
inductive Instr where
/-- R56: A write to a register that has no row of its own is checked for lock, range, state and busy, performed or
  refused, and recorded in BLK_RESULT. `width` is the access's bytes. -/
  | registerWrite (pg off : Nat) (view : View) (ag width v : Nat)
/-- R51: A write to a reserved page or reserved region slot is discarded and counted in RESERVED_ACCESS. -/
  | reservedPageWrite (pg ag : Nat)
/-- R628: A write to a table window that has no row of its own is checked by the owning block and its result is
  recorded with OPCODE 0xFE. `addr` is the BAR0 offset. -/
  | windowWrite (addr ag width v : Nat)
/-- R60: Common command NOP returns DONE. -/
  | cmdNop (pg ag arg : Nat)
/-- R60: Common command REINIT discards shadows and any pending commit and passes the block through REINIT to READY.
  -/
  | reinit (pg ag arg : Nat)
/-- R60: Common command FENCE puts the block in FENCED with cause 0x2. -/
  | fence (pg ag arg : Nat)
/-- R60: Common command RELEASE passes a fenced block through REINIT to READY. -/
  | release (pg ag arg : Nat)
/-- R60: Common command SCRUB votes every T field of the page at once. `upsets` are the copies struck since the last
  vote. -/
  | scrub (pg ag arg : Nat) (upsets : List Upset)
/-- R60: Common command DISCARD sets every shadow to its operating value. -/
  | discard (pg ag arg : Nat)
/-- R59: A block-specific BLOCK_RUN command moves the block from READY to RUN. -/
  | blockRun (pg ag arg : Nat)
/-- R59: A block-specific BLOCK_STOP command stops the block taking new work. -/
  | blockStop (pg ag arg : Nat)
/-- R59: Once the block's outstanding work has ended, a stopping block enters READY and the command completes. -/
  | blockStopComplete (pg : Nat)
/-- R62: A write of BLK_COMMIT.GO makes the commit point and sets COMMIT_PENDING. -/
  | commitGo (pg ag v : Nat)
/-- R62: At the block's boundary, pending shadows take effect together and APPLIED_SEQ increments. `kind` is 0 for the
  boundary kind of the page's lower offsets and 1 for that of its upper ones. -/
  | commitApply (pg kind : Nat)
/-- R70: A write of BLK_LOCK with ACQ acquires or renews the page lock for a lease. -/
  | lockAcquire (pg ag lease : Nat)
/-- R70: A write of BLK_LOCK with REL frees the lock and discards uncommitted shadows. -/
  | lockRelease (pg ag : Nat)
/-- R72: When a lock lease runs out, the lock is freed, the owner's shadows are discarded and LEASE_LAPSED is set.
  `pair` says that it is the pair lock of R460. -/
  | leaseExpiry (pg : Nat) (pair : Bool)
/-- R66: A posted write reaches the block's slow domain, takes effect, and POSTED returns to 0. -/
  | postedDelivery (pg : Nat)
/-- R67: The background scrub votes every T field of the device once each 1 ms. `upsets` are the copies struck since
  the last vote. -/
  | scrubPass (upsets : List Upset)
/-- R28: A core handshake not acknowledged within HS_TO gives the waiting cell a TIMEOUT cell error. `between` is 0
  within a cell or towards another block's cell, 1 between two cells of the block, 2 between two blocks of a region;
  `fails` counts the retries that failed. -/
  | handshakeTimeout (pg between fails : Nat)
/-- R484: A background sweep frees every billet allocated under a revoked party's owner tag at the fence instant. -/
  | fenceSweep (r : Nat)
/-- R30: Each region's speed sensor reports its margin every 1 µs. `margin` is the measured speed margin in 0.5 %
  steps. -/
  | speedSample (r : Nat) (margin : Int)
/-- R31: Every 50 µs the AVS loop compares the lowest margin with TARGET and may send a new VOUT_COMMAND. -/
  | avsEval
/-- R32: Setting AVS_EN reads VOUT_MODE and READ_VOUT from the regulator and starts the loop or fails with PMBUS_FAIL.
  `v` is the word written to SNS_AVS_CTRL, `mode` and `vout` what the regulator answers to VOUT_MODE and READ_VOUT,
  and bits 0 and 1 of `acks` whether it acknowledges each. -/
  | avsEnable (ag v mode vout acks : Nat)
/-- R33: An unacknowledged PMBus transaction is retried twice. -/
  | pmbusNack
/-- R47: Writing MIN_REARM sets MARGIN_MIN of all four regions to 0x80. `v` is the word written to SNS_AVS_CTRL. -/
  | minRearm (ag v : Nat)
/-- R100: A write of QUAD_MODE is checked against port states and FEC and AN values and posted to retune the quad. -/
  | quadModeWrite (r q : Nat) (view : View) (ag v : Nat)
/-- R78: A write of QUAD_LANE is checked against the layout it would leave and posted. -/
  | quadLaneWrite (r q : Nat) (view : View) (ag v : Nat)
/-- R81: A port's raw link fails, moving the port from UP to DOWN_FILTER or from UP_FILTER to DOWN. `cause` has bit 0 set for
  local fault received and bit 1 for remote fault (R80). -/
  | rawLinkFail (p cause : Nat)
/-- R81: A port's raw link becomes good, moving the port to UP from DOWN_FILTER or to UP_FILTER from DOWN. -/
  | rawLinkGood (p : Nat)
/-- R81: DOWN_FILT passes with the raw link still failed and the port enters DOWN. -/
  | downFilterExpiry (p : Nat)
/-- R81: The raw link has been good for UP_FILT and the port enters UP. -/
  | upFilterExpiry (p : Nat)
/-- R81: AN and training complete, or are not enabled, and the PCS locks, moving a port from TRAINING. `good` is the
  raw link at PCS lock. -/
  | trainingComplete (p : Nat) (good : Bool)
/-- R79: Clause 73 negotiation fails, AN_FAIL is set and negotiation restarts. -/
  | anFail (p : Nat)
/-- R84: A write of DOWN_FILT or UP_FILT takes effect on a running filter, which may end at once. -/
  | linkFilterWrite (p : Nat) (view : View) (ag v : Nat)
/-- R87: A frame received on a front-panel port is timestamped, checked, given its class and identified at step 1.
  `bytes` are those received so far, the FCS among them once `complete`; `frags` counts the fragments a preemptible
  frame came in, 0 for a frame with an SFD; `broken` for a fragment error of R95; `stopped` when the raw link failed
  under it; `fec` how many RS-FEC codewords were corrected, and how many were found uncorrectable, since the frame before (R556). -/
  | frameReceive (p : Nat) (bytes : List Byte) (complete : Bool) (frags : Nat) (broken stopped : Bool) (fec : Nat × Nat)
/-- R94: VERIFY_TIME passes without a response and another verify mPacket is sent or verification fails. -/
  | verifyTimeout (p : Nat)
/-- R94: A matching verify response is received and verification succeeds. -/
  | verifyResponseRx (p : Nat)
/-- R94: A received verify mPacket is answered with a response while PREEMPT_EN is 1. -/
  | verifyMpacketRx (p : Nat)
/-- R96: A write of RCLK_CTRL is checked against the 200 MHz limit and posted. -/
  | rclkCtrlWrite (k : Nat) (view : View) (ag v : Nat)
/-- R99: PORT_ENABLE moves a port from DISABLED to TRAINING. -/
  | portEnable (pg ag arg : Nat)
/-- R99: PORT_DISABLE stops new frames on the port. -/
  | portDisable (pg ag arg : Nat)
/-- R99: When the frame on the wire ends, the port enters DISABLED with a port-down event and the command completes.
  -/
  | portDisableDone (p : Nat)
/-- R99: PORT_RETRAIN restarts AN and training or PCS acquisition and takes the port down. -/
  | portRetrain (pg ag arg : Nat)
/-- R105: The parser recognises the frame's headers, checks them and produces the parse record. `f` is the frame's
  number. -/
  | parseFrame (f : Nat)
/-- R630: A frame's tail arrives after dispatch, completing deferred length checks and correcting policer tokens.
  `rest` are the bytes still to come of the frame in reception, `frags` its fragments, `broken` a failed reassembly.
  -/
  | tailArrival (p : Nat) (rest : List Byte) (frags : Nat) (broken : Bool)
/-- R122: NODE_WRITE writes a decision-tree node in one step after checking it. -/
  | nodeWrite (pg ag arg : Nat)
/-- R127: NODE_READ copies a node with its ECC into PRS_NODE_DATA. -/
  | nodeRead (pg ag arg : Nat)
/-- R119: A decision-tree walk returns a leaf action or faults, completing its tag. `n` is the tag, or 8 + k for the
  k-th lookup of the engine whose tag was released; `upsets` are the nodes struck since they were last read, true for
  a multi-bit error. -/
  | treeWalkComplete (e c n : Nat) (upsets : List (Nat × Bool))
/-- R123: TREE_SWAP pauses the masked ports' parser input to replace a tree root. -/
  | treeSwap (pg ag arg : Nat)
/-- R123: When masked routines have retired or 1.2 µs passes, stragglers are abandoned, the root switches and parsing
  resumes. -/
  | treeSwapRootSwitch (r : Nat)
/-- R138: An exact-match lookup searches both buckets and the overflow store and returns a hit or miss, writing TS for
  TOUCH and LEARN. `n` is the tag, or 8 + k for the k-th lookup of the engine whose tag was released; `upsets` are the
  slots struck since they were last read, true for a multi-bit error. -/
  | emLookupComplete (e c n : Nat) (upsets : List (Nat × Bool))
/-- R144: A longest-prefix lookup returns the lowest-numbered matching entry or a miss. `n` is the tag, or 8 + k for
  the k-th lookup of the engine whose tag was released; `upsets` are the entries struck since they were last read,
  true for a multi-bit error. -/
  | lpmLookupComplete (e c n : Nat) (upsets : List (Nat × Bool))
/-- R141: The insert sequencer performs one insert, refreshing a present key or placing a new group.
  `upsets` are the slots struck since they were last read, true for a multi-bit error. -/
  | sequencerInsert (upsets : List (Nat × Bool))
/-- R142: The insert sequencer deletes a key's group in one step. `upsets` are as for sequencerInsert. -/
  | sequencerDelete (upsets : List (Nat × Bool))
/-- R147: The 16-bit tick counter NOW advances every TICK_MS. -/
  | tick
/-- R148: The ager visits the next bucket or four overflow slots and removes groups at or past AGE_LIMIT. `later`
  leaves the compare-and-remove to the start of the next visit; `upsets` are the slots struck since they were last
  read, true for a multi-bit error. -/
  | agerVisit (later : Bool) (upsets : List (Nat × Bool))
/-- R156: EM_INSERT inserts the staged key through the insert sequencer. `upsets` are the slots struck
  since they were last read, true for a multi-bit error. -/
  | emInsert (pg ag arg : Nat) (upsets : List (Nat × Bool))
/-- R156: EM_DELETE deletes the staged key through the insert sequencer. `upsets` are the slots struck
  since they were last read, true for a multi-bit error. -/
  | emDelete (pg ag arg : Nat) (upsets : List (Nat × Bool))
/-- R156: EM_SEARCH performs a PLAIN lookup and fills the staging registers on a hit. `upsets` are the slots struck
  since they were last read, true for a multi-bit error. -/
  | emSearch (pg ag arg : Nat) (upsets : List (Nat × Bool))
/-- R156: EM_READ reads the group at LOCATION into the staging registers. `upsets` are the slots struck
  since they were last read, true for a multi-bit error. -/
  | emRead (pg ag arg : Nat) (upsets : List (Nat × Bool))
/-- R145: LPM_WRITE writes a prefix entry in one step after checking order and bits. -/
  | lpmWrite (pg ag arg : Nat)
/-- R156: LPM_READ reads a prefix entry into the staging registers. `upsets` are the entries struck
  since they were last read, true for a multi-bit error. -/
  | lpmRead (pg ag arg : Nat) (upsets : List (Nat × Bool))
/-- R156: TABLE_CLEAR empties the exact-match table and overflow store or invalidates every prefix entry. -/
  | tableClear (pg ag arg : Nat)
/-- R162: The engine block dispatches a waiting frame to a free context with its entry state. -/
  | dispatch (r : Nat)
/-- R195: A due cycle-trigger event routine is dispatched with index 12. -/
  | eventRoutineDispatch (r : Nat)
/-- R185: Micro-instruction NOP does nothing. -/
  | opNop (e c : Nat)
/-- R173: RETIRE ends the routine and applies its staged effects and verdict. -/
  | opRetire (e c : Nat)
/-- R185: DROPR ends the routine and drops the frame, counting ROUTINE_DROP_n. -/
  | opDropr (e c : Nat)
/-- R185: TRAP_SLOW takes the slow-path micro-trap. -/
  | opTrapSlow (e c : Nat)
/-- R185: BRK takes the breakpoint micro-trap or halts the context while breakpoints are enabled. -/
  | opBrk (e c : Nat)
/-- R185: CALL pushes the return address and continues at TARGET. -/
  | opCall (e c : Nat)
/-- R185: RETN pops the call stack, resuming a trapped routine when it pops the resume entry. -/
  | opRetn (e c : Nat)
/-- R185: JIND continues at a register-given micro-PC. -/
  | opJind (e c : Nat)
/-- R186: ALU operation MOV. -/
  | opMov (e c : Nat)
/-- R186: ALU operation ADD. -/
  | opAdd (e c : Nat)
/-- R186: ALU operation SUB. -/
  | opSub (e c : Nat)
/-- R186: ALU operation AND. -/
  | opAnd (e c : Nat)
/-- R186: ALU operation OR. -/
  | opOr (e c : Nat)
/-- R186: ALU operation XOR. -/
  | opXor (e c : Nat)
/-- R186: ALU operation ANDN. -/
  | opAndn (e c : Nat)
/-- R186: ALU operation SHL. -/
  | opShl (e c : Nat)
/-- R186: ALU operation SHR. -/
  | opShr (e c : Nat)
/-- R186: ALU operation SAR. -/
  | opSar (e c : Nat)
/-- R186: ALU operation ROTL. -/
  | opRotl (e c : Nat)
/-- R186: ALU operation MIN, unsigned. -/
  | opMin (e c : Nat)
/-- R186: ALU operation MAX, unsigned. -/
  | opMax (e c : Nat)
/-- R186: CMP sets flags from A minus B. -/
  | opCmp (e c : Nat)
/-- R186: TST sets flags from A and B. -/
  | opTst (e c : Nat)
/-- R186: MUL writes the low 64 bits of A times B in two slots. -/
  | opMul (e c : Nat)
/-- R187: EXT extracts a field zero-extended. -/
  | opExt (e c : Nat)
/-- R187: INS replaces a field with bits of B. -/
  | opIns (e c : Nat)
/-- R187: BSWAP reverses the low n bytes. -/
  | opBswap (e c : Nat)
/-- R187: CLZ counts leading zeros. -/
  | opClz (e c : Nat)
/-- R187: POPC counts set bits. -/
  | opPopc (e c : Nat)
/-- R187: HASH computes a table hash and bucket over the key register. -/
  | opHash (e c : Nat)
/-- R188: HRD reads header-window bytes, stalling for bytes not yet received. -/
  | opHrd (e c : Nat)
/-- R188: HWR stages a shadow-header overwrite. -/
  | opHwr (e c : Nat)
/-- R188: HINS stages a shadow-header insertion. -/
  | opHins (e c : Nat)
/-- R188: HDEL stages a shadow-header removal. -/
  | opHdel (e c : Nat)
/-- R177: HFIX stages checksum fix-ups. -/
  | opHfix (e c : Nat)
/-- R189: KCLR clears the key register. -/
  | opKclr (e c : Nat)
/-- R189: KPUT writes a register field into the key. -/
  | opKput (e c : Nat)
/-- R189: KHDR copies header-window bits into the key. -/
  | opKhdr (e c : Nat)
/-- R190: LEM issues an exact-match lookup on a tag. -/
  | opLem (e c : Nat)
/-- R190: LPM issues a prefix lookup on a tag. -/
  | opLpm (e c : Nat)
/-- R190: LTREE issues a decision-tree walk on a tag. -/
  | opLtree (e c : Nat)
/-- R190: WAIT waits for a tag, writes its result and frees it. -/
  | opWait (e c : Nat)
/-- R190: WAITM waits for several tags and frees them. -/
  | opWaitm (e c : Nat)
/-- R190: TREL releases tags. -/
  | opTrel (e c : Nat)
/-- R191: SETV stages a verdict field. -/
  | opSetv (e c : Nat)
/-- R191: CNT stages a statistics counter increment. -/
  | opCnt (e c : Nat)
/-- R191: SLD reads a committed region scratch word. -/
  | opSld (e c : Nat)
/-- R191: SST stages a scratch-word write. -/
  | opSst (e c : Nat)
/-- R191: SADD stages a scratch-word addition. -/
  | opSadd (e c : Nat)
/-- R194: A run exceeding MAX_STEPS issue slots ends in a routine fault with cause LIMIT. -/
  | routineLimit (e c : Nat)
/-- R203: A control-store fetch with bad parity abandons the routine and repairs the word from a peer copy. -/
  | machineCheck (e c : Nat)
/-- R219: A programmable counter passes 0xFFFF_FFFF, reloads, sets OVF and acts under OVF_ACT. -/
  | pcntOverflow (e n : Nat)
/-- R220: An overflow is captured at a later retired micro-instruction, writing a sample record and possibly a COUNTER
  trap. `c` is the context of the engine that has just retired the capturing micro-instruction. -/
  | overflowCapture (e c : Nat)
/-- R218: CNT_SNAP copies every engine counter into the snapshot registers. -/
  | cntSnap (pg ag arg : Nat)
/-- R218: The engine CNT_CLEAR resets fixed counters and reloads programmable ones. -/
  | engCntClear (pg ag arg : Nat)
/-- R206: CS_SCRUB checks every control-store word's parity and repairs bad words. -/
  | csScrub (pg ag arg : Nat)
/-- R214: DBG_RESUME restores a halted context from its trap frame and continues it. -/
  | dbgResume (pg ag arg : Nat)
/-- R200: A control-store window write buffers quarters 0 to 2 or writes a whole word at quarter 3. -/
  | csWindowWrite (r w q ag v : Nat)
/-- R207: Writing INJ_PAR arms inverted parity for the next quarter-3 write. `v` is the word written to ENG_CTRL. -/
  | injParWrite (r : Nat) (view : View) (ag v : Nat)
/-- R221: A read of ENG_SAMPLE_LO latches and removes the oldest sample record. -/
  | samplePop (r : Nat)
/-- R214: A write of ENG_DBG_HI writes both halves of a halted context's trap-frame word. -/
  | dbgWordWrite (r : Nat) (view : View) (ag v : Nat)
/-- R223: A read of ENG_SCRATCH_LO latches all 64 bits of a scratch word for the agent. -/
  | scratchLoRead (r k ag : Nat)
/-- R223: A write of ENG_SCRATCH_LO holds the low half for the scratch word. -/
  | scratchLoWrite (r k : Nat) (view : View) (ag v : Nat)
/-- R223: A write of ENG_SCRATCH_HI applies both halves of a scratch word between retirements. -/
  | scratchHiWrite (r k : Nat) (view : View) (ag v : Nat)
/-- R286: An arbiter starts a round, delivering the grant decided in the previous round and deciding the next. `a`
  numbers the arbiter, `reqs` are the requests standing at it but for a port's, which the state gives. `err` is what ECC meets: at a pool manager 1 or 2, a corrected or an uncorrectable error in
  the free-ring entry read next, or 3, an uncorrectable one in the link and descriptor memory outside a single entry (R477); at the mate interface what the read of the cord of the frame granted meets, 2k + 1 or 2k + 2 in its billet k. -/
  | arbitrationRound (a : Nat) (reqs : List Nat) (err : Nat)
/-- R244: INC adds a copy to a cord's reference count or is refused. `err` is what the ECC check meets: 1 and 2 a
  corrected and an uncorrectable error in the link entry, 3 and 4 in the head word. -/
  | refcntInc (r ptr err : Nat)
/-- R244: DEC releases a copy and frees the cord when the count reaches 0. `err` as for REFCNT_INC. -/
  | refcntDec (r ptr err : Nat)
/-- R245: The pool manager walks and frees a cord, checking each billet's allocation and owner tag. `errs` are the
  billets whose link entry meets an error, true for an uncorrectable one. -/
  | cordFreeWalk (r ptr tag : Nat) (errs : List (Nat × Bool))
/-- R250: LINK_READ copies a billet's link entry and head word to the data registers. `err` as for REFCNT_INC. -/
  | linkRead (pg ag arg err : Nat)
/-- R250: CORD_FREE frees the cord at BUF_CMD_PTR with the host function's tag. `errs` as for CORD_FREE_WALK. -/
  | cordFree (pg ag arg : Nat) (errs : List (Nat × Bool))
/-- R247: OWNER_SWEEP frees every billet of the region carrying a given owner tag. -/
  | ownerSweep (pg ag arg : Nat)
/-- R260: Each copy of a frame passes the ordered admission checks at step 6 and the cord is handed over. `f` is the
  frame's number. -/
  | admission (f : Nat)
/-- R255: A write to a queue entry is checked under its state rules and may move ownership. -/
  | queueEntryWrite (q word ag v : Nat)
/-- R273: HOLD passes with the port still down and every queued copy is freed. -/
  | holdExpiry (q : Nat)
/-- R275: Q_FLUSH frees every copy of a queue not already in transmission. -/
  | qFlush (pg ag arg : Nat) (err : Option DramErr)
/-- R265: HAMPER_WRITE writes a whole hamper in one step. -/
  | hamperWrite (pg ag arg : Nat)
/-- R265: HAMPER_READ copies a hamper to the staging registers. -/
  | hamperRead (pg ag arg : Nat)
/-- R272: CAP_RESET sets WPTR to 0 and clears FULL. -/
  | capReset (pg ag arg : Nat)
/-- R272: A capture copy is written as a record into the capture area and its cord released. -/
  | captureRecordWrite (ecc : Nat) (err : Option DramErr)
/-- R302: Every 1 µs each queue's depth and head residence are sampled, closing a window every 1,000 samples. -/
  | queueSample (r : Nat)
/-- R321: The egress MAC starts a frame or remainder that passes the gate test. `err` is what the ECC check of the
  cord's data meets: 2k + 1 a corrected error and 2k + 2 an uncorrectable one, in billet k. -/
  | transmitStart (p err : Nat)
/-- R290: A transmission ends on the wire, updating shaper credit and releasing the copy. -/
  | transmitEnd (p : Nat)
/-- R292: Every 256 ns an idle shaper's credit is updated. -/
  | shaperUpdate (j : Nat)
/-- R288: A queue's wait count reaches STARVE_ROUNDS, setting STARVED and raising QSC_STARVE. `k` is the queue of port
  `a`, or the requester kind of link arbiter `a`. -/
  | starvationFlag (a k : Nat)
/-- R293: A write of QSC_SHP_SEL selects a shaper and loads its shadows. -/
  | shaperSelect (r : Nat) (view : View) (ag v : Nat)
/-- R297: POL_WRITE replaces a policer and fills its buckets. -/
  | polWrite (pg ag arg : Nat)
/-- R304: POL_READ copies a policer and its tokens to the staging registers. -/
  | polRead (pg ag arg : Nat)
/-- R304: SF_WRITE writes a stream filter in one step. -/
  | sfWrite (pg ag arg : Nat)
/-- R304: SF_READ copies a stream filter to the staging registers. -/
  | sfRead (pg ag arg : Nat)
/-- R304: SF_UNBLOCK clears BLOCKED of a stream filter. -/
  | sfUnblock (pg ag arg : Nat)
/-- R312: A gate-list entry or cycle begins and the gate states change. -/
  | gateEntryChange (p : Nat)
/-- R317: At its takeover time the pending gate bank becomes operating. -/
  | gateTakeover (p : Nat)
/-- R315: A write to the gate-list window is refused on the operating bank or performed on the pending one. -/
  | gateListWrite (p b k ag v : Nat)
/-- R344: The spill writer writes the head copy of BACK as one record once its cord is complete. `ecc` is what the
  read of the cord meets, as at TRANSMIT_START; `err` an error of the memory: site 0 the record's write, 2 an entry of
  the free ring. -/
  | spillWrite (q ecc : Nat) (err : Option DramErr)
/-- R348: The Peat controller drains one record into refill billets and hands it into FRONT. The sites of `err` are 0
  the record's header, 1 its data, 2 a mismatch of CHK, and 4 + k the entry of the k-th turf of the chain. -/
  | drainRecord (r : Nat) (err : Option DramErr)
/-- R360: A bank is refreshed at tREFIpb and committed delays are applied. -/
  | perBankRefresh (ch : Nat)
/-- R360: Every 4 ms each device's refresh-rate status is read. -/
  | refreshRatePoll (ch rate : Nat)
/-- R361: At the start of each tREFW window the activate-count table is cleared. -/
  | activateTableClear (ch bank : Nat)
/-- R361: A row count reaching RH_TH refreshes its neighbours. -/
  | neighbourRefresh (ch bank row : Nat)
/-- R362: The patrol reads and corrects the next 32 B of DRAM. -/
  | patrolRead (err : Option DramErr)
/-- R340: A change of WIN_GIB clears WIN_READY and starts zeroing and free-ring rebuild. -/
  | winGibWrite (view : View) (ag v : Nat)
/-- R340: Zeroing and rebuild end and WIN_READY is set. -/
  | windowReady
/-- R367: TURF_READ copies a turf table entry to PEAT_DATA. -/
  | turfRead (pg ag arg : Nat)
/-- R356: TURF_SWEEP frees every turf of an owner tag or queue. -/
  | turfSweep (pg ag arg : Nat)
/-- R367: Q_PEAT_READ returns a queue's head and tail turf and counts. -/
  | qPeatRead (pg ag arg : Nat)
/-- R513: A host access through the CXL.mem window is served from the Peat area or answered as absent. One 64 B line
  at an offset of the committed HDM range, read or written; `late` marks one not answered within MMIO_TO_US. -/
  | windowAccess (off : Nat) (data : Option (List Byte)) (late : Bool) (err : Option DramErr)
/-- R377: A twin copy reaches its twin region and is stored or discarded when that region is fenced. -/
  | twinArrival (f : Nat)
/-- R381: The ordering hold expires and the early head with smaller d is delivered, counting LOST. -/
  | recoveryHoldExpiry (k : Nat)
/-- R383: No delivery for RESET_MS sets TAKE_ANY. -/
  | recoveryResetTimeout (k : Nat)
/-- R387: Every LATENT_PERIOD the latent error test runs and may raise STR_LATENT. -/
  | latentCheck (k : Nat)
/-- R378: A write to a recovery entry is checked and may set VALID and TAKE_ANY. -/
  | recoveryEntryWrite (k word ag v : Nat)
/-- R391: A write to an identification entry is checked against VALID and region. -/
  | idEntryWrite (h word ag v : Nat)
/-- R404: A matching Sync yields an offset sample for the domain's servo. `msg` is the PTP message, `l` the local
  counter at its SFD. -/
  | syncSample (d p : Nat) (msg : List Byte) (l : Nat)
/-- R404: A Follow_Up completes a two-step sample. -/
  | followUpRx (d p : Nat) (msg : List Byte)
/-- R404: No Follow_Up within 100 ms drops the sample and counts FU_MISS. -/
  | followUpTimeout (d seqId : Nat)
/-- R404: A write of DOM_HOST_OFS is a sample for a domain with SRC 2. -/
  | hostOffsetWrite (d : Nat) (view : View) (ag v : Nat)
/-- R403: No accepted sample for LOSS_MS moves the domain to LOST. -/
  | domainLossTimeout (d : Nat)
/-- R409: PREF locked for REVERT_S seconds reverts the selection to it. -/
  | revertTimer
/-- R408: P reaches 0 and SLEWING clears. -/
  | slewEnd
/-- R396: No TIME_CLK edge for 1 µs switches to the SerDes reference, sets CLK_FAIL and escalates. -/
  | timeClkLoss
/-- R401: A port's fixed timestamp delays are measured after PCS lock and CAL_DONE is set. -/
  | tsCalDone (p : Nat)
/-- R417: TIME_SET sets a domain's time. -/
  | timeSet (pg ag arg : Nat)
/-- R417: TIME_ADJ adds an adjustment to a domain's time. -/
  | timeAdj (pg ag arg : Nat)
/-- R417: SELECT selects a domain. -/
  | select (pg ag arg : Nat)
/-- R417: TIME_SNAP latches the four time scales at one instant. -/
  | timeSnap (pg ag arg : Nat)
/-- R405: SERVO_RESET moves an enabled domain to FREERUN keeping its rate. -/
  | servoReset (pg ag arg : Nat)
/-- R405: A write of DOM_RATE sets the domain's rate and integral. -/
  | domRateWrite (d : Nat) (view : View) (ag v : Nat)
/-- R403: A write of DOM_CFG.EN enables a domain into FREERUN or turns it OFF. -/
  | domainEnable (d : Nat) (view : View) (ag v : Nat)
/-- R420: Every 100 ms the oscillator model rate is evaluated. `theta` is the mean of the die sensor's last second, in
  1/16 °C. -/
  | modelEvaluate (theta : Int)
/-- R422: Once per second while locked, the model takes a learning sample. -/
  | modelLearn (theta : Int)
/-- R421: BANK_TEMP not written for 10 s sets TEMP_STALE. -/
  | tempStaleTimeout
/-- R427: BANK_ELAPSED reaching LIMIT_MIN sets EXPIRED and may hold PPS_OUT low. -/
  | bankExpiry
/-- R429: MODEL_SNAP copies the model to the staging registers. -/
  | modelSnap (pg ag arg : Nat)
/-- R429: MODEL_LOAD copies the staging registers into the model. -/
  | modelLoad (pg ag arg : Nat)
/-- R429: MODEL_CLEAR clears the model. -/
  | modelClear (pg ag arg : Nat)
/-- R430: MODEL_SAVE writes a model record to the ledger. -/
  | modelSave (pg ag arg : Nat)
/-- R431: A filtered PPS_IN edge is timestamped and may give a domain sample. `l` is the local counter at the edge's
  first transition. -/
  | ppsInEdge (rise : Bool) (l : Nat)
/-- R433: PPS_OUT rises at each whole second of S and falls WIDTH later. -/
  | ppsOutEdge (rise : Bool)
/-- R434: A timed output produces an edge at its scheduled instant. -/
  | toutEdge (n : Nat) (rise : Bool)
/-- R436: An accepted TIN edge writes a capture record to the FIFO. `l` is as at PPS_IN_EDGE. -/
  | tinEdge (k : Nat) (rise : Bool) (l : Nat)
/-- R436: A read of TIN_POP removes and latches the oldest capture record. -/
  | tinPop (k : Nat)
/-- R437: A cycle trigger fires and is delivered to gates, engines and timed outputs. -/
  | cycleTriggerFire (n : Nat)
/-- R438: A write to a trigger's configuration is refused while in use or resets its schedule. -/
  | trigWrite (n off : Nat) (view : View) (ag v : Nat)
/-- R443: A write of MATE_CFG.MODE selects how the device takes part in a pair. `v` is the word written to MATE_CFG.
  -/
  | mateModeWrite (view : View) (ag v : Nat)
/-- R456: Every 2 µs a heartbeat is sent on both paths. -/
  | heartbeatSend
/-- R456: A valid heartbeat is received and updates path and peer state. `path` is 0 for the mate link and 1 for the
  HB pair, `crc` whether the mate frame's CRC-32 is good. -/
  | heartbeatRx (path word : Nat) (crc : Bool)
/-- R457: No valid heartbeat on a path for 6 µs loses the path. -/
  | pathLoss (path : Nat)
/-- R453: CLAIM starts the claim procedure. -/
  | claim (pg ag arg : Nat)
/-- R453: When the claim pin and heartbeat show the peer does not hold the claim, MATE_CLAIM_OUT is asserted. -/
  | claimAssert
/-- R453: After the 200 ns guard the device becomes PRIMARY or yields by MATE_ID. -/
  | claimGuardExpiry
/-- R453: A filtered change of MATE_CLAIM_IN disables or permits the single-owner functions. -/
  | claimInChange (level : Bool)
/-- R453: A claim wait lasting 10 µs sets CLAIM_BLOCKED. -/
  | claimBlockedTimeout
/-- R454: The MATE RELEASE command disables the functions and then drops the claim. -/
  | mateRelease (pg ag arg : Nat)
/-- R465: REJOIN clears FWD_HOLD. -/
  | rejoin (pg ag arg : Nat)
/-- R459: RESYNC resends every learned group of this device's ports. -/
  | resync (pg ag arg : Nat)
/-- R459: The mate link reaching UP with the peer present starts the resynchronisation walk. -/
  | mateLinkUp
/-- R466: A filtered change of ARB_GRANT_IN enables or disables the functions in arbiter mode. -/
  | arbGrantChange (level : Bool)
/-- R458: After 6 µs of FAIL heartbeats the functions are disabled and forwarding stops. -/
  | failHeartbeatEnd
/-- R448: A mate-link data frame enters the walk at step 5 for PEER_Q. `data` is the frame without its FCS, `crc`
  whether the mate frame's CRC-32 is good. -/
  | mateDataFrameRx (tc q : Nat) (data : List Byte) (crc : Bool)
/-- R155: A received mirror record is applied through the insert sequencer. `rec_` is the record of R154. -/
  | mateMirrorRecordRx (rec_ : Nat) (crc : Bool)
/-- R155: A learning event from the peer is applied by the authority holder. `rec_` is the record of R154. -/
  | mateLearnEventRx (rec_ : Nat) (crc : Bool)
/-- R460: A pair-lock frame forwards a request or mirrors a lock change. -/
  | plockFrameRx (data : List Byte) (crc : Bool)
/-- R461: A mirrored gate commit is applied to the receiver's port as agent 13. -/
  | gateCommitRx (data : List Byte) (crc : Bool)
/-- R459: A peer servo and policer snapshot is held for takeover. -/
  | servoSnapshotRx (data : List Byte) (crc : Bool)
/-- R459: Received ager touches TOUCH the receiver's copies. -/
  | agerTouchRx (data : List Byte) (crc : Bool)
/-- R459: Every 1 ms servo state and policer snapshot are sent to the peer. -/
  | snapshotSend
/-- R459: Every 1 ms the keys of hit MATE-eligible groups are sent to the peer. -/
  | agerTouchSend
/-- R460: A write of MATE_PLOCK with ACQ acquires the pair lock. `v` is the word written to MATE_PLOCK. -/
  | plockAcquire (view : View) (ag v : Nat)
/-- R460: A write of MATE_PLOCK with REL releases the pair lock. `v` is the word written to MATE_PLOCK. -/
  | plockRelease (view : View) (ag v : Nat)
/-- R460: A forwarded pair-lock request without answer in 10 µs returns TIMEOUT. -/
  | plockTimeout
/-- R451: A write to a mate forwarding entry is checked against VALID and duplicates. `half` is the word of the entry.
  -/
  | mateFwdWrite (k half : Nat) (view : View) (ag v : Nat)
/-- R499: A BAR0 access not answered within MMIO_TO_US completes with Completer Abort or is discarded. -/
  | mmioTimeout (read : Bool)
/-- R502: A write of HOST_IDX posts ring slots. -/
  | ringDoorbell (n ag v : Nat)
/-- R503: A copy for an RX ring takes a slot or is dropped at once. -/
  | rxRingDelivery
/-- R503: Once the cord is complete, the frame, metadata and completion word are written to the slot. `addr` and `len`
  are BUF_ADDR and BUF_LEN of the slot's descriptor. -/
  | rxSlotWrite (n addr len ecc : Nat)
/-- R504: The host interface reads a TX descriptor, fetches the buffer and hands the frame to step 5. the descriptor's
  fields and the buffer's bytes; `rsv` is the number its reserved bytes spell. -/
  | txDescriptorFetch (n len dest ctrl tc rsv : Nat) (data : List Byte)
/-- R505: A TX slot is completed once its frame's outcome is final. -/
  | txCompletion (n : Nat)
/-- R506: A learning record is written into a RECORD ring slot or discarded. -/
  | recordRingWrite
/-- R507: A write to a ring entry enables or disables the ring under its rules. `k` is the word of the ring's entry.
  -/
  | ringEntryWrite (n k ag v : Nat)
/-- R508: A failed or timed-out device request drops the frame and stops the ring in ERROR. `kind` is that of
  HIF_RING_ERR; `late` says that a completion's write failed. -/
  | dmaError (n kind : Nat) (late : Bool)
/-- R509: A host snoop takes a cached descriptor line from the device. `i` is the line's index. -/
  | hostSnoop (n i : Nat)
/-- R509: A held descriptor line is written back with DirtyEvict. `i` is the line's index. -/
  | lineWriteback (n i : Nat)
/-- R509: CACHE_FLUSH writes back or evicts every held line. -/
  | cacheFlush (pg ag arg : Nat)
/-- R512: The host commits the HDM decoder, which fails if too small. `size` is the decoded range in bytes. -/
  | hdmCommit (size : Nat)
/-- R516: A read of the CXL time window latches and returns a snapshot of the time scales. `k` is the line read. -/
  | timeWindowRead (k : Nat)
/-- R517: A fallback BAR2 read at offset 0 latches a fresh time snapshot. -/
  | bar2TimeRead (f off len : Nat)
/-- R515: A write to the time window is discarded and counted. -/
  | timeWindowWrite
/-- R518: A write of HIF_MSIX_f changes a function's vector partition after checks. -/
  | msixPartitionWrite (f : Nat) (view : View) (ag v : Nat)
/-- R511: A frame received on a management port is delivered to its RX ring. `data` is the frame with its FCS; `stopped` when the
  raw link failed before its end (R83). -/
  | mgmtFrameRx (m : Nat) (data : List Byte) (stopped : Bool)
/-- R511: A write of a management port's MODE trains or disables it. `v` is the word written to HIF_MGMT_CFG. -/
  | mgmtModeWrite (m : Nat) (view : View) (ag v : Nat)
/-- R582: PERST_N or host link-down resets every host function and stops every ring. -/
  | hostLinkReset
/-- R486: An FLR resets a host function, releasing its locks, rings and interrupt stacks. -/
  | functionLevelReset (f : Nat)
/-- R527: An event on an enabled source increments COUNT and sets PENDING. -/
  | interruptEvent (n : Nat)
/-- R531: A level source deasserting clears PENDING or sets RETRACTED. -/
  | levelDeassert (n : Nat)
/-- R529: A deliverable source's message is committed, making it ACTIVE and pushed on the stack. `t` is the target. -/
  | interruptDelivery (t : Nat)
/-- R530: A read of INT_CLAIM claims the top stack entry. -/
  | intClaimRead (t ag : Nat) (view : View)
/-- R532: A write of INT_CLAIM completes the claimed top source. -/
  | intComplete (t ag : Nat) (view : View) (v : Nat)
/-- R534: A group's hold-off ends and its sources may be delivered. -/
  | holdoffExpiry (g : Nat)
/-- R537: STACK_CLEAR empties one target's stack. -/
  | stackClear (pg ag arg : Nat)
/-- R547: Writing FIRE makes one event on an event source. `v` is the word written to word 2 of the source's entry. -/
  | fire (n ag v : Nat)
/-- R536: A write of a source's TARGET or PRIO is refused while ACTIVE. `k` is the word of the source's entry. -/
  | intSourceWrite (n k ag v : Nat)
/-- R539: Filtered assertion of POWER_FAIL_N is an entry cause for the smoulder state. -/
  | powerFailAssert
/-- R539: Filtered deassertion of POWER_FAIL_N is a wake cause or releases a deferred wake. -/
  | powerFailDeassert
/-- R538: An event on a watched source is a wake cause in the smoulder state. `k` is the watch. -/
  | watchedWake (k : Nat)
/-- R542: SMOULDER_ENTER starts entry to the smoulder state. -/
  | smoulderEnter (pg ag arg : Nat)
/-- R543: SMOULDER_EXIT is a wake cause. -/
  | smoulderExit (pg ag arg : Nat)
/-- R542: Every 20 µs the Ember domain requests the next 5 mV VDD_CORE step. -/
  | vcoreStep
/-- R542: Entry completes, SM_STATE becomes SMOULDER and a latched wake begins exit. -/
  | smoulderEntryDone
/-- R543: Exit completes, ports are re-enabled and EMB_WAKE is raised. -/
  | smoulderExitDone
/-- R560: Once per second the ledger samples temperature, VREQ_MV and margin. `temp` is the highest die temperature in
  1/16 °C. -/
  | ledgerSample (temp : Int)
/-- R561: At each quarter hour a PERIOD record is queued. -/
  | periodRecord
/-- R561: At each whole hour an HOUR_CLOSE record is queued. -/
  | hourClose
/-- R564: The oldest queued record is written to flash when hold-up energy allows, or deferred. -/
  | ledgerWrite
/-- R564: Every 1 ms HOLDUP_SENSE is sampled and the hold-up energy estimated. `uv` is the voltage at HOLDUP_SENSE in
  µV. -/
  | holdupSample (uv : Nat)
/-- R566: A ledger program, erase or read-back failure sets FLASH_ERR and moves to the next sector. -/
  | flashTimeout
/-- R554: The LDG CNT_CLEAR clears a range of counters and their OVF bits. -/
  | ldgCntClear (pg ag arg : Nat)
/-- R567: READ_REC copies a ledger record into LDG_RD_DATA. -/
  | readRec (pg ag arg : Nat)
/-- R570: LDG_RESTART clears the STOPPED state of the ledger writer. -/
  | ldgRestart (pg ag arg : Nat)
/-- R550: A 32-bit read of a counter's low word latches the whole counter. `i` is the counter. -/
  | statLowRead (i ag : Nat)
/-- R550: A 32-bit write of a counter's low word is held for the agent. -/
  | statLowWrite (i ag v : Nat)
/-- R550: A 32-bit write of a counter's high word applies both halves in one step. -/
  | statHighWrite (i ag v : Nat)
/-- R568: SMBus command 0xD0 selects and fetches a ledger record chunk. `w` is the word written. -/
  | smbRecordSelect (w : Nat)
/-- R568: SMBus command 0xD1 returns 32 B of the fetched record. -/
  | smbRecordRead
/-- R568: SMBus command 0xD2 returns LDG_STATUS. -/
  | smbLdgStatus
/-- R602: SMBus command 0xD3 returns BOOT_STATUS bits 15:0. -/
  | smbBootStatusLo
/-- R602: SMBus command 0xD4 returns BOOT_STATUS bits 31:16. -/
  | smbBootStatusHi
/-- R612: SMBus command 0xD5 returns the highest die temperature. `shared` says that the pair's shared address was
  used, `temp` is the highest die temperature in 1/16 °C. -/
  | smbTemperature (shared : Bool) (temp : Int)
/-- R612: SMBus command 0xD6 returns the alarm word. `shared` says that the pair's shared address was used. -/
  | smbAlarm (shared : Bool)
/-- R612: The device answers the Alert Response Address while asserting SMB_ALERT_N. -/
  | smbAlertResponse
/-- R620: SCL low for 30 ms resets the SMBus slave interface. -/
  | smbTimeout
/-- R580: The rising edge of PORST_N releases a cold reset and boot begins. `board` is what the board shows at the
  reset release, `cells` the bytes written into the flash from outside since the last reset. -/
  | coldReset (board : Board) (cells : List (Nat × Nat))
/-- R583: CHIP_RESET starts a warm reset in the chosen boot mode. `board` is what the board shows at the reset
  release. -/
  | chipReset (pg ag arg : Nat) (board : Board)
/-- R594: A write of IMG_CTRL.GO fetches and checks a host-supplied image. `image` is what the reads of host memory
  return, none for a DMA error. -/
  | imageLoadGo (image : Option (List Byte))
/-- R589: RB_ADVANCE blows rollback fuses up to the running image's ROLLBACK. -/
  | rbAdvance (pg ag arg : Nat)
/-- R585: OTP_WRITE blows the set bits into an OTP word. -/
  | otpWrite (pg ag arg : Nat)
/-- R598: UNLOCK verifies a signed request and opens debug or scan scopes. -/
  | unlock (pg ag arg : Nat)
/-- R599: FLASH_READ reads bytes from flash into BOOT_FL_DATA. -/
  | flashRead (pg ag arg : Nat)
/-- R600: FLASH_PROG programs bytes within one flash page. -/
  | flashProg (pg ag arg : Nat)
/-- R600: FLASH_ERASE erases a 4 KiB flash sector. -/
  | flashErase (pg ag arg : Nat)
/-- R582: TRST_N or Test-Logic-Reset resets the TAP and the signed unlock. -/
  | tapReset
/-- R597: A TAP instruction takes effect subject to the lock and unlocked scopes. -/
  | jtagInstruction (i : Tap)
/-- R57: A block command that took time (TABLE_CLEAR, OWNER_SWEEP, TURF_SWEEP, CS_SCRUB, REINIT, RELEASE, flash and
  OTP commands and the like) completes, writes its final BLK_RESULT and clears CMD_BUSY. -/
  | commandCompletion (pg : Nat)
/-- R582: PORST_N goes low or VDD_AON falls below range, putting the whole device, the Ember domain included, into
  reset and cutting any flash operation short. -/
  | porstNAssert
/-- R496: The host link finishes training, as CXL or as the PCIe fallback, setting LINK_MODE, WIDTH and SPEED and the
  functions present. -/
  | hostLinkUp (mode width speed : Nat)
/-- R446: The mate link's PCS loses lock and LINK_STATE leaves UP, stopping mate forwarding and aborting any frame in
  transmission. -/
  | mateLinkDown
/-- R528: The host writes a function's configuration space, changing MSI-X Enable, the function mask, Bus Master
  Enable or the DVSEC image registers. `k` names the register: MSI-X Enable, function mask, Bus Master Enable,
  IMG_ADDR_LO, IMG_ADDR_HI, IMG_LEN, CXL.cache enable, CXL.mem enable. -/
  | configSpaceWrite (f k v : Nat)
/-- R564: The filtered HOLDUP_OK input changes level, changing HOLDUP_LOW, its interrupt level and the SMBus alarm. -/
  | holdupOkChange (level : Bool)
/-- R564: A flash page program or sector erase started by the ledger or a flash command finishes, freeing the flash
  for the next record, command or pending warm reset. -/
  | flashOperationComplete
/-- R612: The highest die temperature crosses 105 °C, setting or clearing bit 0 of the alarm word and with it
  SMB_ALERT_N. `hot` says whether it is now at or above 105 °C. -/
  | dieTemperatureAlarm (hot : Bool)
/-- R419: The time-unit PLL locks on TIME_CLK, setting PLL_LOCK and starting the time scales. -/
  | timePllLock
  deriving DecidableEq, Repr

end Sys2Proof
end

