-- ==== Sys2Proof/Decode.lean ====
section
/-! DEFINITION. Words that spell a command. No row of the table of steps gives bits: a command of this block is an event with operands (a
register access, a frame, an edge), so no word spells one. The encoding that the spec does give, of a Kindling micro-instruction, is in
Machine/Micro.lean. -/
namespace Sys2Proof

/-- The command a word spells by the table's bits: the table gives none. -/
def decodeTableWord (_nbits _w : Nat) : Option Instr := none

end Sys2Proof
end

