-- ==== Sys2Proof/Machine/Fields.lean ====
section
/-! DEFINITION. The register fields of the part, one by one, from the register tables of the spec: the offset of the
field's register, the strides and counts of its instances, its bits, access code (R12), commit class (R13), reset
value and range. The common header of R58 is not here: it is the `Page` record of State.lean. -/
namespace Sys2Proof.Machine

/-- The access codes of R12 that a field can carry. -/
inductive Access where
  | rw | ro | ros | wo
  deriving DecidableEq, Repr

/-- The commit classes of R13; `none` for a field software does not write. -/
inductive Commit where
  | none | imm | buf | post | trip
  deriving DecidableEq, Repr

/-- The kinds of page and of table window (R49, R50). -/
inductive Blk where
  | sns | boot | ldg | int | emb | time | hif | mate | xbar | sfab | peat
  | port | prs | eng | lkp | buf | qsc | rpl
  | queue | ident | recov | ring | isrc
  deriving DecidableEq, Repr

/-- One field of a register, with its instances: instance (i, j) stands at `off + s1 * i + s2 * j`. -/
structure Field where
  off : Nat
  s1 : Nat
  n1 : Nat
  s2 : Nat
  n2 : Nat
  hi : Nat
  lo : Nat
  acc : Access
  com : Commit
  reset : Nat
  min : Nat
  max : Nat
  deriving DecidableEq, Repr

namespace F

/-! ### SNS: the fields of R47 -/

def SNS_HS_TIMEOUT_HS_TO : Field := ⟨0x040, 0, 1, 0, 1, 7, 0, .rw, .trip, 16, 8, 255⟩
def SNS_AVS_CTRL_MIN_REARM : Field := ⟨0x044, 0, 1, 0, 1, 31, 31, .wo, .imm, 0, 0, 1⟩
def SNS_AVS_CTRL_HYST : Field := ⟨0x044, 0, 1, 0, 1, 23, 16, .rw, .imm, 4, 1, 32⟩
def SNS_AVS_CTRL_TARGET : Field := ⟨0x044, 0, 1, 0, 1, 15, 8, .rw, .imm, 8, 0, 40⟩
def SNS_AVS_CTRL_PMBUS_ADDR : Field := ⟨0x044, 0, 1, 0, 1, 7, 1, .rw, .imm, 0, 0, 127⟩
def SNS_AVS_CTRL_AVS_EN : Field := ⟨0x044, 0, 1, 0, 1, 0, 0, .rw, .imm, 0, 0, 1⟩
def SNS_AVS_LIMITS_VMAX_MV : Field := ⟨0x048, 0, 1, 0, 1, 25, 16, .rw, .trip, 850, 0, 1023⟩
def SNS_AVS_LIMITS_VMIN_MV : Field := ⟨0x048, 0, 1, 0, 1, 9, 0, .rw, .trip, 720, 0, 1023⟩
def SNS_AVS_STATUS_PMBUS_FAIL : Field := ⟨0x04C, 0, 1, 0, 1, 31, 31, .ros, .none, 0, 0, 1⟩
def SNS_AVS_STATUS_SPEED_LOW : Field := ⟨0x04C, 0, 1, 0, 1, 30, 30, .ros, .none, 0, 0, 1⟩
def SNS_AVS_STATUS_AT_VMAX : Field := ⟨0x04C, 0, 1, 0, 1, 29, 29, .ro, .none, 0, 0, 1⟩
def SNS_AVS_STATUS_VREQ_MV : Field := ⟨0x04C, 0, 1, 0, 1, 25, 16, .ro, .none, 0, 0, 1023⟩
def SNS_SPEED_REGION_MARGIN_MIN : Field := ⟨0x050, 4, 4, 0, 1, 15, 8, .ro, .none, 128, 0, 255⟩
def SNS_SPEED_REGION_MARGIN : Field := ⟨0x050, 4, 4, 0, 1, 7, 0, .ro, .none, 0, 0, 255⟩
def listSNS0 : List Field :=
  [SNS_HS_TIMEOUT_HS_TO, SNS_AVS_CTRL_MIN_REARM, SNS_AVS_CTRL_HYST, SNS_AVS_CTRL_TARGET, SNS_AVS_CTRL_PMBUS_ADDR, SNS_AVS_CTRL_AVS_EN, SNS_AVS_LIMITS_VMAX_MV, SNS_AVS_LIMITS_VMIN_MV, SNS_AVS_STATUS_PMBUS_FAIL, SNS_AVS_STATUS_SPEED_LOW, SNS_AVS_STATUS_AT_VMAX, SNS_AVS_STATUS_VREQ_MV]
def listSNS1 : List Field :=
  [SNS_SPEED_REGION_MARGIN_MIN, SNS_SPEED_REGION_MARGIN]

/-! ### PORT: the fields of R102 and R335 -/

def PORT_CFG_CT_MASK : Field := ⟨0x080, 64, 12, 0, 1, 31, 24, .rw, .buf, 0, 0, 255⟩
def PORT_CFG_DEFAULT_TC : Field := ⟨0x080, 64, 12, 0, 1, 18, 16, .rw, .buf, 0, 0, 7⟩
def PORT_CFG_MAX_LEN : Field := ⟨0x080, 64, 12, 0, 1, 13, 0, .rw, .buf, 1522, 64, 9728⟩
def PORT_PCP_MAP_TC_OF_PCP : Field := ⟨0x084, 64, 12, 0, 1, 23, 0, .rw, .buf, 16434824, 0, 16777215⟩
def PORT_LINK_FILT_DOWN_FILT : Field := ⟨0x088, 64, 12, 0, 1, 25, 16, .rw, .imm, 10, 0, 1000⟩
def PORT_LINK_FILT_UP_FILT : Field := ⟨0x088, 64, 12, 0, 1, 9, 0, .rw, .imm, 100, 0, 1000⟩
def PORT_PREEMPT_EXPRESS_MASK : Field := ⟨0x08C, 64, 12, 0, 1, 31, 24, .rw, .buf, 255, 0, 255⟩
def PORT_PREEMPT_VERIFY_TIME : Field := ⟨0x08C, 64, 12, 0, 1, 23, 16, .rw, .buf, 10, 1, 128⟩
def PORT_PREEMPT_ADD_FRAG_SIZE : Field := ⟨0x08C, 64, 12, 0, 1, 5, 4, .rw, .buf, 0, 0, 3⟩
def PORT_PREEMPT_VERIFY_DIS : Field := ⟨0x08C, 64, 12, 0, 1, 1, 1, .rw, .buf, 0, 0, 1⟩
def PORT_PREEMPT_PREEMPT_EN : Field := ⟨0x08C, 64, 12, 0, 1, 0, 0, .rw, .buf, 0, 0, 1⟩
def PORT_STATUS_LINK_STATE : Field := ⟨0x090, 64, 12, 0, 1, 31, 28, .ro, .none, 0, 0, 15⟩
def PORT_STATUS_RAW_LINK : Field := ⟨0x090, 64, 12, 0, 1, 27, 27, .ro, .none, 0, 0, 1⟩
def PORT_STATUS_LOCAL_FAULT : Field := ⟨0x090, 64, 12, 0, 1, 26, 26, .ro, .none, 0, 0, 1⟩
def PORT_STATUS_REMOTE_FAULT : Field := ⟨0x090, 64, 12, 0, 1, 25, 25, .ro, .none, 0, 0, 1⟩
def PORT_STATUS_AN_DONE : Field := ⟨0x090, 64, 12, 0, 1, 24, 24, .ro, .none, 0, 0, 1⟩
def PORT_STATUS_VERIFY_STATUS : Field := ⟨0x090, 64, 12, 0, 1, 23, 21, .ro, .none, 0, 0, 7⟩
def PORT_STATUS_PREEMPT_ACTIVE : Field := ⟨0x090, 64, 12, 0, 1, 20, 20, .ro, .none, 0, 0, 1⟩
def PORT_STATUS_FEC_ACTIVE : Field := ⟨0x090, 64, 12, 0, 1, 19, 18, .ro, .none, 0, 0, 3⟩
def PORT_STATUS_SPEED : Field := ⟨0x090, 64, 12, 0, 1, 15, 12, .ro, .none, 0, 0, 15⟩
def PORT_EVENT_DOWN_SEEN : Field := ⟨0x094, 64, 12, 0, 1, 31, 31, .ros, .none, 0, 0, 1⟩
def PORT_EVENT_UP_SEEN : Field := ⟨0x094, 64, 12, 0, 1, 30, 30, .ros, .none, 0, 0, 1⟩
def PORT_EVENT_VERIFY_FAILED : Field := ⟨0x094, 64, 12, 0, 1, 29, 29, .ros, .none, 0, 0, 1⟩
def PORT_EVENT_AN_FAIL : Field := ⟨0x094, 64, 12, 0, 1, 28, 28, .ros, .none, 0, 0, 1⟩
def PORT_EVENT_FLAP_CNT : Field := ⟨0x094, 64, 12, 0, 1, 15, 0, .ros, .none, 0, 0, 65535⟩
def QUAD_MODE_MODE : Field := ⟨0x380, 32, 3, 0, 1, 3, 0, .rw, .post, 15, 0, 15⟩
def QUAD_LANE_TX_INV0 : Field := ⟨0x384, 32, 3, 0, 1, 7, 7, .rw, .post, 0, 0, 1⟩
def QUAD_LANE_RX_INV0 : Field := ⟨0x384, 32, 3, 0, 1, 6, 6, .rw, .post, 0, 0, 1⟩
def QUAD_LANE_AN_EN0 : Field := ⟨0x384, 32, 3, 0, 1, 5, 5, .rw, .post, 0, 0, 1⟩
def QUAD_LANE_FEC0 : Field := ⟨0x384, 32, 3, 0, 1, 3, 2, .rw, .post, 0, 0, 3⟩
def QUAD_LANE_SPEED0 : Field := ⟨0x384, 32, 3, 0, 1, 1, 0, .rw, .post, 0, 0, 3⟩
def QUAD_LANE_TX_INV1 : Field := ⟨0x384, 32, 3, 0, 1, 15, 15, .rw, .post, 0, 0, 1⟩
def QUAD_LANE_RX_INV1 : Field := ⟨0x384, 32, 3, 0, 1, 14, 14, .rw, .post, 0, 0, 1⟩
def QUAD_LANE_AN_EN1 : Field := ⟨0x384, 32, 3, 0, 1, 13, 13, .rw, .post, 0, 0, 1⟩
def QUAD_LANE_FEC1 : Field := ⟨0x384, 32, 3, 0, 1, 11, 10, .rw, .post, 0, 0, 3⟩
def QUAD_LANE_SPEED1 : Field := ⟨0x384, 32, 3, 0, 1, 9, 8, .rw, .post, 0, 0, 3⟩
def QUAD_LANE_TX_INV2 : Field := ⟨0x384, 32, 3, 0, 1, 23, 23, .rw, .post, 0, 0, 1⟩
def QUAD_LANE_RX_INV2 : Field := ⟨0x384, 32, 3, 0, 1, 22, 22, .rw, .post, 0, 0, 1⟩
def QUAD_LANE_AN_EN2 : Field := ⟨0x384, 32, 3, 0, 1, 21, 21, .rw, .post, 0, 0, 1⟩
def QUAD_LANE_FEC2 : Field := ⟨0x384, 32, 3, 0, 1, 19, 18, .rw, .post, 0, 0, 3⟩
def QUAD_LANE_SPEED2 : Field := ⟨0x384, 32, 3, 0, 1, 17, 16, .rw, .post, 0, 0, 3⟩
def QUAD_LANE_TX_INV3 : Field := ⟨0x384, 32, 3, 0, 1, 31, 31, .rw, .post, 0, 0, 1⟩
def QUAD_LANE_RX_INV3 : Field := ⟨0x384, 32, 3, 0, 1, 30, 30, .rw, .post, 0, 0, 1⟩
def QUAD_LANE_AN_EN3 : Field := ⟨0x384, 32, 3, 0, 1, 29, 29, .rw, .post, 0, 0, 1⟩
def QUAD_LANE_FEC3 : Field := ⟨0x384, 32, 3, 0, 1, 27, 26, .rw, .post, 0, 0, 3⟩
def QUAD_LANE_SPEED3 : Field := ⟨0x384, 32, 3, 0, 1, 25, 24, .rw, .post, 0, 0, 3⟩
def GATE_CTRL_GATE_EN : Field := ⟨0x800, 64, 12, 0, 1, 31, 31, .rw, .buf, 0, 0, 1⟩
def GATE_CTRL_TRIG_EN : Field := ⟨0x800, 64, 12, 0, 1, 30, 30, .rw, .buf, 0, 0, 1⟩
def GATE_CTRL_TRIG : Field := ⟨0x800, 64, 12, 0, 1, 26, 24, .rw, .buf, 0, 0, 7⟩
def GATE_CTRL_LIST_LEN : Field := ⟨0x800, 64, 12, 0, 1, 8, 0, .rw, .buf, 0, 0, 256⟩
def GATE_CYCLE_CYCLE_TIME : Field := ⟨0x804, 64, 12, 0, 1, 29, 0, .rw, .buf, 1000000, 1000, 1000000000⟩
def GATE_BASE_NS_NS : Field := ⟨0x808, 64, 12, 0, 1, 29, 0, .rw, .buf, 0, 0, 999999999⟩
def GATE_BASE_SEC_LO_SEC_LO : Field := ⟨0x80C, 64, 12, 0, 1, 31, 0, .rw, .buf, 0, 0, 4294967295⟩
def GATE_BASE_SEC_HI_SEC_HI : Field := ⟨0x810, 64, 12, 0, 1, 15, 0, .rw, .buf, 0, 0, 65535⟩
def GATE_STATUS_OPER_BANK : Field := ⟨0x814, 64, 12, 0, 1, 31, 31, .ro, .none, 0, 0, 1⟩
def GATE_STATUS_OPER_EN : Field := ⟨0x814, 64, 12, 0, 1, 30, 30, .ro, .none, 0, 0, 1⟩
def GATE_STATUS_TAKEOVER_PENDING : Field := ⟨0x814, 64, 12, 0, 1, 29, 29, .ro, .none, 0, 0, 1⟩
def GATE_STATUS_CUR_STATES : Field := ⟨0x814, 64, 12, 0, 1, 23, 16, .ro, .none, 255, 0, 255⟩
def GATE_STATUS_CUR_ENTRY : Field := ⟨0x814, 64, 12, 0, 1, 15, 8, .ro, .none, 0, 0, 255⟩
def GATE_STATUS_CYCLE_CNT : Field := ⟨0x814, 64, 12, 0, 1, 7, 0, .ro, .none, 0, 0, 255⟩
def GATE_EVENT_OVERSIZE_SEEN : Field := ⟨0x818, 64, 12, 0, 1, 31, 31, .ros, .none, 0, 0, 1⟩
def GATE_EVENT_TAKEOVER_SEEN : Field := ⟨0x818, 64, 12, 0, 1, 30, 30, .ros, .none, 0, 0, 1⟩
def GATE_EVENT_TRIG_SLIP : Field := ⟨0x818, 64, 12, 0, 1, 29, 29, .ros, .none, 0, 0, 1⟩
def GATE_EVENT_STEP_OVERRUN : Field := ⟨0x818, 64, 12, 0, 1, 28, 28, .ros, .none, 0, 0, 1⟩
def GATE_EVENT_LAST_OVERSIZE_TC : Field := ⟨0x818, 64, 12, 0, 1, 2, 0, .ro, .none, 0, 0, 7⟩
def GATE_GUARD_GUARD_NS : Field := ⟨0x81C, 64, 12, 0, 1, 15, 0, .ro, .none, 0, 0, 65535⟩
def GATE_MAXWIN_W : Field := ⟨0x820, 64, 12, 4, 8, 29, 0, .ro, .none, 1073741823, 0, 1073741823⟩
def listPORT0 : List Field :=
  [PORT_CFG_CT_MASK, PORT_CFG_DEFAULT_TC, PORT_CFG_MAX_LEN, PORT_PCP_MAP_TC_OF_PCP, PORT_LINK_FILT_DOWN_FILT, PORT_LINK_FILT_UP_FILT, PORT_PREEMPT_EXPRESS_MASK, PORT_PREEMPT_VERIFY_TIME, PORT_PREEMPT_ADD_FRAG_SIZE, PORT_PREEMPT_VERIFY_DIS, PORT_PREEMPT_PREEMPT_EN, PORT_STATUS_LINK_STATE]
def listPORT1 : List Field :=
  [PORT_STATUS_RAW_LINK, PORT_STATUS_LOCAL_FAULT, PORT_STATUS_REMOTE_FAULT, PORT_STATUS_AN_DONE, PORT_STATUS_VERIFY_STATUS, PORT_STATUS_PREEMPT_ACTIVE, PORT_STATUS_FEC_ACTIVE, PORT_STATUS_SPEED, PORT_EVENT_DOWN_SEEN, PORT_EVENT_UP_SEEN, PORT_EVENT_VERIFY_FAILED, PORT_EVENT_AN_FAIL]
def listPORT2 : List Field :=
  [PORT_EVENT_FLAP_CNT, QUAD_MODE_MODE, QUAD_LANE_TX_INV0, QUAD_LANE_RX_INV0, QUAD_LANE_AN_EN0, QUAD_LANE_FEC0, QUAD_LANE_SPEED0, QUAD_LANE_TX_INV1, QUAD_LANE_RX_INV1, QUAD_LANE_AN_EN1, QUAD_LANE_FEC1, QUAD_LANE_SPEED1]
def listPORT3 : List Field :=
  [QUAD_LANE_TX_INV2, QUAD_LANE_RX_INV2, QUAD_LANE_AN_EN2, QUAD_LANE_FEC2, QUAD_LANE_SPEED2, QUAD_LANE_TX_INV3, QUAD_LANE_RX_INV3, QUAD_LANE_AN_EN3, QUAD_LANE_FEC3, QUAD_LANE_SPEED3, GATE_CTRL_GATE_EN, GATE_CTRL_TRIG_EN]
def listPORT4 : List Field :=
  [GATE_CTRL_TRIG, GATE_CTRL_LIST_LEN, GATE_CYCLE_CYCLE_TIME, GATE_BASE_NS_NS, GATE_BASE_SEC_LO_SEC_LO, GATE_BASE_SEC_HI_SEC_HI, GATE_STATUS_OPER_BANK, GATE_STATUS_OPER_EN, GATE_STATUS_TAKEOVER_PENDING, GATE_STATUS_CUR_STATES, GATE_STATUS_CUR_ENTRY, GATE_STATUS_CYCLE_CNT]
def listPORT5 : List Field :=
  [GATE_EVENT_OVERSIZE_SEEN, GATE_EVENT_TAKEOVER_SEEN, GATE_EVENT_TRIG_SLIP, GATE_EVENT_STEP_OVERRUN, GATE_EVENT_LAST_OVERSIZE_TC, GATE_GUARD_GUARD_NS, GATE_MAXWIN_W]

/-! ### PRS: the fields of R128 -/

def PRS_CTRL_CSUM_EN : Field := ⟨0x040, 0, 1, 0, 1, 7, 7, .rw, .buf, 1, 0, 1⟩
def PRS_CTRL_ECPRI_UDP_EN : Field := ⟨0x040, 0, 1, 0, 1, 6, 6, .rw, .buf, 0, 0, 1⟩
def PRS_CTRL_MAX_DEPTH : Field := ⟨0x040, 0, 1, 0, 1, 5, 0, .rw, .buf, 32, 1, 32⟩
def PRS_TPID_EXTRA_EN : Field := ⟨0x044, 0, 1, 0, 1, 16, 16, .rw, .buf, 0, 0, 1⟩
def PRS_TPID_EXTRA_TPID : Field := ⟨0x044, 0, 1, 0, 1, 15, 0, .rw, .buf, 37120, 0, 65535⟩
def PRS_UDP_A_VXLAN_PORT : Field := ⟨0x048, 0, 1, 0, 1, 31, 16, .rw, .buf, 4789, 0, 65535⟩
def PRS_UDP_A_GTPU_PORT : Field := ⟨0x048, 0, 1, 0, 1, 15, 0, .rw, .buf, 2152, 0, 65535⟩
def PRS_UDP_B_ECPRI_PORT : Field := ⟨0x04C, 0, 1, 0, 1, 15, 0, .rw, .buf, 0, 0, 65535⟩
def PRS_MAL_ACT_ACT : Field := ⟨0x050, 0, 1, 0, 1, 31, 0, .rw, .buf, 0, 0, 4294967295⟩
def PRS_SLOW_ACT_ACT : Field := ⟨0x054, 0, 1, 0, 1, 7, 0, .rw, .buf, 85, 0, 255⟩
def PRS_RINGS_MAL_RING : Field := ⟨0x058, 0, 1, 0, 1, 27, 16, .rw, .buf, 0, 0, 4095⟩
def PRS_RINGS_SLOW_RING : Field := ⟨0x058, 0, 1, 0, 1, 11, 0, .rw, .buf, 0, 0, 4095⟩
def PRS_MAL_MIRROR_SESSION : Field := ⟨0x05C, 0, 1, 0, 1, 3, 0, .rw, .buf, 0, 0, 15⟩
def PRS_SWAP_CFG_NEW_VALID : Field := ⟨0x060, 0, 1, 0, 1, 31, 31, .rw, .imm, 0, 0, 1⟩
def PRS_SWAP_CFG_PORT_MASK : Field := ⟨0x060, 0, 1, 0, 1, 30, 19, .rw, .imm, 0, 0, 4095⟩
def PRS_SWAP_CFG_NEW_ROOT : Field := ⟨0x060, 0, 1, 0, 1, 17, 0, .rw, .imm, 0, 0, 262143⟩
def PRS_SWAP_STATUS_RERUN_CNT : Field := ⟨0x064, 0, 1, 0, 1, 31, 16, .ros, .none, 0, 0, 65535⟩
def PRS_SWAP_STATUS_LAST_PAUSE_NS : Field := ⟨0x064, 0, 1, 0, 1, 10, 0, .ro, .none, 0, 0, 2047⟩
def PRS_NODE_IDX_INDEX : Field := ⟨0x070, 0, 1, 0, 1, 17, 0, .rw, .imm, 0, 0, 262143⟩
def PRS_NODE_DATA_3_ECC : Field := ⟨0x080, 0, 1, 0, 1, 31, 24, .ro, .none, 0, 0, 255⟩
def PRS_NODE_DATA_3_DATA : Field := ⟨0x080, 0, 1, 0, 1, 23, 0, .rw, .imm, 0, 0, 16777215⟩
def PRS_NODE_ERR_UNCORR : Field := ⟨0x084, 0, 1, 0, 1, 31, 31, .ros, .none, 0, 0, 1⟩
def PRS_NODE_ERR_CORR : Field := ⟨0x084, 0, 1, 0, 1, 30, 30, .ros, .none, 0, 0, 1⟩
def PRS_NODE_ERR_LAST_INDEX : Field := ⟨0x084, 0, 1, 0, 1, 17, 0, .ro, .none, 0, 0, 262143⟩
def PRS_NODE_DATA_DATA : Field := ⟨0x074, 4, 3, 0, 1, 31, 0, .rw, .imm, 0, 0, 4294967295⟩
def PRS_TREE_ROOT_VALID : Field := ⟨0x100, 4, 64, 0, 1, 31, 31, .ro, .none, 0, 0, 1⟩
def PRS_TREE_ROOT_ROOT : Field := ⟨0x100, 4, 64, 0, 1, 17, 0, .ro, .none, 0, 0, 262143⟩
def listPRS0 : List Field :=
  [PRS_CTRL_CSUM_EN, PRS_CTRL_ECPRI_UDP_EN, PRS_CTRL_MAX_DEPTH, PRS_TPID_EXTRA_EN, PRS_TPID_EXTRA_TPID, PRS_UDP_A_VXLAN_PORT, PRS_UDP_A_GTPU_PORT, PRS_UDP_B_ECPRI_PORT, PRS_MAL_ACT_ACT, PRS_SLOW_ACT_ACT, PRS_RINGS_MAL_RING, PRS_RINGS_SLOW_RING]
def listPRS1 : List Field :=
  [PRS_MAL_MIRROR_SESSION, PRS_SWAP_CFG_NEW_VALID, PRS_SWAP_CFG_PORT_MASK, PRS_SWAP_CFG_NEW_ROOT, PRS_SWAP_STATUS_RERUN_CNT, PRS_SWAP_STATUS_LAST_PAUSE_NS, PRS_NODE_IDX_INDEX, PRS_NODE_DATA_3_ECC, PRS_NODE_DATA_3_DATA, PRS_NODE_ERR_UNCORR, PRS_NODE_ERR_CORR, PRS_NODE_ERR_LAST_INDEX]
def listPRS2 : List Field :=
  [PRS_NODE_DATA_DATA, PRS_TREE_ROOT_VALID, PRS_TREE_ROOT_ROOT]

/-! ### LKP: the fields of R157 -/

def LKP_SEED_SEED : Field := ⟨0x040, 4, 2, 0, 1, 31, 0, .rw, .trip, 0, 0, 4294967295⟩
def LKP_HASH_ROT_ROT_1 : Field := ⟨0x048, 0, 1, 0, 1, 12, 8, .rw, .trip, 11, 1, 31⟩
def LKP_HASH_ROT_ROT_0 : Field := ⟨0x048, 0, 1, 0, 1, 4, 0, .rw, .trip, 5, 1, 31⟩
def LKP_AGE_CFG_AGER_EN : Field := ⟨0x04C, 0, 1, 0, 1, 31, 31, .rw, .trip, 0, 0, 1⟩
def LKP_AGE_CFG_TICK_MS : Field := ⟨0x04C, 0, 1, 0, 1, 25, 16, .rw, .trip, 1000, 1, 1000⟩
def LKP_AGE_CFG_AGE_LIMIT : Field := ⟨0x04C, 0, 1, 0, 1, 14, 0, .rw, .trip, 300, 1, 32767⟩
def LKP_AGE_NOW_NOW : Field := ⟨0x050, 0, 1, 0, 1, 15, 0, .ro, .none, 0, 0, 65535⟩
def LKP_TBL_FILL_EM_USED : Field := ⟨0x054, 0, 1, 0, 1, 20, 0, .ro, .none, 0, 0, 2097151⟩
def LKP_OVF_FILL_OVF_USED : Field := ⟨0x058, 0, 1, 0, 1, 14, 0, .ro, .none, 0, 0, 32767⟩
def LKP_LPM_FILL_LPM_VALID : Field := ⟨0x05C, 0, 1, 0, 1, 16, 0, .ro, .none, 0, 0, 131071⟩
def LKP_ACT_LO_ACTION : Field := ⟨0x0B0, 0, 1, 0, 1, 31, 0, .rw, .imm, 0, 0, 4294967295⟩
def LKP_ACT_HI_MATE : Field := ⟨0x0B4, 0, 1, 0, 1, 9, 9, .rw, .imm, 0, 0, 1⟩
def LKP_ACT_HI_STATIC : Field := ⟨0x0B4, 0, 1, 0, 1, 8, 8, .rw, .imm, 0, 0, 1⟩
def LKP_ACT_HI_ACTION : Field := ⟨0x0B4, 0, 1, 0, 1, 7, 0, .rw, .imm, 0, 0, 255⟩
def LKP_CMD_ARG_WIDTH : Field := ⟨0x0B8, 0, 1, 0, 1, 31, 30, .rw, .imm, 0, 0, 3⟩
def LKP_CMD_ARG_LOCATION : Field := ⟨0x0B8, 0, 1, 0, 1, 20, 0, .rw, .imm, 0, 0, 2097151⟩
def LKP_CMD_OUT_FOUND : Field := ⟨0x0BC, 0, 1, 0, 1, 31, 31, .ro, .none, 0, 0, 1⟩
def LKP_CMD_OUT_WHERE : Field := ⟨0x0BC, 0, 1, 0, 1, 29, 28, .ro, .none, 0, 0, 3⟩
def LKP_CMD_OUT_LOCATION : Field := ⟨0x0BC, 0, 1, 0, 1, 20, 0, .ro, .none, 0, 0, 2097151⟩
def LKP_CMD_TS_TS : Field := ⟨0x0C0, 0, 1, 0, 1, 15, 0, .ro, .none, 0, 0, 65535⟩
def LKP_LPM_META_PLEN : Field := ⟨0x0E0, 0, 1, 0, 1, 31, 24, .rw, .imm, 255, 0, 255⟩
def LKP_LPM_META_FAM : Field := ⟨0x0E0, 0, 1, 0, 1, 23, 23, .rw, .imm, 0, 0, 1⟩
def LKP_LPM_META_VRF : Field := ⟨0x0E0, 0, 1, 0, 1, 22, 16, .rw, .imm, 0, 0, 127⟩
def LKP_LPM_META_ACTION : Field := ⟨0x0E0, 0, 1, 0, 1, 15, 0, .rw, .imm, 0, 0, 65535⟩
def LKP_LPM_IDX_INDEX : Field := ⟨0x0E4, 0, 1, 0, 1, 15, 0, .rw, .imm, 0, 0, 65535⟩
def LKP_ERR_UNCORR : Field := ⟨0x0E8, 0, 1, 0, 1, 31, 31, .ros, .none, 0, 0, 1⟩
def LKP_ERR_CORR : Field := ⟨0x0E8, 0, 1, 0, 1, 30, 30, .ros, .none, 0, 0, 1⟩
def LKP_ERR_TBL : Field := ⟨0x0E8, 0, 1, 0, 1, 29, 29, .ro, .none, 0, 0, 1⟩
def LKP_ERR_LAST_LOC : Field := ⟨0x0E8, 0, 1, 0, 1, 20, 0, .ro, .none, 0, 0, 2097151⟩
def LKP_LEARN_RING_NOTIFY_AGE : Field := ⟨0x140, 0, 1, 0, 1, 31, 31, .rw, .buf, 0, 0, 1⟩
def LKP_LEARN_RING_RING : Field := ⟨0x140, 0, 1, 0, 1, 11, 0, .rw, .buf, 0, 0, 4095⟩
def LKP_KEY_DATA : Field := ⟨0x080, 4, 12, 0, 1, 31, 0, .rw, .imm, 0, 0, 4294967295⟩
def LKP_LPM_KEY_DATA : Field := ⟨0x0D0, 4, 4, 0, 1, 31, 0, .rw, .imm, 0, 0, 4294967295⟩
def LKP_LEARN_MODE : Field := ⟨0x100, 4, 12, 0, 1, 31, 30, .rw, .buf, 0, 0, 3⟩
def LKP_LEARN_BURST : Field := ⟨0x100, 4, 12, 0, 1, 23, 16, .rw, .buf, 16, 1, 255⟩
def LKP_LEARN_RATE : Field := ⟨0x100, 4, 12, 0, 1, 9, 0, .rw, .buf, 100, 0, 1000⟩
def listLKP0 : List Field :=
  [LKP_SEED_SEED, LKP_HASH_ROT_ROT_1, LKP_HASH_ROT_ROT_0, LKP_AGE_CFG_AGER_EN, LKP_AGE_CFG_TICK_MS, LKP_AGE_CFG_AGE_LIMIT, LKP_AGE_NOW_NOW, LKP_TBL_FILL_EM_USED, LKP_OVF_FILL_OVF_USED, LKP_LPM_FILL_LPM_VALID, LKP_ACT_LO_ACTION, LKP_ACT_HI_MATE]
def listLKP1 : List Field :=
  [LKP_ACT_HI_STATIC, LKP_ACT_HI_ACTION, LKP_CMD_ARG_WIDTH, LKP_CMD_ARG_LOCATION, LKP_CMD_OUT_FOUND, LKP_CMD_OUT_WHERE, LKP_CMD_OUT_LOCATION, LKP_CMD_TS_TS, LKP_LPM_META_PLEN, LKP_LPM_META_FAM, LKP_LPM_META_VRF, LKP_LPM_META_ACTION]
def listLKP2 : List Field :=
  [LKP_LPM_IDX_INDEX, LKP_ERR_UNCORR, LKP_ERR_CORR, LKP_ERR_TBL, LKP_ERR_LAST_LOC, LKP_LEARN_RING_NOTIFY_AGE, LKP_LEARN_RING_RING, LKP_KEY_DATA, LKP_LPM_KEY_DATA, LKP_LEARN_MODE, LKP_LEARN_BURST, LKP_LEARN_RATE]

/-! ### ENG: the fields of R223 -/

def ENG_CTRL_BRK_EN : Field := ⟨0x040, 0, 1, 0, 1, 31, 31, .rw, .buf, 0, 0, 1⟩
def ENG_CTRL_BRK_HALT : Field := ⟨0x040, 0, 1, 0, 1, 30, 30, .rw, .buf, 0, 0, 1⟩
def ENG_CTRL_INJ_PAR : Field := ⟨0x040, 0, 1, 0, 1, 26, 24, .rw, .imm, 0, 0, 7⟩
def ENG_CTRL_EVENT_MASK : Field := ⟨0x040, 0, 1, 0, 1, 23, 16, .rw, .buf, 0, 0, 255⟩
def ENG_CTRL_MAX_STEPS : Field := ⟨0x040, 0, 1, 0, 1, 11, 0, .rw, .buf, 256, 32, 4095⟩
def ENG_CS_ERR_PARITY_CNT : Field := ⟨0x044, 0, 1, 0, 1, 31, 16, .ros, .none, 0, 0, 65535⟩
def ENG_CS_ERR_UNREPAIRED : Field := ⟨0x044, 0, 1, 0, 1, 15, 15, .ros, .none, 0, 0, 1⟩
def ENG_CS_ERR_STUCK : Field := ⟨0x044, 0, 1, 0, 1, 14, 14, .ros, .none, 0, 0, 1⟩
def ENG_CS_ERR_LAST_WORD : Field := ⟨0x044, 0, 1, 0, 1, 12, 0, .ro, .none, 0, 0, 8191⟩
def ENG_CS_WSTAT_CODE : Field := ⟨0x048, 0, 1, 0, 1, 31, 28, .ro, .none, 0, 0, 15⟩
def ENG_CS_WSTAT_WORD : Field := ⟨0x048, 0, 1, 0, 1, 12, 0, .ro, .none, 0, 0, 8191⟩
def ENG_FAULT_HEAD_HEAD : Field := ⟨0x04C, 0, 1, 0, 1, 3, 0, .ro, .none, 0, 0, 15⟩
def ENG_SAMPLE_STAT_LOST : Field := ⟨0x050, 0, 1, 0, 1, 31, 20, .ros, .none, 0, 0, 4095⟩
def ENG_SAMPLE_STAT_WATERMARK : Field := ⟨0x050, 0, 1, 0, 1, 19, 12, .rw, .imm, 128, 1, 255⟩
def ENG_SAMPLE_STAT_COUNT : Field := ⟨0x050, 0, 1, 0, 1, 8, 0, .ro, .none, 0, 0, 511⟩
def ENG_IMAGE_VER_VER : Field := ⟨0x05C, 0, 1, 0, 1, 31, 0, .ro, .none, 0, 0, 4294967295⟩
def ENG_DBG_SEL_SEL_HALTED : Field := ⟨0x060, 0, 1, 0, 1, 31, 31, .ro, .none, 0, 0, 1⟩
def ENG_DBG_SEL_ENGINE : Field := ⟨0x060, 0, 1, 0, 1, 15, 12, .rw, .imm, 0, 0, 15⟩
def ENG_DBG_SEL_CONTEXT : Field := ⟨0x060, 0, 1, 0, 1, 10, 8, .rw, .imm, 0, 0, 7⟩
def ENG_DBG_SEL_WORD : Field := ⟨0x060, 0, 1, 0, 1, 4, 0, .rw, .imm, 0, 0, 18⟩
def ENG_SAMPLE_DATA : Field := ⟨0x054, 4, 2, 0, 1, 31, 0, .ro, .none, 0, 0, 4294967295⟩
def ENG_DBG_DATA : Field := ⟨0x064, 4, 2, 0, 1, 31, 0, .rw, .imm, 0, 0, 4294967295⟩
def ENG_DISPATCH_VALID : Field := ⟨0x080, 4, 20, 0, 1, 31, 31, .rw, .buf, 0, 0, 1⟩
def ENG_DISPATCH_PC : Field := ⟨0x080, 4, 20, 0, 1, 12, 0, .rw, .buf, 0, 0, 4607⟩
def ENG_PCFG_OVF_ACT : Field := ⟨0x0E0, 4, 8, 0, 1, 31, 30, .rw, .imm, 0, 0, 3⟩
def ENG_PCFG_EN : Field := ⟨0x0E0, 4, 8, 0, 1, 29, 29, .rw, .imm, 0, 0, 1⟩
def ENG_PCFG_EVENT : Field := ⟨0x0E0, 4, 8, 0, 1, 5, 0, .rw, .imm, 0, 0, 63⟩
def ENG_FAULT_LOG_CAUSE : Field := ⟨0x100, 4, 16, 0, 1, 31, 28, .ro, .none, 0, 0, 15⟩
def ENG_FAULT_LOG_ENGINE : Field := ⟨0x100, 4, 16, 0, 1, 27, 24, .ro, .none, 0, 0, 15⟩
def ENG_FAULT_LOG_CONTEXT : Field := ⟨0x100, 4, 16, 0, 1, 23, 21, .ro, .none, 0, 0, 7⟩
def ENG_FAULT_LOG_PC : Field := ⟨0x100, 4, 16, 0, 1, 12, 0, .ro, .none, 0, 0, 8191⟩
def ENG_RELOAD_RELOAD : Field := ⟨0x140, 4, 8, 0, 1, 31, 0, .rw, .imm, 0, 0, 4294967295⟩
def ENG_SCRATCH_DATA : Field := ⟨0x200, 4, 128, 0, 1, 31, 0, .rw, .imm, 0, 0, 4294967295⟩
def ENG_FIX_SNAP : Field := ⟨0x400, 32, 16, 4, 8, 31, 0, .ro, .none, 0, 0, 4294967295⟩
def ENG_PCNT_SNAP : Field := ⟨0x600, 32, 16, 4, 8, 31, 0, .ro, .none, 0, 0, 4294967295⟩
def ENG_PCNT_OVF_OVF0 : Field := ⟨0x800, 4, 16, 0, 1, 0, 0, .ros, .none, 0, 0, 1⟩
def ENG_PCNT_OVF_OVF1 : Field := ⟨0x800, 4, 16, 0, 1, 1, 1, .ros, .none, 0, 0, 1⟩
def ENG_PCNT_OVF_OVF2 : Field := ⟨0x800, 4, 16, 0, 1, 2, 2, .ros, .none, 0, 0, 1⟩
def ENG_PCNT_OVF_OVF3 : Field := ⟨0x800, 4, 16, 0, 1, 3, 3, .ros, .none, 0, 0, 1⟩
def ENG_PCNT_OVF_OVF4 : Field := ⟨0x800, 4, 16, 0, 1, 4, 4, .ros, .none, 0, 0, 1⟩
def ENG_PCNT_OVF_OVF5 : Field := ⟨0x800, 4, 16, 0, 1, 5, 5, .ros, .none, 0, 0, 1⟩
def ENG_PCNT_OVF_OVF6 : Field := ⟨0x800, 4, 16, 0, 1, 6, 6, .ros, .none, 0, 0, 1⟩
def ENG_PCNT_OVF_OVF7 : Field := ⟨0x800, 4, 16, 0, 1, 7, 7, .ros, .none, 0, 0, 1⟩
def listENG0 : List Field :=
  [ENG_CTRL_BRK_EN, ENG_CTRL_BRK_HALT, ENG_CTRL_INJ_PAR, ENG_CTRL_EVENT_MASK, ENG_CTRL_MAX_STEPS, ENG_CS_ERR_PARITY_CNT, ENG_CS_ERR_UNREPAIRED, ENG_CS_ERR_STUCK, ENG_CS_ERR_LAST_WORD, ENG_CS_WSTAT_CODE, ENG_CS_WSTAT_WORD, ENG_FAULT_HEAD_HEAD]
def listENG1 : List Field :=
  [ENG_SAMPLE_STAT_LOST, ENG_SAMPLE_STAT_WATERMARK, ENG_SAMPLE_STAT_COUNT, ENG_IMAGE_VER_VER, ENG_DBG_SEL_SEL_HALTED, ENG_DBG_SEL_ENGINE, ENG_DBG_SEL_CONTEXT, ENG_DBG_SEL_WORD, ENG_SAMPLE_DATA, ENG_DBG_DATA, ENG_DISPATCH_VALID, ENG_DISPATCH_PC]
def listENG2 : List Field :=
  [ENG_PCFG_OVF_ACT, ENG_PCFG_EN, ENG_PCFG_EVENT, ENG_FAULT_LOG_CAUSE, ENG_FAULT_LOG_ENGINE, ENG_FAULT_LOG_CONTEXT, ENG_FAULT_LOG_PC, ENG_RELOAD_RELOAD, ENG_SCRATCH_DATA, ENG_FIX_SNAP, ENG_PCNT_SNAP, ENG_PCNT_OVF_OVF0]
def listENG3 : List Field :=
  [ENG_PCNT_OVF_OVF1, ENG_PCNT_OVF_OVF2, ENG_PCNT_OVF_OVF3, ENG_PCNT_OVF_OVF4, ENG_PCNT_OVF_OVF5, ENG_PCNT_OVF_OVF6, ENG_PCNT_OVF_OVF7]

/-! ### BUF: the fields of R251 -/

def BUF_QUOTA_PC_QUOTA : Field := ⟨0x040, 0, 1, 0, 1, 16, 0, .rw, .buf, 4096, 0, 65536⟩
def BUF_QUOTA_ENG_QUOTA : Field := ⟨0x044, 0, 1, 0, 1, 16, 0, .rw, .buf, 512, 0, 65536⟩
def BUF_QUOTA_HM_QUOTA : Field := ⟨0x048, 0, 1, 0, 1, 16, 0, .rw, .buf, 1024, 0, 65536⟩
def BUF_REFILL_RES_REFILL_RES : Field := ⟨0x04C, 0, 1, 0, 1, 16, 0, .rw, .buf, 4096, 40, 65536⟩
def BUF_SHARED_LIMIT_LIMIT : Field := ⟨0x050, 0, 1, 0, 1, 16, 0, .rw, .buf, 51968, 0, 65536⟩
def BUF_CHIP_CAP_CAP : Field := ⟨0x054, 0, 1, 0, 1, 18, 0, .rw, .buf, 262144, 0, 262144⟩
def BUF_ARB_HM : Field := ⟨0x058, 0, 1, 0, 1, 7, 6, .rw, .buf, 1, 0, 3⟩
def BUF_ARB_REFILL : Field := ⟨0x058, 0, 1, 0, 1, 5, 4, .rw, .buf, 3, 0, 3⟩
def BUF_ARB_ENG : Field := ⟨0x058, 0, 1, 0, 1, 3, 2, .rw, .buf, 2, 0, 3⟩
def BUF_ARB_PC : Field := ⟨0x058, 0, 1, 0, 1, 1, 0, .rw, .buf, 2, 0, 3⟩
def BUF_USE_CHIP_USE : Field := ⟨0x074, 0, 1, 0, 1, 18, 0, .ro, .none, 0, 0, 524287⟩
def BUF_FREE_ERR_A_CODE : Field := ⟨0x080, 0, 1, 0, 1, 31, 28, .ro, .none, 0, 0, 15⟩
def BUF_FREE_ERR_A_REQUESTER : Field := ⟨0x080, 0, 1, 0, 1, 23, 16, .ro, .none, 0, 0, 255⟩
def BUF_FREE_ERR_A_FOUND : Field := ⟨0x080, 0, 1, 0, 1, 15, 8, .ro, .none, 0, 0, 255⟩
def BUF_FREE_ERR_B_HEAD : Field := ⟨0x084, 0, 1, 0, 1, 31, 16, .ro, .none, 0, 0, 65535⟩
def BUF_FREE_ERR_B_BILLET : Field := ⟨0x084, 0, 1, 0, 1, 15, 0, .ro, .none, 0, 0, 65535⟩
def BUF_LINK_ERR_UNCORR : Field := ⟨0x088, 0, 1, 0, 1, 31, 31, .ros, .none, 0, 0, 1⟩
def BUF_LINK_ERR_CORR : Field := ⟨0x088, 0, 1, 0, 1, 30, 30, .ros, .none, 0, 0, 1⟩
def BUF_LINK_ERR_KIND : Field := ⟨0x088, 0, 1, 0, 1, 29, 28, .ro, .none, 0, 0, 3⟩
def BUF_LINK_ERR_LAST_INDEX : Field := ⟨0x088, 0, 1, 0, 1, 15, 0, .ro, .none, 0, 0, 65535⟩
def BUF_CMD_PTR_PTR : Field := ⟨0x090, 0, 1, 0, 1, 25, 0, .rw, .imm, 0, 0, 67108863⟩
def BUF_CMD_TAG_TAG : Field := ⟨0x094, 0, 1, 0, 1, 7, 0, .rw, .imm, 255, 0, 255⟩
def BUF_CMD_OUT_CODE : Field := ⟨0x098, 0, 1, 0, 1, 31, 28, .ro, .none, 0, 0, 15⟩
def BUF_CMD_OUT_FREED : Field := ⟨0x098, 0, 1, 0, 1, 16, 0, .ro, .none, 0, 0, 131071⟩
def BUF_HELD_PC_COUNT : Field := ⟨0x060, 0, 1, 0, 1, 16, 0, .ro, .none, 0, 0, 131071⟩
def BUF_HELD_ENG_COUNT : Field := ⟨0x064, 0, 1, 0, 1, 16, 0, .ro, .none, 0, 0, 131071⟩
def BUF_HELD_HM_COUNT : Field := ⟨0x068, 0, 1, 0, 1, 16, 0, .ro, .none, 0, 0, 131071⟩
def BUF_USE_SHARED_COUNT : Field := ⟨0x06C, 0, 1, 0, 1, 16, 0, .ro, .none, 0, 0, 131071⟩
def BUF_USE_REFILL_COUNT : Field := ⟨0x070, 0, 1, 0, 1, 16, 0, .ro, .none, 0, 0, 131071⟩
def BUF_FREE_CNT_COUNT : Field := ⟨0x078, 0, 1, 0, 1, 16, 0, .ro, .none, 65536, 0, 131071⟩
def BUF_RETIRED_COUNT : Field := ⟨0x07C, 0, 1, 0, 1, 16, 0, .ro, .none, 0, 0, 131071⟩
def BUF_LINK_HEAD_DATA_DATA : Field := ⟨0x09C, 4, 4, 0, 1, 31, 0, .ro, .none, 0, 0, 4294967295⟩
def BUF_GMIN_GMIN_HI : Field := ⟨0x100, 4, 52, 0, 1, 31, 16, .rw, .buf, 0, 0, 65535⟩
def BUF_GMIN_GMIN_LO : Field := ⟨0x100, 4, 52, 0, 1, 15, 0, .rw, .buf, 0, 0, 65535⟩
def BUF_DRAIN_RES_DRAIN_RES0 : Field := ⟨0x200, 4, 12, 0, 1, 7, 0, .rw, .buf, 80, 0, 255⟩
def BUF_DRAIN_RES_DRAIN_RES1 : Field := ⟨0x200, 4, 12, 0, 1, 15, 8, .rw, .buf, 80, 0, 255⟩
def BUF_DRAIN_RES_DRAIN_RES2 : Field := ⟨0x200, 4, 12, 0, 1, 23, 16, .rw, .buf, 80, 0, 255⟩
def BUF_DRAIN_RES_DRAIN_RES3 : Field := ⟨0x200, 4, 12, 0, 1, 31, 24, .rw, .buf, 80, 0, 255⟩
def BUF_DRAIN_USE_USE0 : Field := ⟨0x240, 4, 12, 0, 1, 7, 0, .ro, .none, 0, 0, 255⟩
def BUF_DRAIN_USE_USE1 : Field := ⟨0x240, 4, 12, 0, 1, 15, 8, .ro, .none, 0, 0, 255⟩
def BUF_DRAIN_USE_USE2 : Field := ⟨0x240, 4, 12, 0, 1, 23, 16, .ro, .none, 0, 0, 255⟩
def BUF_DRAIN_USE_USE3 : Field := ⟨0x240, 4, 12, 0, 1, 31, 24, .ro, .none, 0, 0, 255⟩
def BUF_USE_USE_HI : Field := ⟨0x300, 4, 52, 0, 1, 31, 16, .ro, .none, 0, 0, 65535⟩
def BUF_USE_USE_LO : Field := ⟨0x300, 4, 52, 0, 1, 15, 0, .ro, .none, 0, 0, 65535⟩
def listBUF0 : List Field :=
  [BUF_QUOTA_PC_QUOTA, BUF_QUOTA_ENG_QUOTA, BUF_QUOTA_HM_QUOTA, BUF_REFILL_RES_REFILL_RES, BUF_SHARED_LIMIT_LIMIT, BUF_CHIP_CAP_CAP, BUF_ARB_HM, BUF_ARB_REFILL, BUF_ARB_ENG, BUF_ARB_PC, BUF_USE_CHIP_USE, BUF_FREE_ERR_A_CODE]
def listBUF1 : List Field :=
  [BUF_FREE_ERR_A_REQUESTER, BUF_FREE_ERR_A_FOUND, BUF_FREE_ERR_B_HEAD, BUF_FREE_ERR_B_BILLET, BUF_LINK_ERR_UNCORR, BUF_LINK_ERR_CORR, BUF_LINK_ERR_KIND, BUF_LINK_ERR_LAST_INDEX, BUF_CMD_PTR_PTR, BUF_CMD_TAG_TAG, BUF_CMD_OUT_CODE, BUF_CMD_OUT_FREED]
def listBUF2 : List Field :=
  [BUF_HELD_PC_COUNT, BUF_HELD_ENG_COUNT, BUF_HELD_HM_COUNT, BUF_USE_SHARED_COUNT, BUF_USE_REFILL_COUNT, BUF_FREE_CNT_COUNT, BUF_RETIRED_COUNT, BUF_LINK_HEAD_DATA_DATA, BUF_GMIN_GMIN_HI, BUF_GMIN_GMIN_LO, BUF_DRAIN_RES_DRAIN_RES0, BUF_DRAIN_RES_DRAIN_RES1]
def listBUF3 : List Field :=
  [BUF_DRAIN_RES_DRAIN_RES2, BUF_DRAIN_RES_DRAIN_RES3, BUF_DRAIN_USE_USE0, BUF_DRAIN_USE_USE1, BUF_DRAIN_USE_USE2, BUF_DRAIN_USE_USE3, BUF_USE_USE_HI, BUF_USE_USE_LO]

/-! ### QSC: the fields of R278 and R306 -/

def QSC_WRED_TH_MAX_TH : Field := ⟨0x800, 24, 64, 8, 3, 31, 16, .rw, .buf, 65535, 0, 65535⟩
def QSC_WRED_TH_MIN_TH : Field := ⟨0x800, 24, 64, 8, 3, 15, 0, .rw, .buf, 65535, 0, 65535⟩
def QSC_WRED_P_MAX_P : Field := ⟨0x804, 24, 64, 8, 3, 7, 0, .rw, .buf, 0, 0, 255⟩
def QSC_SAMPLE_CFG_SAMPLE_EN : Field := ⟨0x040, 0, 1, 0, 1, 31, 31, .rw, .imm, 1, 0, 1⟩
def QSC_SAMPLE_CFG_HIST_SHIFT : Field := ⟨0x040, 0, 1, 0, 1, 4, 0, .rw, .imm, 4, 0, 20⟩
def QSC_SHP_SEL_SEL : Field := ⟨0x200, 0, 1, 0, 1, 10, 0, .rw, .imm, 0, 0, 2047⟩
def QSC_SHP_SLOPE_RESET_FULL : Field := ⟨0x240, 0, 1, 0, 1, 31, 31, .rw, .buf, 0, 0, 1⟩
def QSC_SHP_SLOPE_IDLE_SLOPE : Field := ⟨0x240, 0, 1, 0, 1, 18, 0, .rw, .buf, 400000, 1, 400000⟩
def QSC_SHP_HILO_CREDIT_LIMIT : Field := ⟨0x244, 4, 2, 0, 1, 30, 0, .rw, .buf, 77984, 0, 2147483647⟩
def QSC_SHP_CFG_EN : Field := ⟨0x24C, 0, 1, 0, 1, 31, 31, .rw, .buf, 0, 0, 1⟩
def QSC_SHP_CFG_PORT : Field := ⟨0x24C, 0, 1, 0, 1, 21, 16, .rw, .buf, 0, 0, 63⟩
def QSC_SHP_CREDIT_CREDIT : Field := ⟨0x250, 0, 1, 0, 1, 31, 0, .ro, .none, 0, 0, 4294967295⟩
def QSC_PORT_ARB_TC7_CLASS : Field := ⟨0xE00, 4, 12, 0, 1, 23, 21, .ro, .none, 7, 0, 7⟩
def QSC_PORT_ARB_TC_CLASS : Field := ⟨0xE00, 4, 12, 0, 1, 20, 0, .rw, .buf, 1754760, 0, 2097151⟩
def QSC_STARVE_CFG_STARVE_ROUNDS : Field := ⟨0xE40, 0, 1, 0, 1, 15, 0, .rw, .buf, 4096, 1, 65535⟩
def QSC_STARVE_STAT_ANY : Field := ⟨0xE44, 0, 1, 0, 1, 31, 31, .ros, .none, 0, 0, 1⟩
def QSC_STARVE_STAT_LAST_QUEUE : Field := ⟨0xE44, 0, 1, 0, 1, 15, 0, .ro, .none, 0, 0, 65535⟩
def QSC_POL_IDX_IDX : Field := ⟨0x300, 0, 1, 0, 1, 13, 0, .rw, .imm, 0, 0, 16383⟩
def QSC_POL_MODE_MODE : Field := ⟨0x304, 0, 1, 0, 1, 1, 0, .rw, .imm, 0, 0, 3⟩
def QSC_POL_CIR_CIR : Field := ⟨0x308, 0, 1, 0, 1, 31, 0, .rw, .imm, 0, 0, 4294967295⟩
def QSC_POL_PIR_PIR : Field := ⟨0x30C, 0, 1, 0, 1, 31, 0, .rw, .imm, 0, 0, 4294967295⟩
def QSC_POL_CBS_CBS : Field := ⟨0x310, 0, 1, 0, 1, 23, 0, .rw, .imm, 9728, 64, 16777215⟩
def QSC_POL_PBS_PBS : Field := ⟨0x314, 0, 1, 0, 1, 23, 0, .rw, .imm, 9728, 64, 16777215⟩
def QSC_POL_TOK_C_TC : Field := ⟨0x318, 0, 1, 0, 1, 23, 0, .ro, .none, 0, 0, 16777215⟩
def QSC_POL_TOK_P_TP : Field := ⟨0x31C, 0, 1, 0, 1, 23, 0, .ro, .none, 0, 0, 16777215⟩
def QSC_SF_IDX_IDX : Field := ⟨0x340, 0, 1, 0, 1, 11, 0, .rw, .imm, 0, 0, 4095⟩
def QSC_SF_CFG_EN : Field := ⟨0x344, 0, 1, 0, 1, 31, 31, .rw, .imm, 0, 0, 1⟩
def QSC_SF_CFG_BLOCK_EN : Field := ⟨0x344, 0, 1, 0, 1, 30, 30, .rw, .imm, 0, 0, 1⟩
def QSC_SF_CFG_BLOCKED : Field := ⟨0x344, 0, 1, 0, 1, 29, 29, .ro, .none, 0, 0, 1⟩
def QSC_SF_CFG_METER_EN : Field := ⟨0x344, 0, 1, 0, 1, 28, 28, .rw, .imm, 0, 0, 1⟩
def QSC_SF_CFG_METER : Field := ⟨0x344, 0, 1, 0, 1, 13, 0, .rw, .imm, 0, 0, 16383⟩
def QSC_SF_SDU_MAX_SDU : Field := ⟨0x348, 0, 1, 0, 1, 13, 0, .rw, .imm, 9728, 64, 9728⟩
def listQSC0 : List Field :=
  [QSC_WRED_TH_MAX_TH, QSC_WRED_TH_MIN_TH, QSC_WRED_P_MAX_P, QSC_SAMPLE_CFG_SAMPLE_EN, QSC_SAMPLE_CFG_HIST_SHIFT, QSC_SHP_SEL_SEL, QSC_SHP_SLOPE_RESET_FULL, QSC_SHP_SLOPE_IDLE_SLOPE, QSC_SHP_HILO_CREDIT_LIMIT, QSC_SHP_CFG_EN, QSC_SHP_CFG_PORT, QSC_SHP_CREDIT_CREDIT]
def listQSC1 : List Field :=
  [QSC_PORT_ARB_TC7_CLASS, QSC_PORT_ARB_TC_CLASS, QSC_STARVE_CFG_STARVE_ROUNDS, QSC_STARVE_STAT_ANY, QSC_STARVE_STAT_LAST_QUEUE, QSC_POL_IDX_IDX, QSC_POL_MODE_MODE, QSC_POL_CIR_CIR, QSC_POL_PIR_PIR, QSC_POL_CBS_CBS, QSC_POL_PBS_PBS, QSC_POL_TOK_C_TC]
def listQSC2 : List Field :=
  [QSC_POL_TOK_P_TP, QSC_SF_IDX_IDX, QSC_SF_CFG_EN, QSC_SF_CFG_BLOCK_EN, QSC_SF_CFG_BLOCKED, QSC_SF_CFG_METER_EN, QSC_SF_CFG_METER, QSC_SF_SDU_MAX_SDU]

/-! ### RPL: the fields of R279 -/

def RPL_CAP_BASE_TURF : Field := ⟨0x0C0, 0, 1, 0, 1, 21, 0, .rw, .buf, 0, 0, 4194303⟩
def RPL_CAP_SIZE_TURVES : Field := ⟨0x0C4, 0, 1, 0, 1, 22, 0, .rw, .buf, 1, 1, 4194304⟩
def RPL_CAP_CTRL_EN : Field := ⟨0x0C8, 0, 1, 0, 1, 31, 31, .rw, .buf, 0, 0, 1⟩
def RPL_CAP_CTRL_WRAP : Field := ⟨0x0C8, 0, 1, 0, 1, 30, 30, .rw, .buf, 1, 0, 1⟩
def RPL_CAP_CTRL_FULL : Field := ⟨0x0C8, 0, 1, 0, 1, 29, 29, .ros, .none, 0, 0, 1⟩
def RPL_CAP_WPTR_WPTR : Field := ⟨0x0CC, 0, 1, 0, 1, 27, 0, .ro, .none, 0, 0, 268435455⟩
def RPL_HMP_HDR_KNOCKOUT : Field := ⟨0x104, 0, 1, 0, 1, 31, 31, .rw, .imm, 0, 0, 1⟩
def RPL_HMP_HDR_COUNT : Field := ⟨0x104, 0, 1, 0, 1, 6, 0, .rw, .imm, 0, 0, 127⟩
def RPL_HMP_MEM_QUEUE_HI : Field := ⟨0x180, 4, 32, 0, 1, 31, 16, .rw, .imm, 0, 0, 65535⟩
def RPL_HMP_MEM_QUEUE_LO : Field := ⟨0x180, 4, 32, 0, 1, 15, 0, .rw, .imm, 0, 0, 65535⟩
def RPL_MIR_A_EN : Field := ⟨0x040, 8, 16, 0, 1, 31, 31, .rw, .buf, 0, 0, 1⟩
def RPL_MIR_A_DIR : Field := ⟨0x040, 8, 16, 0, 1, 30, 30, .rw, .buf, 0, 0, 1⟩
def RPL_MIR_A_DEST_KIND : Field := ⟨0x040, 8, 16, 0, 1, 29, 28, .rw, .buf, 0, 0, 3⟩
def RPL_MIR_A_DEST : Field := ⟨0x040, 8, 16, 0, 1, 15, 0, .rw, .buf, 0, 0, 65535⟩
def RPL_MIR_B_N : Field := ⟨0x044, 8, 16, 0, 1, 31, 16, .rw, .buf, 1, 1, 65535⟩
def RPL_MIR_B_TRUNC : Field := ⟨0x044, 8, 16, 0, 1, 13, 0, .rw, .buf, 0, 0, 16383⟩
def listRPL0 : List Field :=
  [RPL_CAP_BASE_TURF, RPL_CAP_SIZE_TURVES, RPL_CAP_CTRL_EN, RPL_CAP_CTRL_WRAP, RPL_CAP_CTRL_FULL, RPL_CAP_WPTR_WPTR, RPL_HMP_HDR_KNOCKOUT, RPL_HMP_HDR_COUNT, RPL_HMP_MEM_QUEUE_HI, RPL_HMP_MEM_QUEUE_LO, RPL_MIR_A_EN, RPL_MIR_A_DIR]
def listRPL1 : List Field :=
  [RPL_MIR_A_DEST_KIND, RPL_MIR_A_DEST, RPL_MIR_B_N, RPL_MIR_B_TRUNC]

/-! ### XBAR: the fields of R307 -/

def XBAR_ARB_TC7_READ : Field := ⟨0x040, 0, 1, 0, 1, 5, 4, .ro, .none, 3, 0, 3⟩
def XBAR_ARB_TWIN : Field := ⟨0x040, 0, 1, 0, 1, 3, 2, .rw, .buf, 2, 0, 2⟩
def XBAR_ARB_READ : Field := ⟨0x040, 0, 1, 0, 1, 1, 0, .rw, .buf, 1, 0, 2⟩
def XBAR_STARVE_FLAGS : Field := ⟨0x044, 0, 1, 0, 1, 31, 16, .ros, .none, 0, 0, 65535⟩
def XBAR_STARVE_STARVE_ROUNDS : Field := ⟨0x044, 0, 1, 0, 1, 15, 0, .rw, .buf, 65535, 1, 65535⟩
def listXBAR0 : List Field :=
  [XBAR_ARB_TC7_READ, XBAR_ARB_TWIN, XBAR_ARB_READ, XBAR_STARVE_FLAGS, XBAR_STARVE_STARVE_ROUNDS]

/-! ### SFAB: the fields of R308 -/

def SFAB_ARB_PEAT_DRAIN : Field := ⟨0x040, 0, 1, 0, 1, 3, 2, .rw, .buf, 3, 0, 3⟩
def SFAB_ARB_PEAT_SPILL : Field := ⟨0x040, 0, 1, 0, 1, 1, 0, .rw, .buf, 2, 0, 3⟩
def SFAB_ARB_HM_MATE_STATE : Field := ⟨0x044, 0, 1, 0, 1, 7, 6, .rw, .buf, 3, 0, 3⟩
def SFAB_ARB_HM_MATE_DATA : Field := ⟨0x044, 0, 1, 0, 1, 5, 4, .rw, .buf, 2, 0, 3⟩
def SFAB_ARB_HM_HOST : Field := ⟨0x044, 0, 1, 0, 1, 3, 2, .rw, .buf, 1, 0, 3⟩
def SFAB_ARB_HM_WINDOW : Field := ⟨0x044, 0, 1, 0, 1, 1, 0, .rw, .buf, 0, 0, 3⟩
def SFAB_STARVE_FLAGS : Field := ⟨0x048, 0, 1, 0, 1, 31, 16, .ros, .none, 0, 0, 65535⟩
def SFAB_STARVE_STARVE_ROUNDS : Field := ⟨0x048, 0, 1, 0, 1, 15, 0, .rw, .buf, 65535, 1, 65535⟩
def listSFAB0 : List Field :=
  [SFAB_ARB_PEAT_DRAIN, SFAB_ARB_PEAT_SPILL, SFAB_ARB_HM_MATE_STATE, SFAB_ARB_HM_MATE_DATA, SFAB_ARB_HM_HOST, SFAB_ARB_HM_WINDOW, SFAB_STARVE_FLAGS, SFAB_STARVE_STARVE_ROUNDS]

/-! ### PEAT: the fields of R369 -/

def PEAT_CTRL_PATROL_EN : Field := ⟨0x040, 0, 1, 0, 1, 31, 31, .rw, .imm, 1, 0, 1⟩
def PEAT_CTRL_PATROL_H : Field := ⟨0x040, 0, 1, 0, 1, 23, 16, .rw, .imm, 24, 1, 255⟩
def PEAT_CTRL_WIN_GIB : Field := ⟨0x040, 0, 1, 0, 1, 4, 0, .rw, .imm, 0, 0, 16⟩
def PEAT_STATUS_WIN_READY : Field := ⟨0x044, 0, 1, 0, 1, 31, 31, .ro, .none, 0, 0, 1⟩
def PEAT_STATUS_SR : Field := ⟨0x044, 0, 1, 0, 1, 30, 30, .ro, .none, 0, 0, 1⟩
def PEAT_STATUS_CH_UP : Field := ⟨0x044, 0, 1, 0, 1, 15, 0, .ro, .none, 0, 0, 65535⟩
def PEAT_ARB_PATROL : Field := ⟨0x070, 0, 1, 0, 1, 9, 8, .rw, .buf, 0, 0, 3⟩
def PEAT_ARB_CAPTURE : Field := ⟨0x070, 0, 1, 0, 1, 7, 6, .rw, .buf, 1, 0, 3⟩
def PEAT_ARB_HOST : Field := ⟨0x070, 0, 1, 0, 1, 5, 4, .rw, .buf, 2, 0, 3⟩
def PEAT_ARB_SPILL : Field := ⟨0x070, 0, 1, 0, 1, 3, 2, .rw, .buf, 2, 0, 3⟩
def PEAT_ARB_DRAIN : Field := ⟨0x070, 0, 1, 0, 1, 1, 0, .rw, .buf, 3, 0, 3⟩
def PEAT_DRAIN_CFG_DRAIN_AHEAD : Field := ⟨0x074, 0, 1, 0, 1, 14, 0, .rw, .buf, 512, 40, 16384⟩
def PEAT_RH_CFG_BLAST : Field := ⟨0x078, 0, 1, 0, 1, 17, 16, .rw, .buf, 1, 1, 2⟩
def PEAT_RH_CFG_RH_TH : Field := ⟨0x078, 0, 1, 0, 1, 15, 0, .rw, .buf, 4096, 512, 65535⟩
def PEAT_GEOM_ROW_BITS : Field := ⟨0x07C, 0, 1, 0, 1, 12, 8, .rw, .buf, 18, 14, 18⟩
def PEAT_GEOM_BANK_BITS : Field := ⟨0x07C, 0, 1, 0, 1, 7, 5, .rw, .buf, 4, 2, 5⟩
def PEAT_GEOM_COL_BITS : Field := ⟨0x07C, 0, 1, 0, 1, 4, 0, .rw, .buf, 6, 4, 8⟩
def PEAT_MRW_CH_MASK : Field := ⟨0x0C8, 0, 1, 0, 1, 31, 16, .rw, .post, 0, 0, 65535⟩
def PEAT_MRW_MR : Field := ⟨0x0C8, 0, 1, 0, 1, 15, 8, .rw, .post, 0, 0, 255⟩
def PEAT_MRW_DATA : Field := ⟨0x0C8, 0, 1, 0, 1, 7, 0, .rw, .post, 0, 0, 255⟩
def PEAT_QUOTA_VALUE : Field := ⟨0x048, 4, 4, 0, 1, 24, 0, .rw, .buf, 31250000, 0, 31250000⟩
def PEAT_TURF_USE_VALUE : Field := ⟨0x058, 4, 4, 0, 1, 24, 0, .ro, .none, 0, 0, 33554431⟩
def PEAT_TURF_FREE_VALUE : Field := ⟨0x068, 0, 1, 0, 1, 24, 0, .ro, .none, 0, 0, 33554431⟩
def PEAT_RETIRED_VALUE : Field := ⟨0x06C, 0, 1, 0, 1, 24, 0, .ro, .none, 0, 0, 33554431⟩
def PEAT_TIM_VALUE : Field := ⟨0x080, 4, 16, 0, 1, 15, 0, .rw, .buf, 0, 0, 65535⟩
def PEAT_DLY_SEL_CH : Field := ⟨0x0C0, 0, 1, 0, 1, 19, 16, .rw, .imm, 0, 0, 15⟩
def PEAT_DLY_SEL_IDX : Field := ⟨0x0C0, 0, 1, 0, 1, 5, 0, .rw, .imm, 0, 0, 63⟩
def PEAT_DLY_DATA_DELAY : Field := ⟨0x0C4, 0, 1, 0, 1, 9, 0, .rw, .buf, 0, 0, 1023⟩
def PEAT_ERR_UNCORR : Field := ⟨0x0D0, 0, 1, 0, 1, 31, 31, .ros, .none, 0, 0, 1⟩
def PEAT_ERR_CORR : Field := ⟨0x0D0, 0, 1, 0, 1, 30, 30, .ros, .none, 0, 0, 1⟩
def PEAT_ERR_CMD_ERR : Field := ⟨0x0D0, 0, 1, 0, 1, 29, 29, .ros, .none, 0, 0, 1⟩
def PEAT_ERR_CORR_CNT : Field := ⟨0x0D0, 0, 1, 0, 1, 15, 0, .ros, .none, 0, 0, 65535⟩
def PEAT_LOG_STAT_WRAP_CNT : Field := ⟨0x0D4, 0, 1, 0, 1, 31, 16, .ros, .none, 0, 0, 65535⟩
def PEAT_LOG_STAT_HEAD : Field := ⟨0x0D4, 0, 1, 0, 1, 3, 0, .ro, .none, 0, 0, 15⟩
def PEAT_FREE_ERR_CODE : Field := ⟨0x0E0, 0, 1, 0, 1, 31, 28, .ro, .none, 0, 0, 15⟩
def PEAT_FREE_ERR_REQUESTER : Field := ⟨0x0E0, 0, 1, 0, 1, 23, 16, .ro, .none, 0, 0, 255⟩
def PEAT_FREE_ERR_QUEUE : Field := ⟨0x0E0, 0, 1, 0, 1, 15, 0, .ro, .none, 0, 0, 65535⟩
def PEAT_FREE_TURF_FOUND : Field := ⟨0x0E4, 0, 1, 0, 1, 31, 25, .ro, .none, 0, 0, 127⟩
def PEAT_FREE_TURF_TURF : Field := ⟨0x0E4, 0, 1, 0, 1, 24, 0, .ro, .none, 0, 0, 33554431⟩
def PEAT_LOG_DATA : Field := ⟨0x100, 4, 64, 0, 1, 31, 0, .ro, .none, 0, 0, 4294967295⟩
def PEAT_CMD_TURF_TURF : Field := ⟨0x200, 0, 1, 0, 1, 24, 0, .rw, .imm, 0, 0, 33554431⟩
def PEAT_CMD_SEL_TAG : Field := ⟨0x204, 0, 1, 0, 1, 31, 24, .rw, .imm, 255, 0, 255⟩
def PEAT_CMD_SEL_QUEUE : Field := ⟨0x204, 0, 1, 0, 1, 15, 0, .rw, .imm, 0, 0, 65535⟩
def PEAT_CMD_OUT_CODE : Field := ⟨0x208, 0, 1, 0, 1, 31, 28, .ro, .none, 0, 0, 15⟩
def PEAT_CMD_OUT_COUNT : Field := ⟨0x208, 0, 1, 0, 1, 24, 0, .ro, .none, 0, 0, 33554431⟩
def PEAT_DATA_DATA : Field := ⟨0x20C, 4, 4, 0, 1, 31, 0, .ro, .none, 0, 0, 4294967295⟩
def PEAT_CH_STAT_UP : Field := ⟨0x300, 4, 16, 0, 1, 31, 31, .ro, .none, 0, 0, 1⟩
def PEAT_CH_STAT_SR : Field := ⟨0x300, 4, 16, 0, 1, 30, 30, .ro, .none, 0, 0, 1⟩
def PEAT_CH_STAT_REF_RATE : Field := ⟨0x300, 4, 16, 0, 1, 29, 27, .ro, .none, 0, 0, 7⟩
def PEAT_CH_STAT_INFLIGHT : Field := ⟨0x300, 4, 16, 0, 1, 5, 0, .ro, .none, 0, 0, 63⟩
def listPEAT0 : List Field :=
  [PEAT_CTRL_PATROL_EN, PEAT_CTRL_PATROL_H, PEAT_CTRL_WIN_GIB, PEAT_STATUS_WIN_READY, PEAT_STATUS_SR, PEAT_STATUS_CH_UP, PEAT_ARB_PATROL, PEAT_ARB_CAPTURE, PEAT_ARB_HOST, PEAT_ARB_SPILL, PEAT_ARB_DRAIN, PEAT_DRAIN_CFG_DRAIN_AHEAD]
def listPEAT1 : List Field :=
  [PEAT_RH_CFG_BLAST, PEAT_RH_CFG_RH_TH, PEAT_GEOM_ROW_BITS, PEAT_GEOM_BANK_BITS, PEAT_GEOM_COL_BITS, PEAT_MRW_CH_MASK, PEAT_MRW_MR, PEAT_MRW_DATA, PEAT_QUOTA_VALUE, PEAT_TURF_USE_VALUE, PEAT_TURF_FREE_VALUE, PEAT_RETIRED_VALUE]
def listPEAT2 : List Field :=
  [PEAT_TIM_VALUE, PEAT_DLY_SEL_CH, PEAT_DLY_SEL_IDX, PEAT_DLY_DATA_DELAY, PEAT_ERR_UNCORR, PEAT_ERR_CORR, PEAT_ERR_CMD_ERR, PEAT_ERR_CORR_CNT, PEAT_LOG_STAT_WRAP_CNT, PEAT_LOG_STAT_HEAD, PEAT_FREE_ERR_CODE, PEAT_FREE_ERR_REQUESTER]
def listPEAT3 : List Field :=
  [PEAT_FREE_ERR_QUEUE, PEAT_FREE_TURF_FOUND, PEAT_FREE_TURF_TURF, PEAT_LOG_DATA, PEAT_CMD_TURF_TURF, PEAT_CMD_SEL_TAG, PEAT_CMD_SEL_QUEUE, PEAT_CMD_OUT_CODE, PEAT_CMD_OUT_COUNT, PEAT_DATA_DATA, PEAT_CH_STAT_UP, PEAT_CH_STAT_SR]
def listPEAT4 : List Field :=
  [PEAT_CH_STAT_REF_RATE, PEAT_CH_STAT_INFLIGHT]

/-! ### TIME: the fields of R418 and R441 -/

def TIME_SEL_AUTO_SEL : Field := ⟨0x040, 0, 1, 0, 1, 31, 31, .rw, .post, 0, 0, 1⟩
def TIME_SEL_PREF : Field := ⟨0x040, 0, 1, 0, 1, 30, 30, .rw, .post, 0, 0, 1⟩
def TIME_SEL_REVERT_EN : Field := ⟨0x040, 0, 1, 0, 1, 29, 29, .rw, .post, 1, 0, 1⟩
def TIME_SEL_SEL_STEP_EN : Field := ⟨0x040, 0, 1, 0, 1, 28, 28, .rw, .post, 0, 0, 1⟩
def TIME_SEL_CLK_25M : Field := ⟨0x040, 0, 1, 0, 1, 27, 27, .rw, .post, 0, 0, 1⟩
def TIME_SEL_REVERT_S : Field := ⟨0x040, 0, 1, 0, 1, 15, 0, .rw, .post, 60, 1, 65535⟩
def TIME_SLEW_SLEW_PPB : Field := ⟨0x044, 0, 1, 0, 1, 15, 0, .rw, .post, 1000, 1, 50000⟩
def TIME_STATUS_SEL_DOM : Field := ⟨0x048, 0, 1, 0, 1, 31, 31, .ro, .none, 0, 0, 1⟩
def TIME_STATUS_SLEWING : Field := ⟨0x048, 0, 1, 0, 1, 30, 30, .ro, .none, 0, 0, 1⟩
def TIME_STATUS_BANKED : Field := ⟨0x048, 0, 1, 0, 1, 29, 29, .ro, .none, 0, 0, 1⟩
def TIME_STATUS_PLL_LOCK : Field := ⟨0x048, 0, 1, 0, 1, 28, 28, .ro, .none, 0, 0, 1⟩
def TIME_STATUS_DOM_B_STATE : Field := ⟨0x048, 0, 1, 0, 1, 10, 8, .ro, .none, 0, 0, 7⟩
def TIME_STATUS_DOM_A_STATE : Field := ⟨0x048, 0, 1, 0, 1, 2, 0, .ro, .none, 0, 0, 7⟩
def TIME_EVENT_SWITCH_SEEN : Field := ⟨0x04C, 0, 1, 0, 1, 31, 31, .ros, .none, 0, 0, 1⟩
def TIME_EVENT_STEP_SEEN : Field := ⟨0x04C, 0, 1, 0, 1, 30, 30, .ros, .none, 0, 0, 1⟩
def TIME_EVENT_A_LOST : Field := ⟨0x04C, 0, 1, 0, 1, 29, 29, .ros, .none, 0, 0, 1⟩
def TIME_EVENT_B_LOST : Field := ⟨0x04C, 0, 1, 0, 1, 28, 28, .ros, .none, 0, 0, 1⟩
def TIME_EVENT_CLK_FAIL : Field := ⟨0x04C, 0, 1, 0, 1, 27, 27, .ros, .none, 0, 0, 1⟩
def TIME_EVENT_SWITCH_CNT : Field := ⟨0x04C, 0, 1, 0, 1, 15, 0, .ros, .none, 0, 0, 65535⟩
def TIME_SET_NS_NS : Field := ⟨0x090, 0, 1, 0, 1, 29, 0, .rw, .imm, 0, 0, 999999999⟩
def TIME_SET_SEC_LO_SEC_LO : Field := ⟨0x094, 0, 1, 0, 1, 31, 0, .rw, .imm, 0, 0, 4294967295⟩
def TIME_SET_SEC_HI_SEC_HI : Field := ⟨0x098, 0, 1, 0, 1, 31, 16, .rw, .imm, 0, 0, 65535⟩
def TIME_SET_SEC_HI_FRAC : Field := ⟨0x098, 0, 1, 0, 1, 15, 0, .rw, .imm, 0, 0, 65535⟩
def TIME_ADJ_LO_ADJ_LO : Field := ⟨0x09C, 0, 1, 0, 1, 31, 0, .rw, .imm, 0, 0, 4294967295⟩
def TIME_ADJ_HI_ADJ_HI : Field := ⟨0x0A0, 0, 1, 0, 1, 31, 0, .rw, .imm, 0, 0, 4294967295⟩
def DOM_CFG_EN : Field := ⟨0x100, 64, 2, 0, 1, 31, 31, .rw, .post, 0, 0, 1⟩
def DOM_CFG_SRC : Field := ⟨0x100, 64, 2, 0, 1, 30, 29, .rw, .post, 0, 0, 3⟩
def DOM_CFG_PORT : Field := ⟨0x100, 64, 2, 0, 1, 21, 16, .rw, .post, 0, 0, 63⟩
def DOM_CFG_DOMAIN_NUM : Field := ⟨0x100, 64, 2, 0, 1, 15, 8, .rw, .post, 24, 0, 255⟩
def DOM_CFG_SDO_ID : Field := ⟨0x100, 64, 2, 0, 1, 7, 4, .rw, .post, 0, 0, 15⟩
def DOM_PARENT_0_CLOCK_ID : Field := ⟨0x104, 64, 2, 0, 1, 31, 0, .rw, .post, 0, 0, 4294967295⟩
def DOM_PARENT_1_CLOCK_ID : Field := ⟨0x108, 64, 2, 0, 1, 31, 0, .rw, .post, 0, 0, 4294967295⟩
def DOM_PARENT_2_PORT_NUM : Field := ⟨0x10C, 64, 2, 0, 1, 15, 0, .rw, .post, 0, 0, 65535⟩
def DOM_MPD_MPD : Field := ⟨0x110, 64, 2, 0, 1, 31, 0, .rw, .post, 0, 0, 4294967295⟩
def DOM_ASYM_ASYM : Field := ⟨0x114, 64, 2, 0, 1, 31, 0, .rw, .post, 0, 0, 4294967295⟩
def DOM_HOST_OFS_OFS : Field := ⟨0x118, 64, 2, 0, 1, 31, 0, .wo, .imm, 0, 0, 4294967295⟩
def DOM_GAIN_KP : Field := ⟨0x11C, 64, 2, 0, 1, 31, 16, .rw, .post, 4000, 0, 65535⟩
def DOM_GAIN_KI : Field := ⟨0x11C, 64, 2, 0, 1, 15, 0, .rw, .post, 400, 0, 65535⟩
def DOM_RATE_LIM_MAX_RATE : Field := ⟨0x120, 64, 2, 0, 1, 20, 0, .rw, .post, 100000, 1, 2000000⟩
def DOM_THRESH_LOCK_CNT : Field := ⟨0x124, 64, 2, 0, 1, 31, 24, .rw, .post, 16, 1, 255⟩
def DOM_THRESH_UNLOCK_TH : Field := ⟨0x124, 64, 2, 0, 1, 23, 12, .rw, .post, 100, 1, 4095⟩
def DOM_THRESH_LOCK_TH : Field := ⟨0x124, 64, 2, 0, 1, 11, 0, .rw, .post, 20, 1, 4095⟩
def DOM_STEP_STEP_TH : Field := ⟨0x128, 64, 2, 0, 1, 29, 0, .rw, .post, 10000, 1, 1000000000⟩
def DOM_LOSS_LOSS_MS : Field := ⟨0x12C, 64, 2, 0, 1, 15, 0, .rw, .post, 1000, 1, 65535⟩
def DOM_RATE_RATE : Field := ⟨0x130, 64, 2, 0, 1, 31, 0, .rw, .post, 0, 0, 4294967295⟩
def DOM_OFS_LAST_OFS : Field := ⟨0x134, 64, 2, 0, 1, 31, 0, .ro, .none, 0, 0, 4294967295⟩
def RCLK_CTRL_EN : Field := ⟨0x200, 4, 2, 0, 1, 31, 31, .rw, .post, 0, 0, 1⟩
def RCLK_CTRL_SQUELCH : Field := ⟨0x200, 4, 2, 0, 1, 30, 30, .rw, .post, 0, 0, 1⟩
def RCLK_CTRL_SQUELCHED : Field := ⟨0x200, 4, 2, 0, 1, 29, 29, .ro, .none, 1, 0, 1⟩
def RCLK_CTRL_DIV_HIGH : Field := ⟨0x200, 4, 2, 0, 1, 28, 28, .ro, .none, 0, 0, 1⟩
def RCLK_CTRL_SRC_PORT : Field := ⟨0x200, 4, 2, 0, 1, 21, 16, .rw, .post, 0, 0, 63⟩
def RCLK_CTRL_DIV : Field := ⟨0x200, 4, 2, 0, 1, 9, 0, .rw, .post, 66, 16, 1023⟩
def TS_CAL_RX_CAL_DONE : Field := ⟨0x400, 32, 50, 0, 1, 31, 31, .ro, .none, 0, 0, 1⟩
def TS_CAL_RX_DELAY : Field := ⟨0x400, 32, 50, 0, 1, 19, 0, .ro, .none, 0, 0, 1048575⟩
def TS_CAL_TX_DELAY : Field := ⟨0x404, 32, 50, 0, 1, 19, 0, .ro, .none, 0, 0, 1048575⟩
def TS_ASYM_RX_ASYM : Field := ⟨0x408, 32, 50, 0, 1, 31, 16, .rw, .post, 0, 0, 65535⟩
def TS_ASYM_TX_ASYM : Field := ⟨0x408, 32, 50, 0, 1, 15, 0, .rw, .post, 0, 0, 65535⟩
def TS_PTP_PTP_MODE : Field := ⟨0x40C, 32, 50, 0, 1, 31, 30, .rw, .post, 0, 0, 3⟩
def TS_PEER_PEER_DELAY : Field := ⟨0x410, 32, 50, 0, 1, 31, 0, .rw, .post, 0, 0, 4294967295⟩
def BANK_CFG_MODEL_USE : Field := ⟨0x180, 0, 1, 0, 1, 31, 31, .rw, .post, 1, 0, 1⟩
def BANK_CFG_TEMP_SRC : Field := ⟨0x180, 0, 1, 0, 1, 30, 30, .rw, .post, 0, 0, 1⟩
def BANK_CFG_MIN_LEARN_H : Field := ⟨0x180, 0, 1, 0, 1, 27, 16, .rw, .post, 72, 1, 1000⟩
def BANK_CFG_LEARN_TAU_H : Field := ⟨0x180, 0, 1, 0, 1, 15, 0, .rw, .post, 168, 24, 2000⟩
def BANK_LIMIT_PPS_SQ_EXP : Field := ⟨0x184, 0, 1, 0, 1, 31, 31, .rw, .post, 0, 0, 1⟩
def BANK_LIMIT_LIMIT_MIN : Field := ⟨0x184, 0, 1, 0, 1, 15, 0, .rw, .post, 480, 1, 65535⟩
def BANK_TEMP_TEMP : Field := ⟨0x188, 0, 1, 0, 1, 15, 0, .rw, .post, 0, 0, 65535⟩
def BANK_STATUS_MODEL_OK : Field := ⟨0x18C, 0, 1, 0, 1, 31, 31, .ro, .none, 0, 0, 1⟩
def BANK_STATUS_LEARNING : Field := ⟨0x18C, 0, 1, 0, 1, 30, 30, .ro, .none, 0, 0, 1⟩
def BANK_STATUS_LAST_RATE : Field := ⟨0x18C, 0, 1, 0, 1, 29, 29, .ro, .none, 0, 0, 1⟩
def BANK_STATUS_EXPIRED : Field := ⟨0x18C, 0, 1, 0, 1, 28, 28, .ros, .none, 0, 0, 1⟩
def BANK_STATUS_TEMP_STALE : Field := ⟨0x18C, 0, 1, 0, 1, 27, 27, .ro, .none, 0, 0, 1⟩
def BANK_STATUS_RESTORED : Field := ⟨0x18C, 0, 1, 0, 1, 26, 26, .ro, .none, 0, 0, 1⟩
def BANK_STATUS_LEARN_H : Field := ⟨0x18C, 0, 1, 0, 1, 15, 0, .ro, .none, 0, 0, 65535⟩
def BANK_ELAPSED_SECONDS : Field := ⟨0x190, 0, 1, 0, 1, 31, 0, .ro, .none, 0, 0, 4294967295⟩
def BANK_THETA_THETA : Field := ⟨0x194, 0, 1, 0, 1, 15, 0, .ro, .none, 0, 0, 65535⟩
def BANK_RHO_RHO : Field := ⟨0x198, 0, 1, 0, 1, 31, 0, .ro, .none, 0, 0, 4294967295⟩
def BANK_C0_C0 : Field := ⟨0x1A0, 0, 1, 0, 1, 31, 0, .rw, .imm, 0, 0, 4294967295⟩
def BANK_C1_C1 : Field := ⟨0x1A4, 0, 1, 0, 1, 31, 0, .rw, .imm, 0, 0, 4294967295⟩
def BANK_C2_C2 : Field := ⟨0x1A8, 0, 1, 0, 1, 31, 0, .rw, .imm, 0, 0, 4294967295⟩
def BANK_AGING_A : Field := ⟨0x1AC, 0, 1, 0, 1, 31, 0, .rw, .imm, 0, 0, 4294967295⟩
def BANK_META_LEARN_H : Field := ⟨0x1B0, 0, 1, 0, 1, 31, 16, .rw, .imm, 0, 0, 65535⟩
def BANK_META_THETA0 : Field := ⟨0x1B0, 0, 1, 0, 1, 15, 0, .rw, .imm, 0, 0, 65535⟩
def BANK_T0_LO_SEC_LO : Field := ⟨0x1B4, 0, 1, 0, 1, 31, 0, .rw, .imm, 0, 0, 4294967295⟩
def BANK_T0_HI_SEC_HI : Field := ⟨0x1B8, 0, 1, 0, 1, 15, 0, .rw, .imm, 0, 0, 65535⟩
def PPS_OUT_CFG_EN : Field := ⟨0x208, 0, 1, 0, 1, 31, 31, .rw, .post, 0, 0, 1⟩
def PPS_OUT_CFG_SQ_NOLOCK : Field := ⟨0x208, 0, 1, 0, 1, 30, 30, .rw, .post, 1, 0, 1⟩
def PPS_OUT_CFG_WIDTH : Field := ⟨0x208, 0, 1, 0, 1, 29, 0, .rw, .post, 100000000, 100, 500000000⟩
def PPS_OUT_DELAY_ADV : Field := ⟨0x20C, 0, 1, 0, 1, 23, 0, .rw, .post, 0, 0, 16777215⟩
def PPS_IN_CFG_EN : Field := ⟨0x210, 0, 1, 0, 1, 31, 31, .rw, .post, 0, 0, 1⟩
def PPS_IN_CFG_EDGE : Field := ⟨0x210, 0, 1, 0, 1, 30, 30, .rw, .post, 0, 0, 1⟩
def PPS_IN_CFG_FILT : Field := ⟨0x210, 0, 1, 0, 1, 7, 0, .rw, .post, 25, 0, 255⟩
def PPS_IN_DELAY_DELAY : Field := ⟨0x214, 0, 1, 0, 1, 23, 0, .rw, .post, 0, 0, 16777215⟩
def PPS_IN_STAT_SEEN : Field := ⟨0x218, 0, 1, 0, 1, 31, 31, .ros, .none, 0, 0, 1⟩
def PPS_IN_STAT_EXTRA : Field := ⟨0x218, 0, 1, 0, 1, 15, 0, .ros, .none, 0, 0, 65535⟩
def TOUT_CFG_EN : Field := ⟨0x240, 32, 8, 0, 1, 31, 31, .rw, .post, 0, 0, 1⟩
def TOUT_CFG_MODE : Field := ⟨0x240, 32, 8, 0, 1, 30, 29, .rw, .post, 0, 0, 3⟩
def TOUT_CFG_POL : Field := ⟨0x240, 32, 8, 0, 1, 28, 28, .rw, .post, 0, 0, 1⟩
def TOUT_CFG_LATE : Field := ⟨0x240, 32, 8, 0, 1, 27, 27, .ros, .none, 0, 0, 1⟩
def TOUT_CFG_TRIG : Field := ⟨0x240, 32, 8, 0, 1, 26, 24, .rw, .post, 0, 0, 7⟩
def TOUT_CFG_SKIP : Field := ⟨0x240, 32, 8, 0, 1, 15, 0, .ros, .none, 0, 0, 65535⟩
def TOUT_START_NS_NS : Field := ⟨0x244, 32, 8, 0, 1, 29, 0, .rw, .post, 0, 0, 999999999⟩
def TOUT_START_SEC_LO_SEC_LO : Field := ⟨0x248, 32, 8, 0, 1, 31, 0, .rw, .post, 0, 0, 4294967295⟩
def TOUT_START_SEC_HI_SEC_HI : Field := ⟨0x24C, 32, 8, 0, 1, 15, 0, .rw, .post, 0, 0, 65535⟩
def TOUT_PERIOD_PERIOD : Field := ⟨0x250, 32, 8, 0, 1, 31, 0, .rw, .post, 1000000000, 100, 4294967295⟩
def TOUT_WIDTH_WIDTH : Field := ⟨0x254, 32, 8, 0, 1, 31, 0, .rw, .post, 100, 4, 4294967294⟩
def TOUT_OFFSET_OFFSET : Field := ⟨0x258, 32, 8, 0, 1, 31, 0, .rw, .post, 0, 0, 4294967295⟩
def TIN_CFG_EN : Field := ⟨0x340, 16, 4, 0, 1, 31, 31, .rw, .post, 0, 0, 1⟩
def TIN_CFG_EDGE : Field := ⟨0x340, 16, 4, 0, 1, 30, 29, .rw, .post, 0, 0, 3⟩
def TIN_CFG_COUNT : Field := ⟨0x340, 16, 4, 0, 1, 20, 16, .ro, .none, 0, 0, 31⟩
def TIN_CFG_LOST : Field := ⟨0x340, 16, 4, 0, 1, 15, 8, .ros, .none, 0, 0, 255⟩
def TIN_CFG_FILT : Field := ⟨0x340, 16, 4, 0, 1, 7, 0, .rw, .post, 25, 0, 255⟩
def TIN_POP_VALID : Field := ⟨0x344, 16, 4, 0, 1, 31, 31, .ro, .none, 0, 0, 1⟩
def TIN_POP_RISE : Field := ⟨0x344, 16, 4, 0, 1, 30, 30, .ro, .none, 0, 0, 1⟩
def TIN_POP_NS : Field := ⟨0x344, 16, 4, 0, 1, 29, 0, .ro, .none, 0, 0, 1073741823⟩
def TIN_SEC_SEC_LO : Field := ⟨0x348, 16, 4, 0, 1, 31, 0, .ro, .none, 0, 0, 4294967295⟩
def TIN_FRAC_SEC_HI : Field := ⟨0x34C, 16, 4, 0, 1, 31, 16, .ro, .none, 0, 0, 65535⟩
def TIN_FRAC_FRAC : Field := ⟨0x34C, 16, 4, 0, 1, 15, 0, .ro, .none, 0, 0, 65535⟩
def TRIG_CFG_EN : Field := ⟨0xB00, 32, 8, 0, 1, 31, 31, .rw, .post, 0, 0, 1⟩
def TRIG_CFG_MODE : Field := ⟨0xB00, 32, 8, 0, 1, 30, 30, .rw, .post, 1, 0, 1⟩
def TRIG_CFG_IN_USE : Field := ⟨0xB00, 32, 8, 0, 1, 29, 29, .ro, .none, 0, 0, 1⟩
def TRIG_CFG_MODULUS : Field := ⟨0xB00, 32, 8, 0, 1, 15, 0, .rw, .post, 1024, 1, 65535⟩
def TRIG_START_NS_NS : Field := ⟨0xB04, 32, 8, 0, 1, 29, 0, .rw, .post, 0, 0, 999999999⟩
def TRIG_START_SEC_LO_SEC_LO : Field := ⟨0xB08, 32, 8, 0, 1, 31, 0, .rw, .post, 0, 0, 4294967295⟩
def TRIG_START_SEC_HI_SEC_HI : Field := ⟨0xB0C, 32, 8, 0, 1, 15, 0, .rw, .post, 0, 0, 65535⟩
def TRIG_PERIOD_PERIOD : Field := ⟨0xB10, 32, 8, 0, 1, 29, 0, .rw, .post, 10000000, 1000, 1000000000⟩
def TRIG_COUNT_LATE : Field := ⟨0xB14, 32, 8, 0, 1, 31, 31, .ros, .none, 0, 0, 1⟩
def TRIG_COUNT_SKIP : Field := ⟨0xB14, 32, 8, 0, 1, 30, 16, .ros, .none, 0, 0, 32767⟩
def TRIG_COUNT_COUNT : Field := ⟨0xB14, 32, 8, 0, 1, 15, 0, .ro, .none, 0, 0, 65535⟩
def TIME_SNAP_L_NS : Field := ⟨0x060, 4, 2, 0, 1, 31, 0, .ro, .none, 0, 0, 4294967295⟩
def TIME_SNAP_L_FRAC : Field := ⟨0x068, 0, 1, 0, 1, 15, 0, .ro, .none, 0, 0, 65535⟩
def TIME_SNAP_NS : Field := ⟨0x06C, 12, 3, 0, 1, 31, 0, .ro, .none, 0, 0, 4294967295⟩
def TIME_SNAP_SEC_LO : Field := ⟨0x070, 12, 3, 0, 1, 31, 0, .ro, .none, 0, 0, 4294967295⟩
def TIME_SNAP_SEC_HI : Field := ⟨0x074, 12, 3, 0, 1, 31, 16, .ro, .none, 0, 0, 65535⟩
def TIME_SNAP_FRAC : Field := ⟨0x074, 12, 3, 0, 1, 15, 0, .ro, .none, 0, 0, 65535⟩
def listTIME0 : List Field :=
  [TIME_SEL_AUTO_SEL, TIME_SEL_PREF, TIME_SEL_REVERT_EN, TIME_SEL_SEL_STEP_EN, TIME_SEL_CLK_25M, TIME_SEL_REVERT_S, TIME_SLEW_SLEW_PPB, TIME_STATUS_SEL_DOM, TIME_STATUS_SLEWING, TIME_STATUS_BANKED, TIME_STATUS_PLL_LOCK, TIME_STATUS_DOM_B_STATE]
def listTIME1 : List Field :=
  [TIME_STATUS_DOM_A_STATE, TIME_EVENT_SWITCH_SEEN, TIME_EVENT_STEP_SEEN, TIME_EVENT_A_LOST, TIME_EVENT_B_LOST, TIME_EVENT_CLK_FAIL, TIME_EVENT_SWITCH_CNT, TIME_SET_NS_NS, TIME_SET_SEC_LO_SEC_LO, TIME_SET_SEC_HI_SEC_HI, TIME_SET_SEC_HI_FRAC, TIME_ADJ_LO_ADJ_LO]
def listTIME2 : List Field :=
  [TIME_ADJ_HI_ADJ_HI, DOM_CFG_EN, DOM_CFG_SRC, DOM_CFG_PORT, DOM_CFG_DOMAIN_NUM, DOM_CFG_SDO_ID, DOM_PARENT_0_CLOCK_ID, DOM_PARENT_1_CLOCK_ID, DOM_PARENT_2_PORT_NUM, DOM_MPD_MPD, DOM_ASYM_ASYM, DOM_HOST_OFS_OFS]
def listTIME3 : List Field :=
  [DOM_GAIN_KP, DOM_GAIN_KI, DOM_RATE_LIM_MAX_RATE, DOM_THRESH_LOCK_CNT, DOM_THRESH_UNLOCK_TH, DOM_THRESH_LOCK_TH, DOM_STEP_STEP_TH, DOM_LOSS_LOSS_MS, DOM_RATE_RATE, DOM_OFS_LAST_OFS, RCLK_CTRL_EN, RCLK_CTRL_SQUELCH]
def listTIME4 : List Field :=
  [RCLK_CTRL_SQUELCHED, RCLK_CTRL_DIV_HIGH, RCLK_CTRL_SRC_PORT, RCLK_CTRL_DIV, TS_CAL_RX_CAL_DONE, TS_CAL_RX_DELAY, TS_CAL_TX_DELAY, TS_ASYM_RX_ASYM, TS_ASYM_TX_ASYM, TS_PTP_PTP_MODE, TS_PEER_PEER_DELAY, BANK_CFG_MODEL_USE]
def listTIME5 : List Field :=
  [BANK_CFG_TEMP_SRC, BANK_CFG_MIN_LEARN_H, BANK_CFG_LEARN_TAU_H, BANK_LIMIT_PPS_SQ_EXP, BANK_LIMIT_LIMIT_MIN, BANK_TEMP_TEMP, BANK_STATUS_MODEL_OK, BANK_STATUS_LEARNING, BANK_STATUS_LAST_RATE, BANK_STATUS_EXPIRED, BANK_STATUS_TEMP_STALE, BANK_STATUS_RESTORED]
def listTIME6 : List Field :=
  [BANK_STATUS_LEARN_H, BANK_ELAPSED_SECONDS, BANK_THETA_THETA, BANK_RHO_RHO, BANK_C0_C0, BANK_C1_C1, BANK_C2_C2, BANK_AGING_A, BANK_META_LEARN_H, BANK_META_THETA0, BANK_T0_LO_SEC_LO, BANK_T0_HI_SEC_HI]
def listTIME7 : List Field :=
  [PPS_OUT_CFG_EN, PPS_OUT_CFG_SQ_NOLOCK, PPS_OUT_CFG_WIDTH, PPS_OUT_DELAY_ADV, PPS_IN_CFG_EN, PPS_IN_CFG_EDGE, PPS_IN_CFG_FILT, PPS_IN_DELAY_DELAY, PPS_IN_STAT_SEEN, PPS_IN_STAT_EXTRA, TOUT_CFG_EN, TOUT_CFG_MODE]
def listTIME8 : List Field :=
  [TOUT_CFG_POL, TOUT_CFG_LATE, TOUT_CFG_TRIG, TOUT_CFG_SKIP, TOUT_START_NS_NS, TOUT_START_SEC_LO_SEC_LO, TOUT_START_SEC_HI_SEC_HI, TOUT_PERIOD_PERIOD, TOUT_WIDTH_WIDTH, TOUT_OFFSET_OFFSET, TIN_CFG_EN, TIN_CFG_EDGE]
def listTIME9 : List Field :=
  [TIN_CFG_COUNT, TIN_CFG_LOST, TIN_CFG_FILT, TIN_POP_VALID, TIN_POP_RISE, TIN_POP_NS, TIN_SEC_SEC_LO, TIN_FRAC_SEC_HI, TIN_FRAC_FRAC, TRIG_CFG_EN, TRIG_CFG_MODE, TRIG_CFG_IN_USE]
def listTIME10 : List Field :=
  [TRIG_CFG_MODULUS, TRIG_START_NS_NS, TRIG_START_SEC_LO_SEC_LO, TRIG_START_SEC_HI_SEC_HI, TRIG_PERIOD_PERIOD, TRIG_COUNT_LATE, TRIG_COUNT_SKIP, TRIG_COUNT_COUNT, TIME_SNAP_L_NS, TIME_SNAP_L_FRAC,
   TIME_SNAP_NS, TIME_SNAP_SEC_LO, TIME_SNAP_SEC_HI, TIME_SNAP_FRAC]

/-! ### MATE: the fields of R468 -/

def MATE_CFG_MODE : Field := ⟨0x040, 0, 1, 0, 1, 31, 30, .rw, .trip, 0, 0, 3⟩
def MATE_CFG_AUTO_TAKEOVER : Field := ⟨0x040, 0, 1, 0, 1, 29, 29, .rw, .trip, 1, 0, 1⟩
def MATE_CFG_ADOPT_SERVO : Field := ⟨0x040, 0, 1, 0, 1, 28, 28, .rw, .trip, 0, 0, 1⟩
def MATE_CFG_LINK_EN : Field := ⟨0x040, 0, 1, 0, 1, 27, 27, .rw, .post, 0, 0, 1⟩
def MATE_CFG_TX_INV : Field := ⟨0x040, 0, 1, 0, 1, 7, 4, .rw, .post, 0, 0, 15⟩
def MATE_CFG_RX_INV : Field := ⟨0x040, 0, 1, 0, 1, 3, 0, .rw, .post, 0, 0, 15⟩
def MATE_STATUS_ROLE : Field := ⟨0x044, 0, 1, 0, 1, 31, 30, .ro, .none, 0, 0, 3⟩
def MATE_STATUS_PEER_STATE : Field := ⟨0x044, 0, 1, 0, 1, 29, 27, .ro, .none, 0, 0, 7⟩
def MATE_STATUS_LINK_STATE : Field := ⟨0x044, 0, 1, 0, 1, 26, 24, .ro, .none, 0, 0, 7⟩
def MATE_STATUS_PATH_A_OK : Field := ⟨0x044, 0, 1, 0, 1, 23, 23, .ro, .none, 0, 0, 1⟩
def MATE_STATUS_PATH_B_OK : Field := ⟨0x044, 0, 1, 0, 1, 22, 22, .ro, .none, 0, 0, 1⟩
def MATE_STATUS_CLAIM_OUT : Field := ⟨0x044, 0, 1, 0, 1, 21, 21, .ro, .none, 0, 0, 1⟩
def MATE_STATUS_CLAIM_IN : Field := ⟨0x044, 0, 1, 0, 1, 20, 20, .ro, .none, 0, 0, 1⟩
def MATE_STATUS_ARB_GRANT : Field := ⟨0x044, 0, 1, 0, 1, 19, 19, .ro, .none, 0, 0, 1⟩
def MATE_STATUS_MATE_ID : Field := ⟨0x044, 0, 1, 0, 1, 18, 18, .ro, .none, 0, 0, 1⟩
def MATE_STATUS_PEER_ROLE : Field := ⟨0x044, 0, 1, 0, 1, 17, 16, .ro, .none, 0, 0, 3⟩
def MATE_STATUS_FWD_HOLD : Field := ⟨0x044, 0, 1, 0, 1, 15, 15, .ro, .none, 0, 0, 1⟩
def MATE_STATUS_FWD_ACTIVE : Field := ⟨0x044, 0, 1, 0, 1, 14, 14, .ro, .none, 0, 0, 1⟩
def MATE_STATUS_RESYNC_ACTIVE : Field := ⟨0x044, 0, 1, 0, 1, 13, 13, .ro, .none, 0, 0, 1⟩
def MATE_EVENT_PATH_A_LOST : Field := ⟨0x048, 0, 1, 0, 1, 31, 31, .ros, .none, 0, 0, 1⟩
def MATE_EVENT_PATH_B_LOST : Field := ⟨0x048, 0, 1, 0, 1, 30, 30, .ros, .none, 0, 0, 1⟩
def MATE_EVENT_TAKEOVER_SEEN : Field := ⟨0x048, 0, 1, 0, 1, 29, 29, .ros, .none, 0, 0, 1⟩
def MATE_EVENT_PEER_RETURN : Field := ⟨0x048, 0, 1, 0, 1, 28, 28, .ros, .none, 0, 0, 1⟩
def MATE_EVENT_CLAIM_BLOCKED : Field := ⟨0x048, 0, 1, 0, 1, 27, 27, .ros, .none, 0, 0, 1⟩
def MATE_EVENT_CLAIM_LOST : Field := ⟨0x048, 0, 1, 0, 1, 26, 26, .ros, .none, 0, 0, 1⟩
def MATE_EVENT_CLAIM_MISMATCH : Field := ⟨0x048, 0, 1, 0, 1, 25, 25, .ros, .none, 0, 0, 1⟩
def MATE_EVENT_ID_CONFLICT : Field := ⟨0x048, 0, 1, 0, 1, 24, 24, .ros, .none, 0, 0, 1⟩
def MATE_EVENT_ROLE_CONFLICT : Field := ⟨0x048, 0, 1, 0, 1, 23, 23, .ros, .none, 0, 0, 1⟩
def MATE_EVENT_FAIL_RX : Field := ⟨0x048, 0, 1, 0, 1, 22, 22, .ros, .none, 0, 0, 1⟩
def MATE_EVENT_TAKEOVER_CNT : Field := ⟨0x048, 0, 1, 0, 1, 15, 0, .ros, .none, 0, 0, 65535⟩
def MATE_TAKEOVER_LAST_TAKEOVER : Field := ⟨0x04C, 0, 1, 0, 1, 15, 0, .ro, .none, 0, 0, 65535⟩
def MATE_POL_MIR_POL_COUNT : Field := ⟨0x050, 0, 1, 0, 1, 30, 16, .rw, .post, 0, 0, 16384⟩
def MATE_POL_MIR_POL_BASE : Field := ⟨0x050, 0, 1, 0, 1, 13, 0, .rw, .post, 0, 0, 16383⟩
def MATE_PLOCK_HELD : Field := ⟨0x054, 0, 1, 0, 1, 31, 31, .ro, .none, 0, 0, 1⟩
def MATE_PLOCK_ACQ : Field := ⟨0x054, 0, 1, 0, 1, 30, 30, .wo, .imm, 0, 0, 1⟩
def MATE_PLOCK_REL : Field := ⟨0x054, 0, 1, 0, 1, 29, 29, .wo, .imm, 0, 0, 1⟩
def MATE_PLOCK_OWNER_DEV : Field := ⟨0x054, 0, 1, 0, 1, 28, 28, .ro, .none, 0, 0, 1⟩
def MATE_PLOCK_OWNER : Field := ⟨0x054, 0, 1, 0, 1, 23, 20, .ro, .none, 0, 0, 15⟩
def MATE_PLOCK_LEASE : Field := ⟨0x054, 0, 1, 0, 1, 19, 0, .rw, .imm, 0, 0, 1048575⟩
def MATE_PEER_SERVO_DATA : Field := ⟨0x080, 16, 2, 4, 3, 31, 0, .ro, .none, 0, 0, 4294967295⟩
def MATE_FWD_0_VALID : Field := ⟨0x800, 8, 256, 0, 1, 31, 31, .rw, .imm, 0, 0, 1⟩
def MATE_FWD_0_LOCAL_Q : Field := ⟨0x800, 8, 256, 0, 1, 15, 0, .rw, .imm, 0, 0, 65535⟩
def MATE_FWD_1_PEER_Q : Field := ⟨0x804, 8, 256, 0, 1, 15, 0, .rw, .imm, 0, 0, 65535⟩
def listMATE0 : List Field :=
  [MATE_CFG_MODE, MATE_CFG_AUTO_TAKEOVER, MATE_CFG_ADOPT_SERVO, MATE_CFG_LINK_EN, MATE_CFG_TX_INV, MATE_CFG_RX_INV, MATE_STATUS_ROLE, MATE_STATUS_PEER_STATE, MATE_STATUS_LINK_STATE, MATE_STATUS_PATH_A_OK, MATE_STATUS_PATH_B_OK, MATE_STATUS_CLAIM_OUT]
def listMATE1 : List Field :=
  [MATE_STATUS_CLAIM_IN, MATE_STATUS_ARB_GRANT, MATE_STATUS_MATE_ID, MATE_STATUS_PEER_ROLE, MATE_STATUS_FWD_HOLD, MATE_STATUS_FWD_ACTIVE, MATE_STATUS_RESYNC_ACTIVE, MATE_EVENT_PATH_A_LOST, MATE_EVENT_PATH_B_LOST, MATE_EVENT_TAKEOVER_SEEN, MATE_EVENT_PEER_RETURN, MATE_EVENT_CLAIM_BLOCKED]
def listMATE2 : List Field :=
  [MATE_EVENT_CLAIM_LOST, MATE_EVENT_CLAIM_MISMATCH, MATE_EVENT_ID_CONFLICT, MATE_EVENT_ROLE_CONFLICT, MATE_EVENT_FAIL_RX, MATE_EVENT_TAKEOVER_CNT, MATE_TAKEOVER_LAST_TAKEOVER, MATE_POL_MIR_POL_COUNT, MATE_POL_MIR_POL_BASE, MATE_PLOCK_HELD, MATE_PLOCK_ACQ, MATE_PLOCK_REL]
def listMATE3 : List Field :=
  [MATE_PLOCK_OWNER_DEV, MATE_PLOCK_OWNER, MATE_PLOCK_LEASE, MATE_PEER_SERVO_DATA, MATE_FWD_0_VALID, MATE_FWD_0_LOCAL_Q, MATE_FWD_1_PEER_Q]

/-! ### HIF: the fields of R521 -/

def HIF_FN_FN_EN : Field := ⟨0x040, 0, 1, 0, 1, 7, 1, .rw, .trip, 0, 0, 127⟩
def HIF_FN_FN0 : Field := ⟨0x040, 0, 1, 0, 1, 0, 0, .ro, .none, 1, 0, 1⟩
def HIF_LINK_LINK_MODE : Field := ⟨0x044, 0, 1, 0, 1, 31, 30, .ro, .none, 0, 0, 3⟩
def HIF_LINK_WIDTH : Field := ⟨0x044, 0, 1, 0, 1, 24, 20, .ro, .none, 0, 0, 31⟩
def HIF_LINK_SPEED : Field := ⟨0x044, 0, 1, 0, 1, 19, 16, .ro, .none, 0, 0, 15⟩
def HIF_LINK_CACHE_ON : Field := ⟨0x044, 0, 1, 0, 1, 15, 15, .ro, .none, 0, 0, 1⟩
def HIF_LINK_MEM_ON : Field := ⟨0x044, 0, 1, 0, 1, 14, 14, .ro, .none, 0, 0, 1⟩
def HIF_LINK_HDM_COMMITTED : Field := ⟨0x044, 0, 1, 0, 1, 13, 13, .ro, .none, 0, 0, 1⟩
def HIF_LINK_LINES_USED : Field := ⟨0x044, 0, 1, 0, 1, 8, 0, .ro, .none, 0, 0, 511⟩
def HIF_TIMEOUT_MMIO_TO_US : Field := ⟨0x048, 0, 1, 0, 1, 31, 24, .rw, .post, 2, 1, 100⟩
def HIF_TIMEOUT_DMA_TO_MS : Field := ⟨0x048, 0, 1, 0, 1, 15, 0, .rw, .post, 50, 1, 1000⟩
def HIF_SPROTO_EN : Field := ⟨0x04C, 0, 1, 0, 1, 31, 31, .rw, .post, 0, 0, 1⟩
def HIF_SPROTO_SP_RING : Field := ⟨0x04C, 0, 1, 0, 1, 11, 0, .rw, .post, 0, 0, 4095⟩
def HIF_RING_ERR_ANY : Field := ⟨0x050, 0, 1, 0, 1, 31, 31, .ros, .none, 0, 0, 1⟩
def HIF_RING_ERR_KIND : Field := ⟨0x050, 0, 1, 0, 1, 18, 16, .ro, .none, 0, 0, 7⟩
def HIF_RING_ERR_RING : Field := ⟨0x050, 0, 1, 0, 1, 11, 0, .ro, .none, 0, 0, 4095⟩
def HIF_MSIX_VEC_BASE : Field := ⟨0x060, 4, 8, 0, 1, 23, 16, .rw, .post, 0, 0, 255⟩
def HIF_MSIX_VEC_COUNT : Field := ⟨0x060, 4, 8, 0, 1, 8, 0, .rw, .post, 0, 0, 256⟩
def HIF_MGMT_CFG_MODE : Field := ⟨0x100, 32, 2, 0, 1, 31, 30, .rw, .post, 0, 0, 3⟩
def HIF_MGMT_CFG_RX_RING : Field := ⟨0x100, 32, 2, 0, 1, 27, 16, .rw, .post, 0, 0, 4095⟩
def HIF_MGMT_CFG_MAX_LEN : Field := ⟨0x100, 32, 2, 0, 1, 13, 0, .rw, .post, 1522, 64, 9728⟩
def HIF_MGMT_FILT_DOWN_FILT : Field := ⟨0x104, 32, 2, 0, 1, 25, 16, .rw, .post, 10, 0, 1000⟩
def HIF_MGMT_FILT_UP_FILT : Field := ⟨0x104, 32, 2, 0, 1, 9, 0, .rw, .post, 100, 0, 1000⟩
def HIF_MGMT_STATUS_LINK_STATE : Field := ⟨0x108, 32, 2, 0, 1, 31, 28, .ro, .none, 0, 0, 15⟩
def HIF_MGMT_STATUS_RAW_LINK : Field := ⟨0x108, 32, 2, 0, 1, 27, 27, .ro, .none, 0, 0, 1⟩
def HIF_MGMT_STATUS_LOCAL_FAULT : Field := ⟨0x108, 32, 2, 0, 1, 26, 26, .ro, .none, 0, 0, 1⟩
def HIF_MGMT_STATUS_REMOTE_FAULT : Field := ⟨0x108, 32, 2, 0, 1, 25, 25, .ro, .none, 0, 0, 1⟩
def HIF_MGMT_STATUS_AN_DONE : Field := ⟨0x108, 32, 2, 0, 1, 24, 24, .ro, .none, 0, 0, 1⟩
def HIF_MGMT_EVENT_DOWN_SEEN : Field := ⟨0x10C, 32, 2, 0, 1, 31, 31, .ros, .none, 0, 0, 1⟩
def HIF_MGMT_EVENT_UP_SEEN : Field := ⟨0x10C, 32, 2, 0, 1, 30, 30, .ros, .none, 0, 0, 1⟩
def HIF_MGMT_EVENT_FLAP_CNT : Field := ⟨0x10C, 32, 2, 0, 1, 15, 0, .ros, .none, 0, 0, 65535⟩
def listHIF0 : List Field :=
  [HIF_FN_FN_EN, HIF_FN_FN0, HIF_LINK_LINK_MODE, HIF_LINK_WIDTH, HIF_LINK_SPEED, HIF_LINK_CACHE_ON, HIF_LINK_MEM_ON, HIF_LINK_HDM_COMMITTED, HIF_LINK_LINES_USED, HIF_TIMEOUT_MMIO_TO_US, HIF_TIMEOUT_DMA_TO_MS, HIF_SPROTO_EN]
def listHIF1 : List Field :=
  [HIF_SPROTO_SP_RING, HIF_RING_ERR_ANY, HIF_RING_ERR_KIND, HIF_RING_ERR_RING, HIF_MSIX_VEC_BASE, HIF_MSIX_VEC_COUNT, HIF_MGMT_CFG_MODE, HIF_MGMT_CFG_RX_RING, HIF_MGMT_CFG_MAX_LEN, HIF_MGMT_FILT_DOWN_FILT, HIF_MGMT_FILT_UP_FILT, HIF_MGMT_STATUS_LINK_STATE]
def listHIF2 : List Field :=
  [HIF_MGMT_STATUS_RAW_LINK, HIF_MGMT_STATUS_LOCAL_FAULT, HIF_MGMT_STATUS_REMOTE_FAULT, HIF_MGMT_STATUS_AN_DONE, HIF_MGMT_EVENT_DOWN_SEEN, HIF_MGMT_EVENT_UP_SEEN, HIF_MGMT_EVENT_FLAP_CNT]

/-! ### INT: the fields of R546 -/

def INT_GLOBAL_HOLD_HOLD : Field := ⟨0x040, 0, 1, 0, 1, 0, 0, .rw, .imm, 0, 0, 1⟩
def INT_FAULT_CFG_FAULT_MASK : Field := ⟨0x044, 0, 1, 0, 1, 31, 31, .rw, .imm, 0, 0, 1⟩
def INT_FAULT_CFG_FAULT_TARGET : Field := ⟨0x044, 0, 1, 0, 1, 8, 0, .rw, .imm, 255, 0, 257⟩
def INT_FAULT_STAT_STACK_FAULT : Field := ⟨0x048, 0, 1, 0, 1, 31, 31, .ros, .none, 0, 0, 1⟩
def INT_FAULT_STAT_SOURCE : Field := ⟨0x048, 0, 1, 0, 1, 30, 20, .ro, .none, 0, 0, 2047⟩
def INT_FAULT_STAT_TARGET : Field := ⟨0x048, 0, 1, 0, 1, 19, 11, .ro, .none, 0, 0, 511⟩
def INT_FAULT_STAT_FAULT_CNT : Field := ⟨0x048, 0, 1, 0, 1, 7, 0, .ros, .none, 0, 0, 255⟩
def INT_PIN_CFG_PIN_MASK : Field := ⟨0x04C, 0, 1, 0, 1, 1, 0, .rw, .imm, 3, 0, 3⟩
def INT_HOLDOFF_REMAIN : Field := ⟨0x100, 4, 64, 0, 1, 31, 16, .ro, .none, 0, 0, 65535⟩
def INT_HOLDOFF_HOLDOFF : Field := ⟨0x100, 4, 64, 0, 1, 15, 0, .rw, .imm, 0, 0, 65535⟩
def INT_GROUP_PEND_PEND : Field := ⟨0x200, 4, 64, 0, 1, 31, 0, .ro, .none, 0, 0, 4294967295⟩
def INT_GROUP_ACT_ACT : Field := ⟨0x300, 4, 64, 0, 1, 31, 0, .ro, .none, 0, 0, 4294967295⟩
def INT_CLAIM_VALID : Field := ⟨0x400, 4, 258, 0, 1, 31, 31, .ro, .none, 0, 0, 1⟩
def INT_CLAIM_RETRACTED : Field := ⟨0x400, 4, 258, 0, 1, 30, 30, .ro, .none, 0, 0, 1⟩
def INT_CLAIM_PRIO : Field := ⟨0x400, 4, 258, 0, 1, 27, 24, .ro, .none, 0, 0, 15⟩
def INT_CLAIM_COUNT : Field := ⟨0x400, 4, 258, 0, 1, 23, 16, .ro, .none, 0, 0, 255⟩
def INT_CLAIM_SOURCE : Field := ⟨0x400, 4, 258, 0, 1, 10, 0, .rw, .imm, 0, 0, 2047⟩
def INT_STACK_TOP_CLAIMED : Field := ⟨0x840, 4, 258, 0, 1, 31, 31, .ro, .none, 0, 0, 1⟩
def INT_STACK_DEPTH : Field := ⟨0x840, 4, 258, 0, 1, 20, 16, .ro, .none, 0, 0, 31⟩
def INT_STACK_TOP_PRIO : Field := ⟨0x840, 4, 258, 0, 1, 15, 12, .ro, .none, 0, 0, 15⟩
def INT_STACK_TOP_SOURCE : Field := ⟨0x840, 4, 258, 0, 1, 10, 0, .ro, .none, 0, 0, 2047⟩
def listINT0 : List Field :=
  [INT_GLOBAL_HOLD_HOLD, INT_FAULT_CFG_FAULT_MASK, INT_FAULT_CFG_FAULT_TARGET, INT_FAULT_STAT_STACK_FAULT, INT_FAULT_STAT_SOURCE, INT_FAULT_STAT_TARGET, INT_FAULT_STAT_FAULT_CNT, INT_PIN_CFG_PIN_MASK, INT_HOLDOFF_REMAIN, INT_HOLDOFF_HOLDOFF, INT_GROUP_PEND_PEND, INT_GROUP_ACT_ACT]
def listINT1 : List Field :=
  [INT_CLAIM_VALID, INT_CLAIM_RETRACTED, INT_CLAIM_PRIO, INT_CLAIM_COUNT, INT_CLAIM_SOURCE, INT_STACK_TOP_CLAIMED, INT_STACK_DEPTH, INT_STACK_TOP_PRIO, INT_STACK_TOP_SOURCE]

/-! ### EMB: the fields of R548 -/

def EMB_CTRL_PF_EN : Field := ⟨0x040, 0, 1, 0, 1, 31, 31, .rw, .post, 0, 0, 1⟩
def EMB_CTRL_WAKE_ON_PWR : Field := ⟨0x040, 0, 1, 0, 1, 30, 30, .rw, .post, 1, 0, 1⟩
def EMB_CTRL_PF_OVERRIDE : Field := ⟨0x040, 0, 1, 0, 1, 29, 29, .rw, .post, 0, 0, 1⟩
def EMB_CTRL_SM_VCORE_MV : Field := ⟨0x040, 0, 1, 0, 1, 19, 10, .rw, .post, 600, 600, 720⟩
def EMB_CTRL_PF_FILT : Field := ⟨0x040, 0, 1, 0, 1, 9, 0, .rw, .post, 100, 1, 1000⟩
def EMB_KEEP_KEEP0_EN : Field := ⟨0x044, 0, 1, 0, 1, 31, 31, .rw, .post, 0, 0, 1⟩
def EMB_KEEP_KEEP0_PORT : Field := ⟨0x044, 0, 1, 0, 1, 30, 25, .rw, .post, 0, 0, 47⟩
def EMB_KEEP_KEEP1_EN : Field := ⟨0x044, 0, 1, 0, 1, 24, 24, .rw, .post, 0, 0, 1⟩
def EMB_KEEP_KEEP1_PORT : Field := ⟨0x044, 0, 1, 0, 1, 23, 18, .rw, .post, 0, 0, 47⟩
def EMB_KEEP_KEEP_RING : Field := ⟨0x044, 0, 1, 0, 1, 11, 0, .rw, .post, 0, 0, 4095⟩
def EMB_STATUS_SM_STATE : Field := ⟨0x048, 0, 1, 0, 1, 31, 30, .ro, .none, 0, 0, 3⟩
def EMB_STATUS_PF_LEVEL : Field := ⟨0x048, 0, 1, 0, 1, 29, 29, .ro, .none, 0, 0, 1⟩
def EMB_STATUS_WAKE_DEFERRED : Field := ⟨0x048, 0, 1, 0, 1, 28, 28, .ro, .none, 0, 0, 1⟩
def EMB_STATUS_ENTRY_CAUSE : Field := ⟨0x048, 0, 1, 0, 1, 27, 27, .ro, .none, 0, 0, 1⟩
def EMB_STATUS_WAKE_CAUSE : Field := ⟨0x048, 0, 1, 0, 1, 26, 25, .ro, .none, 0, 0, 3⟩
def EMB_STATUS_WAKE_WATCH : Field := ⟨0x048, 0, 1, 0, 1, 5, 0, .ro, .none, 0, 0, 63⟩
def EMB_EVENT_ENTRY_SEEN : Field := ⟨0x04C, 0, 1, 0, 1, 31, 31, .ros, .none, 0, 0, 1⟩
def EMB_EVENT_EXIT_SEEN : Field := ⟨0x04C, 0, 1, 0, 1, 30, 30, .ros, .none, 0, 0, 1⟩
def EMB_EVENT_KEEP_REFUSED : Field := ⟨0x04C, 0, 1, 0, 1, 29, 29, .ros, .none, 0, 0, 1⟩
def EMB_EVENT_ENTRY_CNT : Field := ⟨0x04C, 0, 1, 0, 1, 15, 0, .ros, .none, 0, 0, 65535⟩
def EMB_TIMES_LAST_EXIT_US : Field := ⟨0x050, 0, 1, 0, 1, 31, 16, .ro, .none, 0, 0, 65535⟩
def EMB_TIMES_LAST_ENTRY_US : Field := ⟨0x050, 0, 1, 0, 1, 15, 0, .ro, .none, 0, 0, 65535⟩
def EMB_PORT_SAVED_LO_PORTS : Field := ⟨0x054, 0, 1, 0, 1, 31, 0, .ro, .none, 0, 0, 4294967295⟩
def EMB_PORT_SAVED_HI_PORTS : Field := ⟨0x058, 0, 1, 0, 1, 15, 0, .ro, .none, 0, 0, 65535⟩
def EMB_WATCH_EN : Field := ⟨0x100, 4, 64, 0, 1, 31, 31, .rw, .post, 0, 0, 1⟩
def EMB_WATCH_SOURCE : Field := ⟨0x100, 4, 64, 0, 1, 10, 0, .rw, .post, 0, 0, 2047⟩
def listEMB0 : List Field :=
  [EMB_CTRL_PF_EN, EMB_CTRL_WAKE_ON_PWR, EMB_CTRL_PF_OVERRIDE, EMB_CTRL_SM_VCORE_MV, EMB_CTRL_PF_FILT, EMB_KEEP_KEEP0_EN, EMB_KEEP_KEEP0_PORT, EMB_KEEP_KEEP1_EN, EMB_KEEP_KEEP1_PORT, EMB_KEEP_KEEP_RING, EMB_STATUS_SM_STATE, EMB_STATUS_PF_LEVEL]
def listEMB1 : List Field :=
  [EMB_STATUS_WAKE_DEFERRED, EMB_STATUS_ENTRY_CAUSE, EMB_STATUS_WAKE_CAUSE, EMB_STATUS_WAKE_WATCH, EMB_EVENT_ENTRY_SEEN, EMB_EVENT_EXIT_SEEN, EMB_EVENT_KEEP_REFUSED, EMB_EVENT_ENTRY_CNT, EMB_TIMES_LAST_EXIT_US, EMB_TIMES_LAST_ENTRY_US, EMB_PORT_SAVED_LO_PORTS, EMB_PORT_SAVED_HI_PORTS]
def listEMB2 : List Field :=
  [EMB_WATCH_EN, EMB_WATCH_SOURCE]

/-! ### LDG: the fields of R571 -/

def LDG_PART_SECTORS : Field := ⟨0x040, 0, 1, 0, 1, 31, 20, .rw, .post, 0, 0, 4095⟩
def LDG_PART_BASE : Field := ⟨0x040, 0, 1, 0, 1, 19, 0, .rw, .post, 0, 0, 1048575⟩
def LDG_HU_CFG_CAP_MF : Field := ⟨0x044, 0, 1, 0, 1, 31, 16, .rw, .post, 0, 0, 65535⟩
def LDG_HU_CFG_DIV : Field := ⟨0x044, 0, 1, 0, 1, 15, 0, .rw, .post, 256, 256, 65535⟩
def LDG_HU_LIM_VMIN_MV : Field := ⟨0x048, 0, 1, 0, 1, 15, 0, .rw, .post, 0, 0, 65535⟩
def LDG_HU_NEED_ERASE_MJ : Field := ⟨0x04C, 0, 1, 0, 1, 31, 16, .rw, .post, 0, 0, 65535⟩
def LDG_HU_NEED_PROG_MJ : Field := ⟨0x04C, 0, 1, 0, 1, 15, 0, .rw, .post, 0, 0, 65535⟩
def LDG_HU_STAT_HOLDUP_OK : Field := ⟨0x050, 0, 1, 0, 1, 31, 31, .ro, .none, 0, 0, 1⟩
def LDG_HU_STAT_HOLDUP_LOW : Field := ⟨0x050, 0, 1, 0, 1, 30, 30, .ro, .none, 1, 0, 1⟩
def LDG_HU_STAT_CODE : Field := ⟨0x050, 0, 1, 0, 1, 27, 16, .ro, .none, 0, 0, 4095⟩
def LDG_HU_STAT_E_MJ : Field := ⟨0x050, 0, 1, 0, 1, 15, 0, .ro, .none, 0, 0, 65535⟩
def LDG_STATUS_WSTATE : Field := ⟨0x054, 0, 1, 0, 1, 15, 14, .ro, .none, 0, 0, 3⟩
def LDG_STATUS_FLASH_ERR : Field := ⟨0x054, 0, 1, 0, 1, 13, 13, .ros, .none, 0, 0, 1⟩
def LDG_STATUS_QUEUED : Field := ⟨0x054, 0, 1, 0, 1, 12, 8, .ro, .none, 0, 0, 31⟩
def LDG_SEQ_SEQ : Field := ⟨0x058, 0, 1, 0, 1, 31, 0, .ro, .none, 0, 0, 4294967295⟩
def LDG_POWER_CYCLE_COUNT : Field := ⟨0x05C, 0, 1, 0, 1, 31, 0, .ro, .none, 0, 0, 4294967295⟩
def LDG_DEFER_LOST : Field := ⟨0x060, 0, 1, 0, 1, 31, 16, .ros, .none, 0, 0, 65535⟩
def LDG_DEFER_DEFERRED : Field := ⟨0x060, 0, 1, 0, 1, 15, 0, .ros, .none, 0, 0, 65535⟩
def LDG_OVF_IDX_GROUP : Field := ⟨0x070, 0, 1, 0, 1, 13, 0, .rw, .imm, 0, 0, 16383⟩
def LDG_OVF_BITS_OVF : Field := ⟨0x074, 0, 1, 0, 1, 31, 0, .ros, .none, 0, 0, 4294967295⟩
def LDG_OVF_ANY_ANY : Field := ⟨0x078, 0, 1, 0, 1, 31, 31, .ro, .none, 0, 0, 1⟩
def LDG_OVF_SUM_SUM : Field := ⟨0x080, 4, 16, 0, 1, 31, 0, .ro, .none, 0, 0, 4294967295⟩
def LDG_CLR_BASE_BASE : Field := ⟨0x0C0, 0, 1, 0, 1, 18, 0, .rw, .imm, 0, 0, 524287⟩
def LDG_CLR_COUNT_COUNT : Field := ⟨0x0C4, 0, 1, 0, 1, 19, 0, .rw, .imm, 1, 1, 524288⟩
def LDG_RD_SEL_BACK : Field := ⟨0x0C8, 0, 1, 0, 1, 11, 0, .rw, .imm, 0, 0, 4095⟩
def LDG_RD_DATA_DATA : Field := ⟨0x100, 4, 64, 0, 1, 31, 0, .ro, .none, 0, 0, 4294967295⟩
def listLDG0 : List Field :=
  [LDG_PART_SECTORS, LDG_PART_BASE, LDG_HU_CFG_CAP_MF, LDG_HU_CFG_DIV, LDG_HU_LIM_VMIN_MV, LDG_HU_NEED_ERASE_MJ, LDG_HU_NEED_PROG_MJ, LDG_HU_STAT_HOLDUP_OK, LDG_HU_STAT_HOLDUP_LOW, LDG_HU_STAT_CODE, LDG_HU_STAT_E_MJ, LDG_STATUS_WSTATE]
def listLDG1 : List Field :=
  [LDG_STATUS_FLASH_ERR, LDG_STATUS_QUEUED, LDG_SEQ_SEQ, LDG_POWER_CYCLE_COUNT, LDG_DEFER_LOST, LDG_DEFER_DEFERRED, LDG_OVF_IDX_GROUP, LDG_OVF_BITS_OVF, LDG_OVF_ANY_ANY, LDG_OVF_SUM_SUM, LDG_CLR_BASE_BASE, LDG_CLR_COUNT_COUNT]
def listLDG2 : List Field :=
  [LDG_RD_SEL_BACK, LDG_RD_DATA_DATA]

/-! ### BOOT: the fields of R601 -/

def BOOT_STATUS_PHASE : Field := ⟨0x040, 0, 1, 0, 1, 31, 28, .ro, .none, 0, 0, 15⟩
def BOOT_STATUS_CODE : Field := ⟨0x040, 0, 1, 0, 1, 27, 24, .ro, .none, 0, 0, 15⟩
def BOOT_STATUS_DETAIL : Field := ⟨0x040, 0, 1, 0, 1, 23, 20, .ro, .none, 0, 0, 15⟩
def BOOT_STATUS_MODE : Field := ⟨0x040, 0, 1, 0, 1, 19, 18, .ro, .none, 0, 0, 3⟩
def BOOT_STATUS_SLOT : Field := ⟨0x040, 0, 1, 0, 1, 17, 16, .ro, .none, 3, 0, 3⟩
def BOOT_STATUS_DONE : Field := ⟨0x040, 0, 1, 0, 1, 15, 15, .ro, .none, 0, 0, 1⟩
def BOOT_STATUS_SAFE : Field := ⟨0x040, 0, 1, 0, 1, 14, 14, .ro, .none, 0, 0, 1⟩
def BOOT_STATUS_LAST_RESET : Field := ⟨0x040, 0, 1, 0, 1, 13, 12, .ro, .none, 0, 0, 3⟩
def BOOT_STATUS_BOOT_MS : Field := ⟨0x040, 0, 1, 0, 1, 11, 0, .ro, .none, 0, 0, 4095⟩
def BOOT_STRAP_MATE_ID : Field := ⟨0x044, 0, 1, 0, 1, 2, 2, .ro, .none, 0, 0, 1⟩
def BOOT_STRAP_BOOT_MODE : Field := ⟨0x044, 0, 1, 0, 1, 1, 0, .ro, .none, 0, 0, 3⟩
def BOOT_IMAGE_VER_VER : Field := ⟨0x048, 0, 1, 0, 1, 31, 0, .ro, .none, 0, 0, 4294967295⟩
def BOOT_ROLLBACK_IMG_RB : Field := ⟨0x04C, 0, 1, 0, 1, 15, 8, .ro, .none, 0, 0, 255⟩
def BOOT_ROLLBACK_OTP_RB : Field := ⟨0x04C, 0, 1, 0, 1, 7, 0, .ro, .none, 0, 0, 255⟩
def BOOT_FAIL_REC_CODE : Field := ⟨0x050, 0, 1, 0, 1, 31, 28, .ro, .none, 0, 0, 15⟩
def BOOT_FAIL_REC_INDEX : Field := ⟨0x050, 0, 1, 0, 1, 19, 0, .ro, .none, 0, 0, 1048575⟩
def BOOT_OTP_LOCK : Field := ⟨0x054, 0, 1, 0, 1, 31, 31, .ro, .none, 0, 0, 1⟩
def BOOT_OTP_CUST_VALID : Field := ⟨0x054, 0, 1, 0, 1, 30, 30, .ro, .none, 0, 0, 1⟩
def BOOT_OTP_VENDOR_DIS : Field := ⟨0x054, 0, 1, 0, 1, 29, 29, .ro, .none, 0, 0, 1⟩
def BOOT_OTP_BSCAN_OPEN : Field := ⟨0x054, 0, 1, 0, 1, 28, 28, .ro, .none, 0, 0, 1⟩
def BOOT_DIE_ID_LO_DIE_ID : Field := ⟨0x058, 0, 1, 0, 1, 31, 0, .ro, .none, 0, 0, 4294967295⟩
def BOOT_DIE_ID_HI_DIE_ID : Field := ⟨0x05C, 0, 1, 0, 1, 31, 0, .ro, .none, 0, 0, 4294967295⟩
def BOOT_CUST_HASH_HASH : Field := ⟨0x060, 4, 12, 0, 1, 31, 0, .ro, .none, 0, 0, 4294967295⟩
def BOOT_OTP_SEL_WORD : Field := ⟨0x090, 0, 1, 0, 1, 4, 0, .rw, .imm, 0, 0, 20⟩
def BOOT_OTP_DATA_DATA : Field := ⟨0x094, 0, 1, 0, 1, 31, 0, .rw, .imm, 0, 0, 4294967295⟩
def BOOT_JTAG_LOCKED : Field := ⟨0x0A0, 0, 1, 0, 1, 31, 31, .ro, .none, 0, 0, 1⟩
def BOOT_JTAG_DBG_OPEN : Field := ⟨0x0A0, 0, 1, 0, 1, 30, 30, .ro, .none, 0, 0, 1⟩
def BOOT_JTAG_SCAN_OPEN : Field := ⟨0x0A0, 0, 1, 0, 1, 29, 29, .ro, .none, 0, 0, 1⟩
def BOOT_JTAG_FAIL_CNT : Field := ⟨0x0A0, 0, 1, 0, 1, 3, 0, .ro, .none, 0, 0, 15⟩
def BOOT_UNLOCK_SCOPE_SCOPE : Field := ⟨0x0A4, 0, 1, 0, 1, 1, 0, .rw, .imm, 0, 0, 3⟩
def BOOT_NONCE_NONCE : Field := ⟨0x0B0, 4, 4, 0, 1, 31, 0, .ro, .none, 0, 0, 4294967295⟩
def BOOT_UNLOCK_SIG_SIG : Field := ⟨0x0C0, 4, 24, 0, 1, 31, 0, .rw, .imm, 0, 0, 4294967295⟩
def BOOT_FL_ADDR_FL_ADDR : Field := ⟨0x140, 0, 1, 0, 1, 31, 0, .rw, .imm, 0, 0, 4294967295⟩
def BOOT_FL_LEN_LEN : Field := ⟨0x144, 0, 1, 0, 1, 6, 0, .rw, .imm, 64, 1, 64⟩
def BOOT_FL_DATA_DATA : Field := ⟨0x150, 4, 16, 0, 1, 31, 0, .rw, .imm, 0, 0, 4294967295⟩
def listBOOT0 : List Field :=
  [BOOT_STATUS_PHASE, BOOT_STATUS_CODE, BOOT_STATUS_DETAIL, BOOT_STATUS_MODE, BOOT_STATUS_SLOT, BOOT_STATUS_DONE, BOOT_STATUS_SAFE, BOOT_STATUS_LAST_RESET, BOOT_STATUS_BOOT_MS, BOOT_STRAP_MATE_ID, BOOT_STRAP_BOOT_MODE, BOOT_IMAGE_VER_VER]
def listBOOT1 : List Field :=
  [BOOT_ROLLBACK_IMG_RB, BOOT_ROLLBACK_OTP_RB, BOOT_FAIL_REC_CODE, BOOT_FAIL_REC_INDEX, BOOT_OTP_LOCK, BOOT_OTP_CUST_VALID, BOOT_OTP_VENDOR_DIS, BOOT_OTP_BSCAN_OPEN, BOOT_DIE_ID_LO_DIE_ID, BOOT_DIE_ID_HI_DIE_ID, BOOT_CUST_HASH_HASH, BOOT_OTP_SEL_WORD]
def listBOOT2 : List Field :=
  [BOOT_OTP_DATA_DATA, BOOT_JTAG_LOCKED, BOOT_JTAG_DBG_OPEN, BOOT_JTAG_SCAN_OPEN, BOOT_JTAG_FAIL_CNT, BOOT_UNLOCK_SCOPE_SCOPE, BOOT_NONCE_NONCE, BOOT_UNLOCK_SIG_SIG, BOOT_FL_ADDR_FL_ADDR, BOOT_FL_LEN_LEN, BOOT_FL_DATA_DATA]

/-! ### QUEUE: the fields of R277, R305 and R368 (window) -/

def Q_CFG_EN : Field := ⟨0x000, 0, 1, 0, 1, 31, 31, .rw, .imm, 0, 0, 1⟩
def Q_CFG_DOWN_POLICY : Field := ⟨0x000, 0, 1, 0, 1, 30, 29, .rw, .imm, 0, 0, 3⟩
def Q_CFG_PORT : Field := ⟨0x000, 0, 1, 0, 1, 21, 16, .rw, .imm, 0, 0, 63⟩
def Q_CFG_CLASS : Field := ⟨0x000, 0, 1, 0, 1, 10, 8, .rw, .imm, 0, 0, 7⟩
def Q_CFG_WRED_PROFILE : Field := ⟨0x000, 0, 1, 0, 1, 5, 0, .rw, .imm, 0, 0, 63⟩
def Q_LIMIT_WRED_W : Field := ⟨0x004, 0, 1, 0, 1, 31, 28, .rw, .imm, 0, 0, 15⟩
def Q_LIMIT_HOLD : Field := ⟨0x004, 0, 1, 0, 1, 25, 16, .rw, .imm, 0, 0, 1000⟩
def Q_LIMIT_MAX_DEPTH : Field := ⟨0x004, 0, 1, 0, 1, 15, 0, .rw, .imm, 4096, 1, 65535⟩
def Q_AGE_AGE_LIMIT : Field := ⟨0x008, 0, 1, 0, 1, 19, 0, .rw, .imm, 0, 0, 1000000⟩
def Q_MIRROR_EMIR_EN : Field := ⟨0x00C, 0, 1, 0, 1, 4, 4, .rw, .imm, 0, 0, 1⟩
def Q_MIRROR_EMIR_SESSION : Field := ⟨0x00C, 0, 1, 0, 1, 3, 0, .rw, .imm, 0, 0, 15⟩
def Q_SPILL_CFG_SPILL_EN : Field := ⟨0x010, 0, 1, 0, 1, 31, 31, .rw, .imm, 0, 0, 1⟩
def Q_SPILL_CFG_PEAT_MAX : Field := ⟨0x010, 0, 1, 0, 1, 30, 12, .rw, .imm, 524287, 0, 524287⟩
def Q_SPILL_CFG_SPILL_TH : Field := ⟨0x010, 0, 1, 0, 1, 11, 0, .rw, .imm, 4095, 1, 4095⟩
def Q_SPILL_STAT_SPILL_STATE : Field := ⟨0x014, 0, 1, 0, 1, 31, 30, .ro, .none, 0, 0, 3⟩
def Q_SPILL_STAT_PEAT_FRAMES : Field := ⟨0x014, 0, 1, 0, 1, 29, 0, .ro, .none, 0, 0, 1073741823⟩
def Q_SCHED_SHAPED : Field := ⟨0x018, 0, 1, 0, 1, 31, 31, .rw, .imm, 0, 0, 1⟩
def Q_SCHED_ARB_CLASS : Field := ⟨0x018, 0, 1, 0, 1, 13, 12, .rw, .imm, 0, 0, 3⟩
def Q_SCHED_SHAPER : Field := ⟨0x018, 0, 1, 0, 1, 10, 0, .rw, .imm, 0, 0, 2047⟩
def Q_STARVE_STARVED : Field := ⟨0x01C, 0, 1, 0, 1, 31, 31, .ros, .none, 0, 0, 1⟩
def Q_STARVE_WAIT_ROUNDS : Field := ⟨0x01C, 0, 1, 0, 1, 15, 0, .ro, .none, 0, 0, 65535⟩
def Q_W8_BILLETS : Field := ⟨0x020, 0, 1, 0, 1, 16, 0, .ro, .none, 0, 0, 131071⟩
def Q_W9_AVG : Field := ⟨0x024, 0, 1, 0, 1, 24, 0, .ro, .none, 0, 0, 33554431⟩
def Q_W10_DSTATE : Field := ⟨0x028, 0, 1, 0, 1, 31, 29, .ro, .none, 0, 0, 7⟩
def Q_W10_AGE_PENDING : Field := ⟨0x028, 0, 1, 0, 1, 28, 28, .ro, .none, 0, 0, 1⟩
def Q_W10_HOLD_LEFT : Field := ⟨0x028, 0, 1, 0, 1, 9, 0, .ro, .none, 0, 0, 1023⟩
def Q_W11_FRAMES : Field := ⟨0x02C, 0, 1, 0, 1, 16, 0, .ro, .none, 0, 0, 131071⟩
def Q_W12_DMAX : Field := ⟨0x030, 0, 1, 0, 1, 31, 16, .ro, .none, 0, 0, 65535⟩
def Q_W12_DMIN : Field := ⟨0x030, 0, 1, 0, 1, 15, 0, .ro, .none, 0, 0, 65535⟩
def Q_W13_WIN_SEQ : Field := ⟨0x034, 0, 1, 0, 1, 31, 24, .ro, .none, 0, 0, 255⟩
def Q_W13_DMEAN : Field := ⟨0x034, 0, 1, 0, 1, 15, 0, .ro, .none, 0, 0, 65535⟩
def Q_W14_LMAX : Field := ⟨0x038, 0, 1, 0, 1, 31, 16, .ro, .none, 0, 0, 65535⟩
def Q_W14_LMIN : Field := ⟨0x038, 0, 1, 0, 1, 15, 0, .ro, .none, 0, 0, 65535⟩
def Q_W15_WIN_SEQ : Field := ⟨0x03C, 0, 1, 0, 1, 31, 24, .ro, .none, 0, 0, 255⟩
def Q_W15_LMEAN : Field := ⟨0x03C, 0, 1, 0, 1, 15, 0, .ro, .none, 0, 0, 65535⟩
def listQUEUE0 : List Field :=
  [Q_CFG_EN, Q_CFG_DOWN_POLICY, Q_CFG_PORT, Q_CFG_CLASS, Q_CFG_WRED_PROFILE, Q_LIMIT_WRED_W, Q_LIMIT_HOLD, Q_LIMIT_MAX_DEPTH, Q_AGE_AGE_LIMIT, Q_MIRROR_EMIR_EN, Q_MIRROR_EMIR_SESSION, Q_SPILL_CFG_SPILL_EN]
def listQUEUE1 : List Field :=
  [Q_SPILL_CFG_PEAT_MAX, Q_SPILL_CFG_SPILL_TH, Q_SPILL_STAT_SPILL_STATE, Q_SPILL_STAT_PEAT_FRAMES, Q_SCHED_SHAPED, Q_SCHED_ARB_CLASS, Q_SCHED_SHAPER, Q_STARVE_STARVED, Q_STARVE_WAIT_ROUNDS, Q_W8_BILLETS, Q_W9_AVG, Q_W10_DSTATE]
def listQUEUE2 : List Field :=
  [Q_W10_AGE_PENDING, Q_W10_HOLD_LEFT, Q_W11_FRAMES, Q_W12_DMAX, Q_W12_DMIN, Q_W13_WIN_SEQ, Q_W13_DMEAN, Q_W14_LMAX, Q_W14_LMIN, Q_W15_WIN_SEQ, Q_W15_LMEAN]

/-! ### IDENT: the fields of R391 (window) -/

def ID_VALID : Field := ⟨0x000, 0, 1, 0, 1, 31, 31, .rw, .imm, 0, 0, 1⟩
def ID_METHOD : Field := ⟨0x000, 0, 1, 0, 1, 30, 28, .rw, .imm, 0, 0, 7⟩
def ID_TWIN_EN : Field := ⟨0x000, 0, 1, 0, 1, 27, 27, .rw, .imm, 0, 0, 1⟩
def ID_TWIN_REGION : Field := ⟨0x000, 0, 1, 0, 1, 26, 25, .rw, .imm, 0, 0, 3⟩
def ID_SEQ_SRC : Field := ⟨0x000, 0, 1, 0, 1, 24, 24, .rw, .imm, 0, 0, 1⟩
def ID_INDIV_EN : Field := ⟨0x000, 0, 1, 0, 1, 23, 23, .rw, .imm, 0, 0, 1⟩
def ID_VID_ANY : Field := ⟨0x000, 0, 1, 0, 1, 22, 22, .rw, .imm, 0, 0, 1⟩
def ID_FAM : Field := ⟨0x000, 0, 1, 0, 1, 21, 21, .rw, .imm, 0, 0, 1⟩
def ID_IP_EN : Field := ⟨0x000, 0, 1, 0, 1, 20, 15, .rw, .imm, 0, 0, 63⟩
def ID_VID : Field := ⟨0x000, 0, 1, 0, 1, 11, 0, .rw, .imm, 0, 0, 4095⟩
def ID_PORT : Field := ⟨0x004, 0, 1, 0, 1, 21, 16, .rw, .imm, 0, 0, 63⟩
def ID_MAC_HI : Field := ⟨0x004, 0, 1, 0, 1, 15, 0, .rw, .imm, 0, 0, 65535⟩
def ID_MAC_LO : Field := ⟨0x008, 0, 1, 0, 1, 31, 0, .rw, .imm, 0, 0, 4294967295⟩
def ID_DPORT : Field := ⟨0x00C, 0, 1, 0, 1, 31, 16, .rw, .imm, 0, 0, 65535⟩
def ID_SPORT : Field := ⟨0x00C, 0, 1, 0, 1, 15, 0, .rw, .imm, 0, 0, 65535⟩
def ID_DSCP : Field := ⟨0x010, 0, 1, 0, 1, 13, 8, .rw, .imm, 0, 0, 63⟩
def ID_PROTO : Field := ⟨0x010, 0, 1, 0, 1, 7, 0, .rw, .imm, 0, 0, 255⟩
def ID_DIP : Field := ⟨0x014, 4, 4, 0, 1, 31, 0, .rw, .imm, 0, 0, 4294967295⟩
def ID_SIP : Field := ⟨0x024, 4, 4, 0, 1, 31, 0, .rw, .imm, 0, 0, 4294967295⟩
def ID_GEN_SEQ : Field := ⟨0x034, 0, 1, 0, 1, 15, 0, .rw, .imm, 0, 0, 65535⟩
def ID_LAST_SEQ : Field := ⟨0x038, 0, 1, 0, 1, 15, 0, .ro, .none, 0, 0, 65535⟩
def listIDENT0 : List Field :=
  [ID_VALID, ID_METHOD, ID_TWIN_EN, ID_TWIN_REGION, ID_SEQ_SRC, ID_INDIV_EN, ID_VID_ANY, ID_FAM, ID_IP_EN, ID_VID, ID_PORT, ID_MAC_HI]
def listIDENT1 : List Field :=
  [ID_MAC_LO, ID_DPORT, ID_SPORT, ID_DSCP, ID_PROTO, ID_DIP, ID_SIP, ID_GEN_SEQ, ID_LAST_SEQ]

/-! ### RECOV: the fields of R392 (window) -/

def REC_VALID : Field := ⟨0x000, 0, 1, 0, 1, 31, 31, .rw, .imm, 0, 0, 1⟩
def REC_TAG_OUT : Field := ⟨0x000, 0, 1, 0, 1, 30, 30, .rw, .imm, 0, 0, 1⟩
def REC_STREAM : Field := ⟨0x000, 0, 1, 0, 1, 27, 16, .rw, .imm, 0, 0, 4095⟩
def REC_HOLD : Field := ⟨0x000, 0, 1, 0, 1, 9, 0, .rw, .imm, 200, 0, 800⟩
def REC_TWIN_Q : Field := ⟨0x004, 0, 1, 0, 1, 31, 16, .rw, .imm, 0, 0, 65535⟩
def REC_QUEUE : Field := ⟨0x004, 0, 1, 0, 1, 15, 0, .rw, .imm, 0, 0, 65535⟩
def REC_RESET_MS : Field := ⟨0x008, 0, 1, 0, 1, 31, 16, .rw, .imm, 1000, 1, 65535⟩
def REC_LATENT_PERIOD : Field := ⟨0x008, 0, 1, 0, 1, 15, 0, .rw, .imm, 2000, 1, 65535⟩
def REC_PATHS : Field := ⟨0x00C, 0, 1, 0, 1, 31, 28, .rw, .imm, 2, 2, 8⟩
def REC_LATENT_DIFF : Field := ⟨0x00C, 0, 1, 0, 1, 15, 0, .rw, .imm, 100, 0, 65535⟩
def REC_TAKE_ANY : Field := ⟨0x010, 0, 1, 0, 1, 31, 31, .ro, .none, 1, 0, 1⟩
def REC_HOLDING : Field := ⟨0x010, 0, 1, 0, 1, 30, 30, .ro, .none, 0, 0, 1⟩
def REC_LATENT_ERR : Field := ⟨0x010, 0, 1, 0, 1, 29, 29, .ros, .none, 0, 0, 1⟩
def REC_NEXT : Field := ⟨0x010, 0, 1, 0, 1, 15, 0, .ro, .none, 0, 0, 65535⟩
def REC_HIST_LO : Field := ⟨0x014, 0, 1, 0, 1, 31, 0, .ro, .none, 0, 0, 4294967295⟩
def REC_HIST_HI : Field := ⟨0x018, 0, 1, 0, 1, 31, 0, .ro, .none, 0, 0, 4294967295⟩
def listRECOV0 : List Field :=
  [REC_VALID, REC_TAG_OUT, REC_STREAM, REC_HOLD, REC_TWIN_Q, REC_QUEUE, REC_RESET_MS, REC_LATENT_PERIOD, REC_PATHS, REC_LATENT_DIFF, REC_TAKE_ANY, REC_HOLDING]
def listRECOV1 : List Field :=
  [REC_LATENT_ERR, REC_NEXT, REC_HIST_LO, REC_HIST_HI]

/-! ### RING: the fields of R520 (window) -/

def RING_EN : Field := ⟨0x000, 0, 1, 0, 1, 31, 31, .rw, .imm, 0, 0, 1⟩
def RING_KIND : Field := ⟨0x000, 0, 1, 0, 1, 30, 29, .rw, .imm, 0, 0, 3⟩
def RING_FN : Field := ⟨0x000, 0, 1, 0, 1, 28, 26, .rw, .imm, 0, 0, 7⟩
def RING_CACHE_EN : Field := ⟨0x000, 0, 1, 0, 1, 25, 25, .rw, .imm, 0, 0, 1⟩
def RING_SIZE_LOG2 : Field := ⟨0x000, 0, 1, 0, 1, 24, 20, .rw, .imm, 3, 3, 15⟩
def RING_PREFETCH : Field := ⟨0x000, 0, 1, 0, 1, 19, 16, .rw, .imm, 1, 1, 8⟩
def RING_EVT_SRC : Field := ⟨0x000, 0, 1, 0, 1, 15, 8, .rw, .imm, 0, 0, 255⟩
def RING_BASE_LO : Field := ⟨0x004, 0, 1, 0, 1, 31, 6, .rw, .imm, 0, 0, 67108863⟩
def RING_BASE_HI : Field := ⟨0x008, 0, 1, 0, 1, 31, 0, .rw, .imm, 0, 0, 4294967295⟩
def RING_HOST_IDX : Field := ⟨0x00C, 0, 1, 0, 1, 15, 0, .rw, .imm, 0, 0, 65535⟩
def RING_DEV_IDX : Field := ⟨0x010, 0, 1, 0, 1, 15, 0, .ro, .none, 0, 0, 65535⟩
def RING_RSTATE : Field := ⟨0x014, 0, 1, 0, 1, 31, 30, .ro, .none, 0, 0, 3⟩
def listRING0 : List Field :=
  [RING_EN, RING_KIND, RING_FN, RING_CACHE_EN, RING_SIZE_LOG2, RING_PREFETCH, RING_EVT_SRC, RING_BASE_LO, RING_BASE_HI, RING_HOST_IDX, RING_DEV_IDX, RING_RSTATE]

/-! ### ISRC: the fields of R547 (window) -/

def SRC_EN : Field := ⟨0x000, 0, 1, 0, 1, 31, 31, .rw, .imm, 0, 0, 1⟩
def SRC_MASK : Field := ⟨0x000, 0, 1, 0, 1, 30, 30, .rw, .imm, 0, 0, 1⟩
def SRC_KIND : Field := ⟨0x000, 0, 1, 0, 1, 29, 29, .ro, .none, 0, 0, 1⟩
def SRC_PRIO : Field := ⟨0x000, 0, 1, 0, 1, 19, 16, .rw, .imm, 0, 0, 15⟩
def SRC_TARGET : Field := ⟨0x000, 0, 1, 0, 1, 8, 0, .rw, .imm, 0, 0, 257⟩
def SRC_ACTIVE : Field := ⟨0x004, 0, 1, 0, 1, 31, 31, .ro, .none, 0, 0, 1⟩
def SRC_PENDING : Field := ⟨0x004, 0, 1, 0, 1, 30, 30, .ro, .none, 0, 0, 1⟩
def SRC_CLAIMED : Field := ⟨0x004, 0, 1, 0, 1, 29, 29, .ro, .none, 0, 0, 1⟩
def SRC_RETRACTED : Field := ⟨0x004, 0, 1, 0, 1, 28, 28, .ro, .none, 0, 0, 1⟩
def SRC_LINE : Field := ⟨0x004, 0, 1, 0, 1, 27, 27, .ro, .none, 0, 0, 1⟩
def SRC_CLAIM_COUNT : Field := ⟨0x004, 0, 1, 0, 1, 15, 8, .ro, .none, 0, 0, 255⟩
def SRC_COUNT : Field := ⟨0x004, 0, 1, 0, 1, 7, 0, .ro, .none, 0, 0, 255⟩
def SRC_FIRE : Field := ⟨0x008, 0, 1, 0, 1, 0, 0, .wo, .imm, 0, 0, 1⟩
def listISRC0 : List Field :=
  [SRC_EN, SRC_MASK, SRC_KIND, SRC_PRIO, SRC_TARGET, SRC_ACTIVE, SRC_PENDING, SRC_CLAIMED, SRC_RETRACTED, SRC_LINE, SRC_CLAIM_COUNT, SRC_COUNT]
def listISRC1 : List Field :=
  [SRC_FIRE]

end F

/-- Every field of a kind of page or window. -/
def fieldsOf : Blk → List Field
  | .sns => F.listSNS0 ++ F.listSNS1
  | .port => F.listPORT0 ++ F.listPORT1 ++ F.listPORT2 ++ F.listPORT3 ++ F.listPORT4 ++ F.listPORT5
  | .prs => F.listPRS0 ++ F.listPRS1 ++ F.listPRS2
  | .lkp => F.listLKP0 ++ F.listLKP1 ++ F.listLKP2
  | .eng => F.listENG0 ++ F.listENG1 ++ F.listENG2 ++ F.listENG3
  | .buf => F.listBUF0 ++ F.listBUF1 ++ F.listBUF2 ++ F.listBUF3
  | .qsc => F.listQSC0 ++ F.listQSC1 ++ F.listQSC2
  | .rpl => F.listRPL0 ++ F.listRPL1
  | .xbar => F.listXBAR0
  | .sfab => F.listSFAB0
  | .peat => F.listPEAT0 ++ F.listPEAT1 ++ F.listPEAT2 ++ F.listPEAT3 ++ F.listPEAT4
  | .time => F.listTIME0 ++ F.listTIME1 ++ F.listTIME2 ++ F.listTIME3 ++ F.listTIME4 ++ F.listTIME5 ++ F.listTIME6 ++ F.listTIME7 ++ F.listTIME8 ++ F.listTIME9 ++ F.listTIME10
  | .mate => F.listMATE0 ++ F.listMATE1 ++ F.listMATE2 ++ F.listMATE3
  | .hif => F.listHIF0 ++ F.listHIF1 ++ F.listHIF2
  | .int => F.listINT0 ++ F.listINT1
  | .emb => F.listEMB0 ++ F.listEMB1 ++ F.listEMB2
  | .ldg => F.listLDG0 ++ F.listLDG1 ++ F.listLDG2
  | .boot => F.listBOOT0 ++ F.listBOOT1 ++ F.listBOOT2
  | .queue => F.listQUEUE0 ++ F.listQUEUE1 ++ F.listQUEUE2
  | .ident => F.listIDENT0 ++ F.listIDENT1
  | .recov => F.listRECOV0 ++ F.listRECOV1
  | .ring => F.listRING0
  | .isrc => F.listISRC0 ++ F.listISRC1

end Sys2Proof.Machine
end

