-- ==== Sys2Proof/Machine/State.lean ====
section
/-! DEFINITION. The state of the part as plain data, block by block, the reasons a step can stop, and the state right
after reset. Every sparse table names in its docstring what an unlisted index reads as. -/
namespace Sys2Proof.Machine

/-! ### The register pages (R49 to R73) -/

/-- The common states of R59. -/
inductive BlkState where
  | reset | boot | ready | run | fenced | reinit | halted
  deriving DecidableEq, Repr

/-- A held BLK_LOCK (R70): its owner, and when its lease ends on the local counter. -/
structure Lock where
  owner : Nat
  leaseEnd : Nat
  deriving DecidableEq, Repr

/-- A command that is running (R57, R629): what BLK_RESULT will record, and the operands taken at acceptance. -/
structure RunCmd where
  op : Nat
  arg : Nat
  agent : Nat
  ops : List Nat
  deriving DecidableEq, Repr

/-- The common header of one register page (R58) with what the page remembers (R72, R474, R476): the state before the last fence, when
the block came back from a recovery, and whether it has been fenced or reinitialised since it last ran; `rounds` counts the arbitration rounds
since its commit point (R63). -/
structure Page where
  state : BlkState := .reset
  fenceCause : Nat := 0
  substate : Nat := 0
  before : BlkState := .ready
  returnedAt : Option Nat := none
  resumes : Bool := false
  escalated : Bool := false
  contained : Bool := false
  corrected : Bool := false
  noted : Bool := false
  accErr : Bool := false
  leaseLapsed : Bool := false
  lastCode : Nat := 0
  stateCnt : Nat := 0
  refuseCnt : Nat := 0
  seq : Nat := 0
  resIndex : Nat := 0
  resOp : Nat := 0
  resAgent : Nat := 0
  resCode : Nat := 0
  commitPending : Bool := false
  rounds : Nat := 0
  appliedSeq : Nat := 0
  cmd : Option RunCmd := none
  posted : List (Nat × Nat) := []
  lock : Option Lock := none
  lapsed : Option Nat := none
  corrCnt : Nat := 0
  lastReg : Nat := 0
  lastCopy : Nat := 0
  uncorr : Bool := false
  deriving DecidableEq, Repr

/-- The fields of every page and table window, by field key (page, word, lowest bit). An unlisted field reads as
its reset value. `shadow` lists the B fields whose shadow differs from the operating value, with the agent that
wrote it; `copies` the T fields whose three copies are not all equal (R67). -/
structure RegFile where
  op : SMap Nat := ⟨[]⟩
  shadow : SMap (Nat × Nat) := ⟨[]⟩
  copies : SMap (Nat × Nat × Nat) := ⟨[]⟩
  deriving DecidableEq, Repr

/-- One instant read in the four scales (R394, R413), in 1/65,536 ns, and whether it is a reception time at all, was taken
before calibration (R401), and which domains were not OFF. -/
structure Stamp where
  l : Nat := 0
  a : Nat := 0
  b : Nat := 0
  s : Nat := 0
  valid : Bool := false
  uncal : Bool := false
  aOn : Bool := false
  bOn : Bool := false
  deriving DecidableEq, Repr

/-! ### Interrupts (R523 to R537) -/

/-- The state of one interrupt source (R527, R547 word 1). -/
structure Src where
  pending : Bool := false
  active : Bool := false
  claimed : Bool := false
  retracted : Bool := false
  line : Bool := false
  count : Nat := 0
  claimCount : Nat := 0
  deriving DecidableEq, Repr

/-- One entry of a target's priority stack (R526). -/
structure StkEntry where
  source : Nat
  prio : Nat
  deriving DecidableEq, Repr

/-- The interrupt controller: the sources (an unlisted one is idle), each target's stack from top to bottom (an
unlisted one is empty), when each group's hold-off ends, and the delivery of the stack fault: whether its message is still owed to its vector,
and the pin it drives (R535). -/
structure IntSt where
  src : SMap Src := ⟨[]⟩
  prioStacks : SMap (List StkEntry) := ⟨[]⟩
  holdEnd : SMap Nat := ⟨[]⟩
  faultOwed : Bool := false
  faultPin : Option Nat := none
  deriving DecidableEq, Repr

/-! ### Statistics (R550 to R554) -/

/-- The statistics window: counters (an unlisted one is 0), OVF bits, and each agent's read latch and held low half. -/
structure CntSt where
  val : SMap Nat := ⟨[]⟩
  ovf : SMap Bool := ⟨[]⟩
  latch : SMap (Nat × Nat) := ⟨[]⟩
  half : SMap (Nat × Nat) := ⟨[]⟩
  deriving DecidableEq, Repr

/-! ### The lifetime ledger (R560 to R568) -/

/-- The histograms and counts of one hour (R562, kinds 1 and 2). -/
structure Hour where
  hour : Nat := 0
  secs : Nat := 0
  temp : List Nat := List.replicate 16 0
  vreq : List Nat := List.replicate 8 0
  margin : List Nat := List.replicate 8 0
  errs : List Nat := List.replicate 4 0
  events : List Nat := List.replicate 6 0
  tmax : Option Int := none
  tmin : Option Int := none
  deferred : Nat := 0
  deriving DecidableEq, Repr

/-- A ledger record on its way to the flash (R561): its kind, the hour it records, its payload bytes from offset 0x20, and whether it has
been deferred (R564). -/
structure LdgRec where
  kind : Nat
  hour : Nat
  payload : List Byte
  held : Bool
  deriving DecidableEq, Repr

/-- The writer's WSTATE (R571). -/
inductive WState where
  | idle | writing | deferred | stopped
  deriving DecidableEq, Repr

/-- The ledger: the open hour, the queue of 16 (oldest first), the last instant each EVENT code was recorded, whether the BOOT record was
queued since reset, the writer's state, its place in the partition with the SEQ and POWER_CYCLE of the last record written, the failures in a
row, when HOLDUP_OK last rose, the record being written, and the SMBus fetch of R568: what was asked, and the record once fetched. -/
structure LdgSt where
  open_ : Hour := {}
  queue : List LdgRec := []
  eventAt : SMap Nat := ⟨[]⟩
  bootDone : Bool := false
  wstate : WState := .idle
  nextSlot : Nat := 0
  lastSeq : Nat := 0
  powerCycle : Nat := 0
  fails : Nat := 0
  holdupAt : Nat := 0
  inFlight : Option LdgRec := none
  smbSel : Option (Nat × Nat) := none
  smbRec : Option (List Byte) := none
  deriving DecidableEq, Repr

/-! ### Frames and copies (R37 to R40, R86 to R91, R107, R192, R228) -/

/-- Where a frame entered the walk (R38, R40, R377). -/
inductive Source where
  | front | twin | host (f : Nat) | mate
  deriving DecidableEq, Repr

/-- How far a frame is on its walk (R37): a twin copy on the crossbar, received and waiting for the parser, waiting for dispatch, at its routine,
through with steps 2 and 3 and waiting for its turn at step 5 (R115), stored and waiting at step 6, or admitted (its copies go on). -/
inductive Stage where
  | crossing | received | parsed | running | done | retired | admitted
  deriving DecidableEq, Repr

/-- The KIND of a verdict (R192) with the destination of the last DEST field staged. -/
inductive VKind where
  | none | queue (q : Nat) | hamper (h : Nat) | ring (n : Nat)
  deriving DecidableEq, Repr

/-- A verdict (R164, R192). -/
structure Verdict where
  kind : VKind := .none
  tc : Nat := 0
  policer : Option Nat := none
  mirror : Option Nat := none
  stream : Option Nat := none
  ctDis : Bool := false
  deriving DecidableEq, Repr

/-- One staged header edit (R176). -/
inductive Edit where
  | write (o : Nat) (b : List Byte)
  | insert (o : Nat) (b : List Byte)
  | delete (o n : Nat)
  deriving DecidableEq, Repr

/-- A policer's colour (R296). -/
inductive Colour where
  | green | yellow | red
  deriving DecidableEq, Repr

/-- One frame: its bytes as received so far (the FCS among them), where its cord's head billet is, and what each step of the
walk has found. `deferred` holds the
length checks R630 leaves to the tail, `lateAct` the action of one that failed before admission (1 a copy to MAL_RING, 3 one to
the mirror session), with its reason, `rtag` the R-TAG step 1 took out and its offset, `ring` the TX slot a
host frame came from with its ONE_STEP and TS_REQ, `why` the REASON and CODE its ring copies carry (R503), and `edit` the edit billet
its engine took (R229) until it is linked. -/
structure Frame where
  port : Nat
  src : Source
  region : Nat
  bytes : List Byte
  complete : Bool
  bad : Bool
  tc : Nat
  stamp : Stamp
  handle : Option Nat
  seq : Option Nat
  prec : Nat
  stage : Stage
  verdict : Verdict
  edits : List Edit
  fixups : Nat
  head : Option Nat
  deferred : List (Nat × Nat)
  lateAct : Option (Nat × Nat)
  rtag : Option (Nat × List Byte)
  colour : Colour
  metered : Option (Nat × Nat × Nat)
  ring : Option (Nat × Nat)
  oneStep : Bool
  tsReq : Bool
  why : Nat × Nat
  edit : Option Nat
  deriving DecidableEq, Repr

/-- One copy of a cord (R256, R266): its frame, the slice generation it carries (R479), when it was admitted (S), how many billets it counts in its queue's depth, whether it may leave cut-through, its mirror session,
whether R274 marked it, the recovery entry that delivered it at the head (R380), and whether it is the further copy of R630,
which is delivered although its frame is bad. -/
structure Copy where
  frame : Nat
  gen : Nat
  at_ : Nat
  billets : Nat
  cut : Bool
  mirror : Option Nat
  marked : Bool
  recov : Option Nat
  late : Bool
  deriving DecidableEq, Repr

/-! ### The billet buffer (R225 to R249) -/

/-- A link entry without its ECC, which the SH-6480 computes (R227); an unlisted one is free. -/
structure Link where
  alloc : Bool := false
  head : Bool := false
  last : Bool := false
  owner : Nat := 0xFF
  account : Nat := 0xFF
  next : Nat := 0
  deriving DecidableEq, Repr

/-- A cord head word without its ECC (R228). `dead` marks one whose multi-bit error makes every INC and DEC a PARITY
refusal (R249). -/
structure HeadWord where
  refcnt : Nat := 0
  complete : Bool := false
  bad : Bool := false
  edited : Bool := false
  billets : Nat := 0
  length : Nat := 0
  tail : Nat := 0
  dead : Bool := false
  deriving DecidableEq, Repr

/-- A run of consecutive local billet indices: its first and its length. -/
abbrev Run := Nat × Nat

/-- One region's pool: the free ring and the four caches as runs in their order (R235), the retired billets, the billets to
retire when freed (R230), the other regions' shared use as last exchanged (R239), the slice generation (R479), the round
number, whether a cord charge was granted in it, when the region was fenced and restarted (R476, R480), and the sets a fence
sweep still has to free (R484). -/
structure Pool where
  ring : List Run
  caches : List (List Run)
  retired : List Nat
  retireOnFree : List Nat
  lastShared : Nat
  gen : Nat
  round : Nat
  chargedThisRound : Bool
  fenced : Bool
  restartedAt : Option Nat
  sweeps : List (Nat × List Nat)
  deriving DecidableEq, Repr

/-- The buffer: link entries and head words by billet number, the four pools. -/
structure BufSt where
  link : SMap Link
  head : SMap HeadWord
  pools : List Pool
  deriving DecidableEq, Repr

/-! ### Queues (R253 to R275, R342 to R351) -/

/-- What a queue does while its port is down (R273): flush, unless it holds, its hold expired, or it spills. -/
inductive DState where
  | follow | holding | expired | spilled
  deriving DecidableEq, Repr

/-- A record of a queue's turf chain (R344): its 16 B header as a number, the stored frame bytes, the byte of the chain at which it starts, and, beside
the chain, the TX slot a transmit completion is owed to and whether the frame is to be stamped (R415), which the header has no bits for. -/
structure PeatRec where
  head : Nat
  bytes : List Byte
  pos : Nat
  slot : Option (Nat × Nat)
  oneStep : Bool
  deriving DecidableEq, Repr

/-- The working state of a queue: the FRONT part (its on-chip descriptors while not spilling), the PEAT and BACK parts of a
spilling queue (R342) with the turves of its chain, how many turves went before them and the next byte to write, counted as
`PeatRec.pos`, the down state, the cutoff of R351, and the window sampling accumulators (R302). -/
structure Queue where
  front : List Copy := []
  peat : List PeatRec := []
  back : List Copy := []
  turves : List Nat := []
  base : Nat := 0
  wofs : Nat := 0
  spill : Bool := false
  dstate : DState := .follow
  holdEnd : Nat := 0
  cutoff : Option Nat := none
  dsum : Nat := 0
  lsum : Nat := 0
  dmin : Nat := 0
  dmax : Nat := 0
  lmin : Nat := 0
  lmax : Nat := 0
  deriving DecidableEq, Repr

/-! ### Trees and forwarding tables (R117 to R155) -/

/-- A decision-tree node's 120 data bits, and whether its stored word holds an uncorrectable error (R118, R121). -/
structure Node where
  bits : Nat
  bad : Bool := false
  deriving DecidableEq, Repr

/-- An entry group of the exact-match table or the overflow store (R131, R132), held at the location of its SHORT or RESULT
slot: its key, how many slots it takes, and its result. -/
structure Group where
  key : Nat
  width : Nat
  action : Nat
  ts : Nat
  static : Bool
  mate : Bool
  deriving DecidableEq, Repr

/-- A valid entry of the masked associative array (R143). -/
structure Prefix where
  plen : Nat
  fam : Nat
  vrf : Nat
  action : Nat
  key : Nat
  deriving DecidableEq, Repr

/-- A learning event or a mirror record waiting for the insert sequencer (R151, R155): its port, its KIND of R154, NOW when it was
raised, whether it is to be notified, and whether it came from the mate. -/
structure SeqReq where
  insert : Bool
  key : Nat
  width : Nat
  action : Nat
  static : Bool
  mate : Bool
  learnPort : Option Nat
  kind : Nat
  tick : Nat
  note : Bool
  fromMate : Bool
  deriving DecidableEq, Repr

/-- The ager's read of one group, waiting for its compare-and-remove (R149). -/
structure AgerRead where
  loc : Nat
  ts : Nat
  deriving DecidableEq, Repr

/-- The chip-wide tables: nodes (an unlisted one is a hole), exact-match and overflow groups by location, slots an uncorrectable
error keeps out of use, prefix entries and those with such an error, the ager's place and its reads not yet compared, the
sequencer's queue, each port's learning tokens (in 1/1,024 of a token, with what has run in towards the next; an unlisted bucket
is full) with the instant they were last brought up to date, the keys hit since the last touch message, and the learning records
waiting for their rings. -/
structure TabSt where
  nodes : SMap Node := ⟨[]⟩
  groups : SMap Group := ⟨[]⟩
  badSlots : List Nat := []
  lpm : SMap Prefix := ⟨[]⟩
  lpmBad : List Nat := []
  agerPlace : Nat := 0
  agerReads : List AgerRead := []
  seqQ : List SeqReq := []
  tokens : SMap (Nat × Nat × Nat) := ⟨[]⟩
  touched : List Nat := []
  notices : List (Nat × List Byte) := []
  deriving DecidableEq, Repr

/-! ### The Kindling engines (R159 to R222) -/

/-- A tag's state (R168). -/
inductive TagState where
  | free | busy | done | fault
  deriving DecidableEq, Repr

/-- What a lookup asks (R138, R144, R119), with the key register copied at issue (R167). -/
inductive LookKind where
  | em (width mode : Nat)
  | lpm
  | tree (t : Nat)
  deriving DecidableEq, Repr

/-- A tag (R168): its state, the lookup outstanding, and the result that came. -/
structure Tag where
  st : TagState := .free
  kind : LookKind := .lpm
  key : Nat := 0
  result : Nat := 0
  loc : Nat := 0
  hit : Bool := false
  info : Nat := 0
  deriving DecidableEq, Repr

/-- A lookup whose tag was released before it came (R170): what it asks, its key, and the port whose learning it raises. -/
structure Orphan where
  kind : LookKind
  key : Nat
  port : Option Nat
  deriving DecidableEq, Repr

/-- A scratch write waiting for retirement (R178). -/
inductive ScrOp where
  | store (k : Nat) (v : W64)
  | add (k : Nat) (v : W64)
  deriving DecidableEq, Repr

/-- A saved trap frame (R210). -/
structure TrapFrame where
  cause : Nat
  info : Nat
  tag : Nat
  trapPc : Nat
  resumePc : Nat
  flags : Nat
  arg : Nat
  u : List W64
  stack : List Nat
  deriving DecidableEq, Repr

/-- One context (R159, R164): `entry` keeps the entry micro-PC and u0 to u3 for a re-run (R175); `stack` is from the top;
`inTrap` while a trap routine runs, the resume entry then being the bottom of the stack; `trapSlots` the trap-entry slots among
its `slots` (R217). An unlisted context is free. -/
structure Ctx where
  busy : Bool := false
  frame : Option Nat := none
  entryPc : Nat := 0
  entryU : List W64 := []
  pc : Nat := 0
  u : List W64 := List.replicate 16 0
  z : Bool := false
  n : Bool := false
  c : Bool := false
  v : Bool := false
  h : Bool := false
  tw : Bool := false
  ps : Bool := false
  mal : Bool := false
  key : Nat := 0
  tags : List Tag := List.replicate 8 {}
  edits : List Edit := []
  fixups : Nat := 0
  verdict : Verdict := {}
  incs : List (Nat × Nat) := []
  scr : List ScrOp := []
  stack : List Nat := []
  inTrap : Bool := false
  trap : Option TrapFrame := none
  halted : Bool := false
  slots : Nat := 0
  trapSlots : Nat := 0
  checks : Nat := 0
  deriving DecidableEq, Repr

/-- An overflow waiting for its capture (R220); `place` is how many micro-instructions the engine had retired with the one whose
event caused it. -/
structure OvfCap where
  engine : Nat
  counter : Nat
  trap : Bool
  place : Nat
  deriving DecidableEq, Repr

/-- The engine blocks: the control-store words by region × 4,608 + word (an unlisted one is 0), the quarters whose stored parity is
inverted, each region's word buffer (index, quarters 0 to 2), the contexts by global engine × 8 + context, the lookups in flight
whose tag was released (by engine), scratch words, each agent's scratch latch and held half, fixed and programmable
counters, snapshots' source, sample records, due events per region × 8 + trigger (firings, device time), and the
round-robin place of the dispatcher; by engine, the context its issue unit served last (R160), how many micro-instructions it has
retired, and the last of them (context, micro-PC, whether it ended its routine); by engine × 8 + counter, how many had
retired with the one whose event took the counter past 0xFFFF_FFFF (R220). -/
structure EngSt where
  store : SMap Nat := ⟨[]⟩
  badPar : SMap Nat := ⟨[]⟩
  wbuf : SMap (Nat × Nat × Nat × Nat) := ⟨[]⟩
  ctx : SMap Ctx := ⟨[]⟩
  orphans : SMap (List Orphan) := ⟨[]⟩
  scratch : SMap Nat := ⟨[]⟩
  scrLatch : SMap (Nat × Nat) := ⟨[]⟩
  scrHalf : SMap (Nat × Nat) := ⟨[]⟩
  fixed : SMap Nat := ⟨[]⟩
  pcnt : SMap Nat := ⟨[]⟩
  captures : List OvfCap := []
  samples : SMap (List Nat) := ⟨[]⟩
  due : SMap (Nat × Nat) := ⟨[]⟩
  rrPort : SMap Nat := ⟨[]⟩
  lastTime : SMap Nat := ⟨[]⟩
  turn : SMap Nat := ⟨[]⟩
  retired : SMap Nat := ⟨[]⟩
  lastRet : SMap (Nat × Nat × Bool) := ⟨[]⟩
  passed : SMap Nat := ⟨[]⟩
  deriving DecidableEq, Repr

/-! ### Ports, scheduling and gates (R80 to R101, R281 to R331) -/

/-- A transmission (R290, R320 to R323): the queue and class group it came from, the copy, its frame bytes without the FCS as
the egress port sends them (none while its length is unknown), the bytes earlier fragments carried, the fragments so far,
when the present fragment started on the local counter and in device time, the point the fragment is to end at once
preemption was decided (frame bytes of this fragment), and whether a slice restart cut it short (R479); `ptp` lists the bytes the
edits of R414 and R415 put over the frame. -/
structure Tx where
  queue : Option Nat
  cls : Nat
  copy : Copy
  bytes : Option (List Byte)
  ptp : List (Nat × List Byte)
  sent : Nat
  frags : Nat
  startL : Nat
  startT : Nat
  cutAt : Option Nat
  stomp : Bool
  deriving DecidableEq, Repr

/-- One requester of an arbiter's decision: its class, its number, and what it stands for. -/
structure Want where
  cls : Nat
  req : Nat
  queue : Nat
  deriving DecidableEq, Repr

/-- A two-level arbiter (R285, R286): the round-robin pointer of each class, the order decided for the next round, the
requester the present round's grant went to, and how many rounds each requester kind has waited. -/
structure Arb where
  ptr : List Nat := []
  decided : List Want := []
  granted : Option Want := none
  waits : SMap Nat := ⟨[]⟩
  deriving DecidableEq, Repr

/-- What a port cell does with the frame in reception: holds it until its tail, as a frame under 64 B (R87) or one of a keep port (R541); has let it go
on; has dropped it as a MAC control frame (R75); or has lost its reassembly (R95). -/
inductive RxKind where
  | hold | walked | control | lost
  deriving DecidableEq, Repr

/-- A frame in reception: its bytes as received so far, the stamp of its first one, whether it comes in fragments, and whether it found the ingress
FIFO full (R198). -/
structure Rx where
  bytes : List Byte
  stamp : Stamp
  kind : RxKind
  frags : Bool
  noRoom : Bool
  deriving DecidableEq, Repr

/-- A port's working state: the frame in reception, when its link filter started, a PORT_DISABLE in progress, the verify mPackets sent, whether the
raw link failed during a fence (R101), the transmission on the wire, the preempted remainder (R322), the port arbiter and
the eight class-group arbiters. Indices 48 and 49 are management ports 0 and 1. -/
structure PortSt where
  rx : Option Rx := none
  filterAt : Nat := 0
  disabling : Bool := false
  verSent : Nat := 0
  fencedRawFail : Bool := false
  cur : Option Tx := none
  held : Option Tx := none
  arb : Arb := {}
  groups : List Arb := List.replicate 8 {}
  deriving DecidableEq, Repr

/-- A port's gate timeline (R310 to R319, R326): the entries of banks 0 and 1 (an unlisted one is 0), the start time of the
operating list, the start of the cycle in progress of a list that a trigger aligns with the cycles it has begun (R318), the takeover
committed (its time; no time while it waits for its trigger), and the commit point. -/
structure GateSt where
  bank0 : SMap Nat := ⟨[]⟩
  bank1 : SMap Nat := ⟨[]⟩
  start : Nat := 0
  cyc : Nat := 0
  fires : Int := 0
  takeover : Option (Option Nat) := none
  goAt : Nat := 0
  deriving DecidableEq, Repr

/-- A shaper (R289 to R294): its fields, its port as a cell of its region, and its credit in units of 1/1,638,400,000 bit with
the device time it stands for. -/
structure Shaper where
  resetFull : Bool := false
  slope : Nat := 400000
  hi : Nat := 77984
  lo : Nat := 77984
  en : Bool := false
  cell : Nat := 0
  credit : Int := 0
  at_ : Nat := 0
  deriving DecidableEq, Repr

/-- A policer (R296): its fields, its buckets in units of 1/1,024 B, each with what has run in towards its next unit (in 1/512,000,000 of it, so
that a rate fills a whole number per unit of the local counter), and the reading of that counter they stand for. -/
structure Policer where
  mode : Nat := 0
  cir : Nat := 0
  pir : Nat := 0
  cbs : Nat := 9728
  pbs : Nat := 9728
  tc : Nat := 0
  rc : Nat := 0
  tp : Nat := 0
  rp : Nat := 0
  at_ : Nat := 0
  deriving DecidableEq, Repr

/-- What a stream filter did with a frame (R299): its colour, red when dropped. -/
structure Outcome where
  seq : Nat
  colour : Colour
  deriving DecidableEq, Repr

/-- A stream filter (R299, R300), with its latest 64 outcomes, newest first. -/
structure Filter where
  en : Bool := false
  blockEn : Bool := false
  blocked : Bool := false
  meterEn : Bool := false
  meter : Nat := 0
  maxSdu : Nat := 9728
  hist : List Outcome := []
  deriving DecidableEq, Repr

/-- A hamper (R265): its header, and its 64 member queues (an unlisted one is 0). -/
structure Hamper where
  knockout : Bool := false
  count : Nat := 0
  members : List Nat := []
  deriving DecidableEq, Repr

/-- What a recovery entry counts and times (R381, R387): the device time its hold started, and the copies passed and discarded in the
present latent period. -/
structure RecSt where
  holdAt : Option Nat := none
  passed : Nat := 0
  discarded : Nat := 0
  deriving DecidableEq, Repr

/-! ### The Peat Store (R337 to R370) -/

/-- A turf table entry (R341); an unlisted one is free. -/
structure Turf where
  alloc : Bool := false
  retire : Bool := false
  owner : Nat := 0xFF
  queue : Nat := 0
  firstRec : Nat := 0xFFF
  next : Nat := 0
  deriving DecidableEq, Repr

/-- A bank's activate counts (R361): row and count, at most 32. -/
abbrev ActTable := List (Nat × Nat)

/-- A capture copy waiting for its record (R272): the copy, its direction, session and port, and TIME. -/
structure CapCopy where
  copy : Copy
  egress : Bool
  session : Nat
  port : Nat
  time : Nat
  deriving DecidableEq, Repr

/-- The Peat controller: the turf table, the free ring and the on-chip cache as runs, the turves never to be allocated again
(R355, R364), the window's bytes (an unlisted one is 0, as R340 leaves it) with its 64 B lines that read poisoned, a change of the
window under way, the activate tables and the open row of each bank (by channel × 32 + bank), the delay entries and their shadows
with the agents that wrote them (by channel × 64 + entry; an unlisted one is 0), the next bank to refresh of each channel, the
channels refreshed since the last commit point (a bit each), the record each region's drain has started and still asks billets for, as its queue
and place in the chain (R349), the patrol's place, the capture copies that wait for their records, and the values written to the devices' mode registers (R363; by channel × 256 +
register). -/
structure PeatSt where
  turf : SMap Turf := ⟨[]⟩
  ring : List Run := []
  cache : List Run := []
  lost : List Nat := []
  mem : SMap Byte := ⟨[]⟩
  poison : List Nat := []
  zeroing : Bool := false
  acts : SMap ActTable := ⟨[]⟩
  openRow : SMap Nat := ⟨[]⟩
  delay : SMap Nat := ⟨[]⟩
  delayShadow : SMap (Nat × Nat) := ⟨[]⟩
  refBank : SMap Nat := ⟨[]⟩
  refreshed : Nat := 0
  started : SMap (Nat × Nat) := ⟨[]⟩
  patrol : Nat := 0
  captures : List CapCopy := []
  modeRegs : SMap Nat := ⟨[]⟩
  deriving DecidableEq, Repr

/-! ### Time (R394 to R442) -/

/-- A two-step Sync waiting for its Follow_Up (R404): its sequenceId, its receive instant on the local counter and in T_X, and its
correctionField. -/
structure SyncWait where
  seqId : Nat
  at_ : Nat
  t2 : Nat
  corr : Int
  deriving DecidableEq, Repr

/-- A domain (R397, R405): B in units of 1/(65,536 · 10¹²) of 1/65,536 ns with the local counter it stands for, ρ and the servo's
integral in 1/65,536 ppt, the run of R405, the instant of the last write of R407, the Syncs that wait for their Follow_Up, and ρ
accumulated over local time up to an instant, for the model's mean. -/
structure Dom where
  baseN : Int := 0
  baseL : Nat := 0
  rho : Int := 0
  integ : Int := 0
  run : Nat := 0
  writtenAt : Nat := 0
  wait : List SyncWait := []
  rhoAcc : Int := 0
  rhoAt : Nat := 0
  deriving DecidableEq, Repr

/-- The oscillator model (R420, R422) in the units of its staging registers, its reference, and its learning steps. -/
structure Model where
  c0 : Int := 0
  c1 : Int := 0
  c2 : Int := 0
  a : Int := 0
  theta0 : Int := 0
  t0 : Nat := 0
  steps : Nat := 0
  refSet : Bool := false
  deriving DecidableEq, Repr

/-- A capture record (R436): its edge and S, in 1/65,536 ns. -/
structure TinRec where
  rise : Bool
  time : Nat
  deriving DecidableEq, Repr

/-- A schedule on S (R434 to R439): the index of its next instant, the last instant it fired, and whether a once-mode
schedule is done. -/
structure Sched where
  next : Nat := 0
  last : Option Nat := none
  done : Bool := false
  deriving DecidableEq, Repr

/-- The time unit: the local counter in 1/65,536 ns, the domains, P with the local counter it stands for (in the units of
`Dom.baseN`), banked S in the same units with its rate, when time was banked, the selected domain's rate then, whether a domain was LOCKED since
reset, whether the time clock runs from the SerDes reference, the model and the start of its present second, the last accepted PPS_IN
edge, PPS_OUT and whether its hold of R427 stands, the timed outputs' levels before POL, the capture FIFOs, and the schedules of timed outputs and
triggers. -/
structure TimeSt where
  local_ : Nat := 0
  domA : Dom := {}
  domB : Dom := {}
  pN : Int := 0
  pL : Nat := 0
  bankN : Int := 0
  bankL : Nat := 0
  bankRho : Int := 0
  bankFrom : Nat := 0
  heldRho : Int := 0
  everLocked : Bool := false
  onSerdes : Bool := false
  model : Model := {}
  secAt : Nat := 0
  ppsInAt : Option Nat := none
  ppsOut : Bool := false
  ppsHeld : Bool := false
  tout : SMap Bool := ⟨[]⟩
  tin : SMap (List TinRec) := ⟨[]⟩
  toutS : SMap Sched := ⟨[]⟩
  trigS : SMap Sched := ⟨[]⟩
  deriving DecidableEq, Repr

/-! ### The mate interface (R443 to R469) -/

/-- A heartbeat path (R456, R457): whether one came since BLOCK_RUN, its last valid SEQ, and the valid heartbeats in a row since the path
was lost. -/
structure HbPath where
  seen : Bool := false
  seq : Option Nat := none
  run : Nat := 0
  deriving DecidableEq, Repr

/-- How far a claim is (R453): none under way, waiting to assert, in the 200 ns guard, or waiting out a rival's claim. -/
inductive ClaimStage where
  | idle | waiting | guard | yield
  deriving DecidableEq, Repr

/-- The pair lock as held (R460): the MATE_ID of the owner's device, its agent, and when the lease ends. -/
structure PairLock where
  dev : Nat
  owner : Nat
  leaseEnd : Nat
  deriving DecidableEq, Repr

/-- The mate interface's working state: the next sequence number of each kind and of heartbeats; the two heartbeat paths, A the mate link and B the HB
pair; the CLAIM of the last valid heartbeat and the local time it came (R453, R455), the mismatches of R455 in a row; the claim under way;
whether a takeover still waits for it, whether a takeover has happened since the peer was last PRESENT, whether FAIL is being sent (R458),
and whether a role conflict keeps the functions off (R466); the peer's last snapshot of each mirrored policer as (Tc, Tp); the pair lock, the request that waits for the primary's answer as (agent, word written); the copy on the mate link's
transmitter with its queue and payload; and the table slot the walk of a resynchronisation has come to (R459). -/
structure MateSt where
  seq : SMap Nat := ⟨[]⟩
  hbSeq : Nat := 0
  pathA : HbPath := {}
  pathB : HbPath := {}
  hb : Option (Bool × Nat) := none
  mismatch : Nat := 0
  claim : ClaimStage := .idle
  taking : Bool := false
  taken : Bool := false
  failing : Bool := false
  barred : Bool := false
  peerPol : SMap (Nat × Nat) := ⟨[]⟩
  plock : Option PairLock := none
  plReq : Option (Nat × Nat) := none
  cur : Option (Nat × Copy × List Byte) := none
  walk : Option Nat := none
  deriving DecidableEq, Repr

/-! ### The Ember domain (R538 to R548) -/

/-- A wake cause of R538, R539 and R545: a command, an event on the watched source of entry `k`, or restored power. -/
inductive Wake where
  | command | watch (k : Nat) | power
  deriving DecidableEq, Repr

/-- The Ember domain's working state: POWER_FAIL_N as filtered (true while asserted), when the present entry or exit began, the keep ports of the
present smoulder state, whether the other blocks are halted and what state each had before, VREQ_MV before entry, and the causes that
wait: a wake latched during ENTERING, one deferred by POWER_FAIL_N (R539), and an entry latched during EXITING (true for the pin). -/
structure EmbSt where
  pfLevel : Bool := false
  since : Nat := 0
  keeps : List Nat := []
  asleep : Bool := false
  before : SMap BlkState := ⟨[]⟩
  vBefore : Nat := 0
  avsHeld : Bool := false
  latched : Option Wake := none
  deferred : Option Wake := none
  entry : Option Bool := none
  deriving DecidableEq, Repr

/-! ### The supply and sensor block (R30 to R34) -/

/-- The adaptive supply: the lowest margin reported since the last evaluation, m_min of the last evaluation (R31), vreq of R31 in mV once it is known,
the exponent of the regulator's linear mode once VOUT_MODE was read (R32), the attempts of the present PMBus transaction that were not acknowledged, whether one
has failed since AVS_EN last rose (R33), and whether the highest die temperature is at or above 105 °C (R612). -/
structure SnsSt where
  lowest : Option Int := none
  mMin : Option Int := none
  vreq : Option Nat := none
  exponent : Option Nat := none
  nacks : Nat := 0
  failed : Bool := false
  hot : Bool := false
  deriving DecidableEq, Repr

/-! ### The host interface (R488 to R522) -/

/-- A copy on its way to a host ring (R503): the ring, the copy, and the REASON and CODE its descriptor line will carry. -/
structure RingCopy where
  ring : Nat
  copy : Copy
  reason : Nat
  code : Nat
  deriving DecidableEq, Repr

/-- The outcome of a TX slot that waits for its completion (R505): the ring and device index, STATUS and REASON, and the
transmission's timestamp record where TS_REQ asked for one. -/
structure TxDone where
  ring : Nat
  idx : Nat
  status : Nat
  reason : Nat
  rec_ : Option (List Byte)
  deriving DecidableEq, Repr

/-- A copy that took a slot of an RX ring and is not yet written (R503): the ring, the device index, and what `RingCopy` carries. -/
structure RxSlot where
  ring : Nat
  idx : Nat
  copy : Copy
  reason : Nat
  code : Nat
  deriving DecidableEq, Repr

/-- A descriptor line held by CXL.cache (R509): its ring and index, and what was written into it, once it is completed, as (host address,
bytes). -/
structure HeldLine where
  ring : Nat
  idx : Nat
  data : List (Nat × List Byte)
  deriving DecidableEq, Repr

/-- An entry of the MSI-X table in the standard PCIe format (R518): message address and data, and its mask bit. PRESUMED (log entry 18). -/
structure MsixEntry where
  addrLo : Nat := 0
  addrHi : Nat := 0
  data : Nat := 0
  mask : Bool := true
  deriving DecidableEq, Repr

/-- The host interface: the copies waiting for an RX ring, those that took a slot, and the TX outcomes not yet written, oldest first; the descriptor
lines held; the functions present (a bit each), their MSI-X Enable, function mask and Bus Master Enable, and the MSI-X table; the DVSEC
image registers of R594; the size of the committed HDM range (R512); SEQ of the time snapshots and each function's BAR2 latch (R515, R517); when the
transmit buffer of each port the host interface serves itself will have drained (R511, R541); and the place of the TX round robin. -/
structure HifSt where
  waiting : List RingCopy := []
  slots : List RxSlot := []
  dones : List TxDone := []
  lines : List HeldLine := []
  present : Nat := 1
  msixEn : SMap Bool := ⟨[]⟩
  fnMask : SMap Bool := ⟨[]⟩
  busMaster : SMap Bool := ⟨[]⟩
  msix : SMap MsixEntry := ⟨[]⟩
  imgAddr : Nat := 0
  imgLen : Nat := 0
  hdmSize : Nat := 0
  hdmErr : Bool := false
  snapSeq : Nat := 0
  bar2 : SMap (List Byte) := ⟨[]⟩
  txFree : SMap Nat := ⟨[]⟩
  txNext : Nat := 0
  deriving DecidableEq, Repr


/-! ### Boot, flash and test access (R579 to R602) -/

/-- An operation the flash performs (R564, R600): an erase of a sector or a program of a page, its address and data, and whether it is the
ledger's. -/
structure FlashOp where
  erase : Bool
  addr : Nat
  data : List Byte
  ldg : Bool
  deriving DecidableEq, Repr

/-- Boot and test access: what the board shows at a reset release; the flash's bytes (an unlisted one is erased, 0xFF), its size as SFDP
reports it, and the operation it performs; the outcome of a flash command's operation until the command completes; the OTP words (an unlisted
one is 0) and those read at the last reset; whether PORST_N holds the part in reset; the public key of the running image (R598); the warm reset
that waits for the flash, with its boot mode (R583); the TAP's current instruction, and the scopes unlocked (bit 0 DEBUG, bit 1 SCAN); and the
slots that this boot does not try again (R591). -/
structure BootSt where
  board : Board := {}
  flash : SMap Byte := ⟨[]⟩
  flashSize : Nat := 0
  flashOp : Option FlashOp := none
  opCode : Option Nat := none
  otp : SMap Nat := ⟨[]⟩
  otpRead : SMap Nat := ⟨[]⟩
  inReset : Bool := true
  pubKey : List Byte := []
  warm : Option Nat := none
  tap : Tap := .idcode
  scopes : Nat := 0
  skip : List Nat := []
  deriving DecidableEq, Repr

/-! ### The whole part -/

/-- What leaves the part, in the order in which it leaves. DESIGN CHOICE (log entries 119 and 121). -/
inductive Out where
  /-- A frame or fragment on the wire of a port: its frame bytes, whether it is the last fragment, and whether its FCS is good. -/
  | wire (port : Nat) (bytes : List Byte) (final fcsOk : Bool)
  /-- A verify mPacket, and a response to one (R94). -/
  | verify (port : Nat)
  | verifyResponse (port : Nat)
  /-- A port starts, or ends, the transmission of remote fault (R80). -/
  | remoteFault (port : Nat) (on : Bool)
  /-- The bytes of a mate-link frame (R447). -/
  | mate (bytes : List Byte)
  /-- A heartbeat word on HB_TX (R456). -/
  | heartbeat (word : Nat)
  /-- What the device returns to a read of its window (R512, R514): an offset of the committed HDM range, the bytes, and whether they come poisoned. -/
  | cxlData (off : Nat) (bytes : List Byte) (poison : Bool)
  /-- CXL.cache RdOwnNoData requests for `lines` lines of 64 B from an offset of the range, before the device writes them itself (R514). -/
  | cxlOwn (off lines : Nat)
  /-- A device write to host memory: its address and bytes (R503, R505, R506). -/
  | dma (addr : Nat) (bytes : List Byte)
  /-- An MSI-X message of a vector (R529). -/
  | msix (vec : Nat)
  /-- The word a read of INT_CLAIM_t returns (R530). -/
  | claim (t word : Nat)
  /-- What function `f` reads at an offset of its BAR2 window (R517). -/
  | bar2 (f off : Nat) (bytes : List Byte)
  /-- A read of BAR0 that completes with Completer Abort (R499). -/
  | abort
  /-- The word a read returns, to the agent that read: of a read that changes the state. -/
  | read (agent word : Nat)
  /-- What the SMBus slave returns (R568, R602, R612). -/
  | smb (bytes : List Byte)
  /-- A PMBus VOUT_COMMAND: the request in mV (R31), and the data word in the regulator's linear mode (R32). -/
  | vout (mv word : Nat)
  deriving DecidableEq, Repr

/-- Why a step stops for good. The spec gives every step of the table an effect, so no step of this model faults. DESIGN CHOICE (log entry 117). -/
inductive Fault where
  deriving DecidableEq, Repr

/-- Why a command has no meaning here. -/
inductive Refusal where
  /-- Raised by a dispatch arm whose meaning is not written: safe, the machine only stops. -/
  | notModelled (mnemonic : String)
  deriving DecidableEq, Repr

/-- The state of the part. `mirrorCount` is how many eligible frames each mirror session has met, `wred` how many values each QSC
block has drawn (R263), and `qscWin` each QSC block's samples in the open window and its WIN_SEQ (R302). -/
structure State where
  reg : RegFile := {}
  pages : SMap Page := ⟨[]⟩
  int : IntSt := {}
  cnt : CntSt := {}
  ldg : LdgSt := {}
  time : TimeSt := {}
  frames : SMap Frame := ⟨[]⟩
  nextFrame : Nat := 0
  buf : BufSt
  queues : SMap Queue := ⟨[]⟩
  ports : SMap PortSt := ⟨[]⟩
  gates : SMap GateSt := ⟨[]⟩
  shapers : SMap Shaper := ⟨[]⟩
  policers : SMap Policer := ⟨[]⟩
  filters : SMap Filter := ⟨[]⟩
  hampers : SMap Hamper := ⟨[]⟩
  mirrorCount : SMap Nat := ⟨[]⟩
  wred : SMap Nat := ⟨[]⟩
  qscWin : SMap (Nat × Nat) := ⟨[]⟩
  recov : SMap RecSt := ⟨[]⟩
  arbs : SMap Arb := ⟨[]⟩
  peat : PeatSt := {}
  tab : TabSt := {}
  eng : EngSt := {}
  emb : EmbSt := {}
  sns : SnsSt := {}
  mate : MateSt := {}
  hif : HifSt := {}
  boot : BootSt := {}
  out : List Out := []
  free : Nat := 0
  pending : List Instr := []
  deriving DecidableEq, Repr

/-- A buffer pool before boot has built it (R252). -/
def Pool.unbuilt : Pool := ⟨[], [[], [], [], []], [], [], 0, 0, 0, false, false, none, []⟩

/-- The part while PORST_N holds it in reset (R73, R582): every page in RESET, every field at its reset value. The fields listed are those
whose reset value depends on their place: DOMAIN_NUM of domain B, VEC_COUNT of function 0, and QSC_SHP_CFG.PORT of regions 1 to 3.
DEDUCED (log entry 4). DESIGN CHOICE (log entry 17). -/
def State.reset : State :=
  { reg := { op := ⟨[(166408, 25), (197376, 256), (1217136, 12), (1741424, 24), (2265712, 36)]⟩ }
    buf := ⟨⟨[]⟩, ⟨[]⟩, [Pool.unbuilt, Pool.unbuilt, Pool.unbuilt, Pool.unbuilt]⟩ }

end Sys2Proof.Machine
end

