-- ==== Sys2Proof/Machine/Ops.lean ====
section
/-! DEFINITION. The shared operations over registers, counters, interrupts, errors and the ledger: every meaning is
written over these. -/
namespace Sys2Proof.Machine

/-- The outcome of a meaning. -/
abbrev Res := Host.Outcome State Fault Refusal

/-! ### Numbers of the architecture (R10, R15, R21, R49) -/

/-- One nanosecond in units of the local counter (R10: 1/65,536 ns). -/
def nsU : Nat := 65536
/-- One microsecond in units of the local counter. -/
def usU : Nat := 65536000
/-- One millisecond in units of the local counter. -/
def msU : Nat := 65536000000
/-- One second in units of the local counter. -/
def secU : Nat := 65536000000000

/-- The result codes of R14. -/
def rDONE : Nat := 0
def rBUSY : Nat := 1
def rRANGE : Nat := 2
def rSTATE : Nat := 3
def rOWNER : Nat := 4
def rEMPTY : Nat := 5
def rAUTH : Nat := 6
def rPARITY : Nat := 7
def rTIMEOUT : Nat := 8
def rLOCKED : Nat := 9

/-- The chip-level pages of R49. -/
def pSNS : Nat := 0x000
def pBOOT : Nat := 0x001
def pLDG : Nat := 0x002
def pINT : Nat := 0x003
def pEMB : Nat := 0x004
def pTIME : Nat := 0x005
def pHIF : Nat := 0x006
def pMATE : Nat := 0x007
def pXBAR : Nat := 0x008
def pSFAB : Nat := 0x009
def pPEAT : Nat := 0x00A
/-- The page of slot `k` of region `r` (R49). -/
def pReg (r k : Nat) : Nat := 0x010 + 0x010 * r + k
def pPORT (r : Nat) : Nat := pReg r 0
def pPRS (r : Nat) : Nat := pReg r 1
def pENG (r : Nat) : Nat := pReg r 2
def pLKP (r : Nat) : Nat := pReg r 3
def pBUF (r : Nat) : Nat := pReg r 4
def pQSC (r : Nat) : Nat := pReg r 5
def pRPL (r : Nat) : Nat := pReg r 6

/-- The region of a region page. -/
def pageRegion (p : Nat) : Nat := (p - 0x010) / 0x010

/-- The block of a register page; none for a reserved page or slot (R49, R51). -/
def pageBlk (p : Nat) : Option Blk :=
  if p < 0x010 then
    ([.sns, .boot, .ldg, .int, .emb, .time, .hif, .mate, .xbar, .sfab, .peat] : List Blk)[p]?
  else if p < 0x050 then
    ([.port, .prs, .eng, .lkp, .buf, .qsc, .rpl] : List Blk)[(p - 0x010) % 0x010]?
  else none

/-- BLK_ID.TYPE of R49. -/
def blkType : Blk → Nat
  | .sns => 0x01 | .boot => 0x02 | .ldg => 0x03 | .int => 0x04 | .emb => 0x05 | .time => 0x06 | .hif => 0x07
  | .mate => 0x08 | .xbar => 0x09 | .sfab => 0x0A | .peat => 0x0B
  | .port => 0x10 | .prs => 0x11 | .eng => 0x12 | .lkp => 0x13 | .buf => 0x14 | .qsc => 0x15 | .rpl => 0x16
  | .queue | .ident | .recov | .ring | .isrc => 0

/-- Every register page. -/
def allPages : List Nat :=
  List.range 11 ++ (List.range 4).flatMap (fun r => (List.range 7).map (pReg r))

/-- The seven pages of a region (R20). -/
def regionPages (r : Nat) : List Nat := (List.range 7).map (pReg r)

/-- The register file's page number of queue entry `q`, identification entry, recovery entry, ring entry and interrupt source:
the windows of R50 hold their fields in the same file, past the 4,096 pages of BAR0. -/
def wQUEUE (q : Nat) : Nat := 0x10000 + q
def wIDENT (h : Nat) : Nat := 0x20000 + h
def wRECOV (k : Nat) : Nat := 0x30000 + k
def wRING (n : Nat) : Nat := 0x40000 + n
def wISRC (n : Nat) : Nat := 0x50000 + n

/-- The region of a front-panel port, a port cell or an engine's region block (R21). -/
def portRegion (p : Nat) : Nat := p / 12
/-- The port cell of a front-panel port. -/
def portCell (p : Nat) : Nat := p % 12

/-! ### Pages -/

/-- A page's header. -/
def State.page (s : State) (p : Nat) : Page := s.pages.get {} p

/-- Change a page's header. -/
def State.updPage (s : State) (p : Nat) (f : Page → Page) : State :=
  { s with pages := s.pages.upd {} p f }

/-- Whether a page is in a common state. -/
def State.inState (s : State) (p : Nat) (b : BlkState) : Bool := (s.page p).state = b

/-! ### Fields -/

/-- The offset of an instance of a field. -/
def Field.at (f : Field) (i j : Nat) : Nat := f.off + f.s1 * i + f.s2 * j

/-- The key of an instance of a field of a page: page, word, lowest bit. -/
def fkey (p : Nat) (f : Field) (i j : Nat) : Nat := (p * 1024 + f.at i j / 4) * 32 + f.lo

/-- The value in force of a field: the bitwise majority of its copies while they disagree (R67). -/
def State.rd (s : State) (p : Nat) (f : Field) (i : Nat := 0) (j : Nat := 0) : Nat :=
  match s.reg.copies.find? (fkey p f i j) with
  | some (a, b, c) => maj3 a b c
  | none => s.reg.op.get f.reset (fkey p f i j)

/-- A one-bit field as a truth value. -/
def State.rdB (s : State) (p : Nat) (f : Field) (i : Nat := 0) (j : Nat := 0) : Bool := s.rd p f i j != 0

/-- A field as two's complement of its own width. -/
def State.rdS (s : State) (p : Nat) (f : Field) (i : Nat := 0) (j : Nat := 0) : Int :=
  toSigned (f.hi - f.lo + 1) (s.rd p f i j)

/-- Write a field's operating value, in all three copies of a T field at once (R54, R61). -/
def State.wr (s : State) (p : Nat) (f : Field) (v : Nat) (i : Nat := 0) (j : Nat := 0) : State :=
  { s with reg := { s.reg with
      op := s.reg.op.put f.reset (fkey p f i j) (v % 2 ^ (f.hi - f.lo + 1))
      copies := s.reg.copies.erase (fkey p f i j) } }

/-- Write a field that is a signed number. -/
def State.wrS (s : State) (p : Nat) (f : Field) (v : Int) (i : Nat := 0) (j : Nat := 0) : State :=
  s.wr p f (ofSigned (f.hi - f.lo + 1) v) i j

/-- Set a one-bit field. -/
def State.setF (s : State) (p : Nat) (f : Field) (i : Nat := 0) (j : Nat := 0) : State := s.wr p f 1 i j

/-- Add to a field that saturates at its width. -/
def State.addSat (s : State) (p : Nat) (f : Field) (n : Nat := 1) (i : Nat := 0) (j : Nat := 0) : State :=
  s.wr p f (satAdd (2 ^ (f.hi - f.lo + 1) - 1) (s.rd p f i j) n) i j

/-- A B field's shadow (R62): the operating value where none is listed. -/
def State.rdShadow (s : State) (p : Nat) (f : Field) (i : Nat := 0) (j : Nat := 0) : Nat :=
  match s.reg.shadow.find? (fkey p f i j) with
  | some (v, _) => v
  | none => s.rd p f i j

/-- Write a B field's shadow; a shadow equal to the operating value is not listed. -/
def State.wrShadow (s : State) (p : Nat) (f : Field) (ag v i j : Nat) : State :=
  let k := fkey p f i j
  let sh := if v = s.rd p f i j then s.reg.shadow.erase k else s.reg.shadow.insert k (v, ag)
  { s with reg := { s.reg with shadow := sh } }

/-- What a field will hold once its posted value, or its shadow, has been applied: what the checks on the outcome of a
write compare with. -/
def State.rdNext (s : State) (p : Nat) (f : Field) (i : Nat := 0) (j : Nat := 0) : Nat :=
  match f.com with
  | .buf => s.rdShadow p f i j
  | .post => match (s.page p).posted.find? (fun e => e.1 = fkey p f i j) with
    | some (_, v) => v
    | none => s.rd p f i j
  | _ => s.rd p f i j

/-- The instance of a field whose register stands at an offset, when there is one. -/
def Field.inst (f : Field) (off : Nat) : Option (Nat × Nat) :=
  (List.range f.n2).findSome? (fun j =>
    if f.off + f.s2 * j ≤ off then
      let d := off - (f.off + f.s2 * j)
      if f.s1 = 0 then (if d = 0 then some (0, j) else none)
      else if d % f.s1 = 0 ∧ d / f.s1 < f.n1 then some (d / f.s1, j) else none
    else none)

/-- The fields of the register at an offset, with their instance. -/
def regFields (b : Blk) (off : Nat) : List (Field × Nat × Nat) :=
  (fieldsOf b).filterMap (fun f => (f.inst off).map (fun ij => (f, ij.1, ij.2)))

/-- The bits of a register that some field covers. -/
def coveredMask (fs : List (Field × Nat × Nat)) : Nat :=
  fs.foldl (fun m e => m ||| ((2 ^ (e.1.hi - e.1.lo + 1) - 1) <<< e.1.lo)) 0

/-- Whether a ROS field of a page is a count, cleared whole (R54): a wide ROS field, but for the OVF bits of R552 and the starvation
flags of R307 and R308. -/
def Field.isCount (f : Field) (p : Nat) : Bool :=
  f.acc = .ros && f.hi != f.lo && !(f = F.LDG_OVF_BITS_OVF || p = pXBAR || p = pSFAB)

/-- The outcome of a write of `b` through a view on a field value `v` (R54). -/
def viewOutcome (w : View) (v b width : Nat) : Nat :=
  match w with
  | .normal => b
  | .set => v ||| b
  | .clear => v &&& ((2 ^ width - 1) ^^^ b)
  | .toggle => v ^^^ b

/-! ### Results and refusals (R56, R57) -/

/-- Write BLK_RESULT once (R57). -/
def record (p ag idx op code : Nat) (s : State) : State :=
  s.updPage p (fun h => { h with
    seq := (h.seq + 1) % 16
    resIndex := idx, resOp := op, resAgent := ag, resCode := code
    stateCnt := if code = rSTATE then satAdd 255 h.stateCnt 1 else h.stateCnt
    refuseCnt := if code = rLOCKED ∨ code = rRANGE ∨ code = rBUSY ∨ code = rOWNER
      then satAdd 255 h.refuseCnt 1 else h.refuseCnt })

/-- Whether another agent holds the page's lock (check 1 of R56). -/
def lockedBy (s : State) (p ag : Nat) : Bool :=
  match (s.page p).lock with
  | some l => l.owner != ag
  | none => false

/-- The first check of R56 that fails, in its order; DONE when none does. -/
def firstFail (locked range state busy : Bool) : Nat :=
  if locked then rLOCKED else if !range then rRANGE else if !state then rSTATE else if busy then rBUSY else rDONE

/-- The code of a command: lock, range (opcode and ARG), state, and busy by a posted write or a running command
(R56). -/
def cmdCode (s : State) (p ag : Nat) (range state : Bool) : Nat :=
  firstFail (lockedBy s p ag) range state (!(s.page p).posted.isEmpty || (s.page p).cmd.isSome)

/-- A command that ends in the step that accepts it: `body` is its effect and its result code (R57). -/
def command (p ag op : Nat) (range state : Bool) (body : State → State × Nat) (s : State) : State :=
  let c := cmdCode s p ag range state
  if c = rDONE then record p ag 4 op (body s).2 (body s).1 else record p ag 4 op c s

/-- A command that takes time: accepted, it runs with its operands until it completes (R57, R629). DEDUCED (log entry 115). -/
def commandLong (p ag op arg : Nat) (range state : Bool) (ops : List Nat) (body : State → State) (s : State) : State :=
  let c := cmdCode s p ag range state
  if c = rDONE then
    (body s).updPage p (fun h => { h with cmd := some ⟨op, arg, ag, ops⟩ })
  else record p ag 4 op c s

/-- The end of a running command: its one BLK_RESULT, and CMD_BUSY back to 0 (R57). -/
def finishCmd (p code : Nat) (s : State) : State :=
  match (s.page p).cmd with
  | some c => record p c.agent 4 c.op code (s.updPage p (fun h => { h with cmd := none }))
  | none => s

/-- A token bucket kept to 1/1,024 of its unit (R153, R296) after `flow` has run in: its tokens in 1/1,024, and what has run in towards the next one,
of which `one` make it; a full bucket takes nothing more. -/
def fillBucket (one size : Nat) (b : Nat × Nat) (flow : Nat) : Nat × Nat :=
  let n := b.1 + (b.2 + flow) / one
  if size ≤ n then (size, 0) else (n, (b.2 + flow) % one)

/-- Whether a page is of a block. -/
def isBlk (p : Nat) (b : Blk) : Bool := pageBlk p = some b

/-- Whether the page's state is one of those listed. -/
def stateIn (s : State) (p : Nat) (l : List BlkState) : Bool := l.contains (s.page p).state

/-! ### Shadows (R62, R65, R70, R72) -/

/-- Whether a field key belongs to a page. -/
def keyOnPage (p k : Nat) : Bool := k / 32768 = p

/-- Whether some shadow of the page differs from its operating value; the delay entries of R369 have shadows of their own. -/
def anyShadow (s : State) (p : Nat) : Bool :=
  s.reg.shadow.entries.any (fun e => keyOnPage p e.1) || (p = pPEAT && !s.peat.delayShadow.entries.isEmpty)

/-- Keep the shadows of a page that an agent test accepts, and those of every other page. -/
def keepShadows (p : Nat) (keep : Nat → Bool) (s : State) : State :=
  { s with
    reg := { s.reg with shadow := s.reg.shadow.filter (fun k e => !(keyOnPage p k) || keep e.2) }
    peat := if p = pPEAT then { s.peat with delayShadow := s.peat.delayShadow.filter (fun _ e => keep e.2) } else s.peat }

/-- Set every shadow of a page to its operating value. -/
def dropShadows (p : Nat) (s : State) : State := keepShadows p (fun _ => false) s

/-- Set the shadows an agent wrote on a page since the last commit point to their operating values: a commit already made
stands (R70, R486). -/
def dropShadowsOf (p ag : Nat) (s : State) : State :=
  if (s.page p).commitPending then s else keepShadows p (fun a => a != ag) s

/-! ### Counters (R551) -/

/-- The counters of a port, a (port, class), a region and the chip (R555). -/
def cPort (p k : Nat) : Nat := 128 * p + k
def cPC (p c k : Nat) : Nat := 0x2000 + 256 * p + 32 * c + k
def cHist (p c k : Nat) : Nat := 0x5000 + 256 * p + 32 * c + k
def cQueue (q k : Nat) : Nat := 0x8000 + 2 * q + k
def cPol (n k : Nat) : Nat := 0x28000 + 4 * n + k
def cStream (h k : Nat) : Nat := 0x38000 + 8 * h + k
def cRecov (e k : Nat) : Nat := 0x40000 + 8 * e + k
def cRing (n k : Nat) : Nat := 0x48000 + 4 * n + k
def cRegion (r k : Nat) : Nat := 0x4C000 + 0x400 * r + k
def cChip (k : Nat) : Nat := 0x4D000 + k

/-- Present value of a counter. -/
def State.counter (s : State) (i : Nat) : Nat := s.cnt.val.get 0 i

/-- Set a counter's value. -/
def setCounter (i v : Nat) (s : State) : State :=
  { s with cnt := { s.cnt with val := s.cnt.val.put 0 i (v % 2 ^ 64) } }

/-! ### Interrupt sources (R523 to R535) -/

/-- Whether source `n` is connected (R524, R569). -/
def srcConnected (n : Nat) : Bool :=
  n < 256 || (256 ≤ n && n < 267)
  || (272 ≤ n && n < 304 && (n - 272) % 8 < 7)
  || (320 ≤ n && n ≤ 344) || (384 ≤ n && n < 480) || n = 480 || n = 481
  || (512 ≤ n && n < 640 && (n - 512) % 32 < 8)

/-- Whether source `n` is a level source (R524, R569). -/
def srcLevel (n : Nat) : Bool :=
  (256 ≤ n && n < 267) || (272 ≤ n && n < 304 && (n - 272) % 8 < 7)
  || [320, 321, 322, 324, 326, 335, 337, 338, 341, 342, 343].contains n
  || (384 ≤ n && n < 480) || n = 480 || n = 481

/-- The error source of a page (R524). -/
def errSource (p : Nat) : Nat := if p < 0x010 then 256 + p else 272 + 8 * pageRegion p + p % 0x010

/-- Source j of region r of R524. -/
def regSource (r j : Nat) : Nat := 512 + 32 * r + j

/-- The OR of the status bits a level source follows (R524, R569). -/
def lineOf (s : State) (n : Nat) : Bool :=
  if 256 ≤ n && n < 267 then (s.page (n - 256)).contained || (s.page (n - 256)).escalated
  else if 272 ≤ n && n < 304 then
    let h := s.page (pReg ((n - 272) / 8) ((n - 272) % 8))
    h.contained || h.escalated
  else if n = 320 then s.rdB pSNS F.SNS_AVS_STATUS_PMBUS_FAIL
  else if n = 321 then s.rdB pSNS F.SNS_AVS_STATUS_SPEED_LOW
  else if n = 322 then s.rdB pTIME F.TIME_EVENT_CLK_FAIL
  else if n = 324 then s.rdB pTIME F.TIME_EVENT_SWITCH_SEEN
  else if n = 326 then s.rdB pTIME F.BANK_STATUS_EXPIRED
  else if n = 335 then s.rdB pMATE F.MATE_EVENT_ROLE_CONFLICT
  else if n = 337 then s.rdB pHIF F.HIF_RING_ERR_ANY
  else if n = 338 then s.emb.pfLevel
  else if n = 341 then s.rdB pLDG F.LDG_HU_STAT_HOLDUP_LOW
  else if n = 342 then s.rdB pLDG F.LDG_STATUS_FLASH_ERR
  else if n = 343 then !s.cnt.ovf.entries.isEmpty
  else if 384 ≤ n && n < 432 then
    let p := n - 384
    let g := pPORT (portRegion p)
    let i := portCell p
    s.rdB g F.PORT_EVENT_DOWN_SEEN i || s.rdB g F.PORT_EVENT_UP_SEEN i
      || s.rdB g F.PORT_EVENT_VERIFY_FAILED i || s.rdB g F.PORT_EVENT_AN_FAIL i
  else if 432 ≤ n && n < 480 then
    s.rdB (pPORT (portRegion (n - 432))) F.GATE_EVENT_OVERSIZE_SEEN (portCell (n - 432))
  else if n = 480 then s.rdB pHIF F.HIF_MGMT_EVENT_DOWN_SEEN 0 || s.rdB pHIF F.HIF_MGMT_EVENT_UP_SEEN 0
  else if n = 481 then s.rdB pHIF F.HIF_MGMT_EVENT_DOWN_SEEN 1 || s.rdB pHIF F.HIF_MGMT_EVENT_UP_SEEN 1
  else false

/-- The state of a source. -/
def State.src (s : State) (n : Nat) : Src := s.int.src.get {} n

/-- Change the state of a source. -/
def State.updSrc (s : State) (n : Nat) (f : Src → Src) : State :=
  { s with int := { s.int with src := s.int.src.upd {} n f } }

/-- One event on a source (R527): recorded while EN is 1, in every state of the INT block but RESET (R545). -/
def srcEvent (n : Nat) (s : State) : State :=
  if srcConnected n && s.rdB (wISRC n) F.SRC_EN && !s.inState pINT .reset then
    s.updSrc n (fun x => { x with count := satAdd 255 x.count 1, pending := true })
  else s

/-- The fall of a level source (R527, R531): PENDING is cleared while not ACTIVE, RETRACTED set while ACTIVE. -/
def srcFall (n : Nat) (s : State) : State :=
  s.updSrc n (fun x =>
    let y := { x with line := false }
    if y.active then { y with retracted := true }
    else if y.pending then { y with pending := false } else y)

/-- The rise of a level source: one event (R523). A fall not yet taken comes first. -/
def srcRise (n : Nat) (s : State) : State :=
  let s1 := if (s.src n).line then srcFall n s else s
  srcEvent n (s1.updSrc n (fun x => { x with line := true }))

/-- A change of the status bits a level source follows: its rise makes the event at once; its fall is the later step
LEVEL_DEASSERT. DEDUCED (log entry 99). -/
def withLine (n : Nat) (f : State → State) (s : State) : State :=
  if !lineOf s n && lineOf (f s) n then srcRise n (f s) else f s

/-- Increment a counter by an amount modulo 2^64; a carry out of bit 63 sets its OVF bit (R551). Counters stand while the LDG block is in RESET
(R570). -/
def countBy (i n : Nat) (s : State) : State :=
  let v := s.counter i + n
  if s.inState pLDG .reset then s
  else if v < 2 ^ 64 then setCounter i v s
  else withLine 343 (fun s => { s with cnt := { s.cnt with ovf := s.cnt.ovf.insert i true } }) (setCounter i v s)

/-- Increment a counter by one. -/
def count (i : Nat) (s : State) : State := countBy i 1 s

/-! ### The ledger's counts and events (R560, R561, R565) -/

/-- Change the open hour. -/
def updHour (f : Hour → Hour) (s : State) : State := { s with ldg := { s.ldg with open_ := f s.ldg.open_ } }

/-- Add one to an event count of the open hour (R562, offset 0x78), while the LDG block is RUN (R560). -/
def hourEvent (k : Nat) (s : State) : State :=
  if s.inState pLDG .run then updHour (fun h => { h with events := modAt h.events k (· + 1) }) s else s

/-- Queue a record for the writer (R565): while 16 wait, a PERIOD record of the same hour is replaced, otherwise the
oldest is discarded and LOST increments, raising LDG_LOST. -/
def queueRecord (r : LdgRec) (s : State) : State :=
  if s.ldg.queue.length < 16 then { s with ldg := { s.ldg with queue := s.ldg.queue ++ [r] } }
  else if r.kind = 1 && s.ldg.queue.any (fun q => q.kind = 1 && q.hour = r.hour) then
    { s with ldg := { s.ldg with
        queue := s.ldg.queue.map (fun q => if q.kind = 1 && q.hour = r.hour then r else q) } }
  else srcEvent 344 ({ s with ldg := { s.ldg with queue := s.ldg.queue.drop 1 ++ [r] } }.addSat pLDG F.LDG_DEFER_LOST)

/-- An EVENT record (R561): queued while the LDG block is RUN, at most one per code per second of the local counter. -/
def ledgerEvent (code detail : Nat) (s : State) : State :=
  let recent := match s.ldg.eventAt.find? code with
    | some t => s.time.local_ < t + secU
    | none => false
  if s.inState pLDG .run && !recent then
    queueRecord ⟨4, s.ldg.open_.hour, leBytes 1 code ++ [0, 0, 0] ++ leBytes 4 detail, false⟩
      { s with ldg := { s.ldg with eventAt := s.ldg.eventAt.insert code s.time.local_ } }
  else s

/-! ### Error reports (R8, R470) -/

/-- The error classes of R8. -/
inductive ErrClass where
  | noted | corrected | contained | escalated
  deriving DecidableEq, Repr

/-- The place of a class in the ledger's histogram. -/
def ErrClass.idx : ErrClass → Nat
  | .noted => 0 | .corrected => 1 | .contained => 2 | .escalated => 3

/-- Report an error of a block (R470): the class bit of BLK_ERR, the hour's histogram, and for a contained or escalated
one the block's error source. -/
def report (p : Nat) (c : ErrClass) (s : State) : State :=
  withLine (errSource p) (fun s => s.updPage p (fun h =>
      match c with
      | .noted => { h with noted := true }
      | .corrected => { h with corrected := true }
      | .contained => { h with contained := true }
      | .escalated => { h with escalated := true }))
    (updHour (fun h => { h with errs := modAt h.errs c.idx (· + 1) }) s)

/-! ### What leaves the part -/

/-- Put one output at the end of the record of what has left the part. -/
def emit (o : Out) (s : State) : State := { s with out := s.out ++ [o] }

/-- Draw the next free value's index, for a value the spec leaves open. DESIGN CHOICE (log entry 118). -/
def nextFree (s : State) : Nat × State := (s.free, { s with free := s.free + 1 })

end Sys2Proof.Machine
end

