-- ==== Sys2Proof/Machine/BufOps.lean ====
section
/-! DEFINITION. The pool manager's shared operations: the free store, allocation, accounts, reference counts and the free walk
(R225 to R249). -/
namespace Sys2Proof.Machine

/-- The requester classes of R231 and R233, by their cache of R235. -/
inductive ReqClass where
  | pc | eng | refill | hm
  deriving DecidableEq, Repr

def ReqClass.idx : ReqClass → Nat
  | .pc => 0 | .eng => 1 | .refill => 2 | .hm => 3

/-- The class of an owner tag (R231); none for 0xFE and 0xFF. -/
def tagClass (t : Nat) : Option ReqClass :=
  if t < 0x30 then some .pc
  else if 0x40 ≤ t && t < 0x80 then some .eng
  else if t = 0x80 then some .refill
  else if (0x90 ≤ t && t < 0x98) || t = 0xA0 then some .hm
  else none

/-! ### The pool record and the free store (R235, R248) -/

def Pool.empty : Pool := ⟨[], [[], [], [], []], [], [], 0, 0, 0, false, false, none, []⟩

/-- The pool of a region. -/
def State.pool (s : State) (r : Nat) : Pool := (s.buf.pools[r]?).getD Pool.empty

/-- Change the pool of a region. -/
def State.updPool (s : State) (r : Nat) (f : Pool → Pool) : State :=
  { s with buf := { s.buf with pools := modAt s.buf.pools r f } }

/-- A list of runs without one entry. -/
def removeRun (x : Nat) (l : List Run) : List Run :=
  l.flatMap (fun e => if e.1 ≤ x && x < e.1 + e.2 then
      (if e.1 < x then [(e.1, x - e.1)] else []) ++ (if x + 1 < e.1 + e.2 then [(x + 1, e.1 + e.2 - x - 1)] else [])
    else [e])

/-- Entries of a list of runs. -/
def runLen (l : List Run) : Nat := l.foldl (fun n x => n + x.2) 0

/-- The first entry of a list of runs, and the rest. -/
def popRun : List Run → Option (Nat × List Run)
  | [] => none
  | (a, n) :: t => if n = 0 then popRun t else if n = 1 then some (a, t) else some (a, (a + 1, n - 1) :: t)

/-- Put an entry at the end of a list of runs. -/
def pushRun (l : List Run) (x : Nat) : List Run :=
  match l.reverse with
  | (a, n) :: t => if a + n = x then ((a, n + 1) :: t).reverse else l ++ [(x, 1)]
  | [] => [(x, 1)]

/-- The first `k` entries of a list of runs, and the rest. -/
def splitRuns (k : Nat) : List Run → List Run × List Run
  | [] => ([], [])
  | (a, n) :: t =>
    if k = 0 then ([], (a, n) :: t)
    else if n ≤ k then let q := splitRuns (k - n) t; ((a, n) :: q.1, q.2)
    else ([(a, k)], (a + k, n - k) :: t)

/-- Refill a cache below 128 entries with a batch of 64 from the ring, or return a batch of 64 from one above 448 (R235). DEDUCED (log entry 54). -/
def Pool.balance (p : Pool) (c : Nat) : Pool :=
  let cache := (p.caches[c]?).getD []
  let n := runLen cache
  if n < 128 then
    let q := splitRuns 64 p.ring
    { p with ring := q.2, caches := modAt p.caches c (fun l => l ++ q.1) }
  else if 448 < n then
    let q := splitRuns 64 cache
    { p with ring := p.ring ++ q.1, caches := modAt p.caches c (fun _ => q.2) }
  else p

/-- Take one entry for a class: from its cache, which the ring refills; else from another class's cache (R235). -/
def Pool.pop (p : Pool) (c : Nat) : Option (Nat × Pool) :=
  let p1 := p.balance c
  match popRun ((p1.caches[c]?).getD []) with
  | some (x, l) => some (x, { p1 with caches := modAt p1.caches c (fun _ => l) }.balance c)
  | none => (List.range 4).findSome? (fun d =>
      (popRun ((p1.caches[d]?).getD [])).map (fun q => (q.1, { p1 with caches := modAt p1.caches d (fun _ => q.2) }.balance d)))

/-- Return a freed billet's entry to the free store: to the port cells' cache, which passes batches on to the ring. -/
def Pool.push (p : Pool) (x : Nat) : Pool :=
  { p with caches := modAt p.caches 0 (fun l => pushRun l x) }.balance 0

/-- Free billets of the region, ring and caches (BUF_FREE_CNT). -/
def Pool.freeCnt (p : Pool) : Nat := runLen p.ring + (p.caches.map runLen).foldl (· + ·) 0

/-! ### Link entries, head words, accounts -/

/-- The link entry of a billet. -/
def State.link (s : State) (b : Nat) : Link := s.buf.link.get {} b
/-- Write a link entry. -/
def State.setLink (s : State) (b : Nat) (l : Link) : State :=
  { s with buf := { s.buf with link := s.buf.link.put {} b l } }
/-- The head word of a cord. -/
def State.headW (s : State) (b : Nat) : HeadWord := s.buf.head.get {} b
/-- Write a head word. -/
def State.setHead (s : State) (b : Nat) (h : HeadWord) : State :=
  { s with buf := { s.buf with head := s.buf.head.put {} b h } }

/-- The region of a billet and its local index (R225). -/
def billetRegion (b : Nat) : Nat := b / 65536
def billetLocal (b : Nat) : Nat := b % 65536

/-- U(s, c) of an account 8s + c of a region (R239). -/
def useOf (s : State) (r a : Nat) : Nat :=
  if a % 2 = 0 then s.rd (pBUF r) F.BUF_USE_USE_LO (a / 2) else s.rd (pBUF r) F.BUF_USE_USE_HI (a / 2)
def setUse (r a v : Nat) (s : State) : State :=
  if a % 2 = 0 then s.wr (pBUF r) F.BUF_USE_USE_LO v (a / 2) else s.wr (pBUF r) F.BUF_USE_USE_HI v (a / 2)
/-- GMIN(s, c) of an account. -/
def gminOf (s : State) (r a : Nat) : Nat :=
  if a % 2 = 0 then s.rd (pBUF r) F.BUF_GMIN_GMIN_LO (a / 2) else s.rd (pBUF r) F.BUF_GMIN_GMIN_HI (a / 2)

/-- The fields of the drain reserve of an egress port and of its use. -/
def drainResF (p : Nat) : Field :=
  match p % 4 with
  | 0 => F.BUF_DRAIN_RES_DRAIN_RES0 | 1 => F.BUF_DRAIN_RES_DRAIN_RES1
  | 2 => F.BUF_DRAIN_RES_DRAIN_RES2 | _ => F.BUF_DRAIN_RES_DRAIN_RES3
def drainUseF (p : Nat) : Field :=
  match p % 4 with
  | 0 => F.BUF_DRAIN_USE_USE0 | 1 => F.BUF_DRAIN_USE_USE1 | 2 => F.BUF_DRAIN_USE_USE2 | _ => F.BUF_DRAIN_USE_USE3

/-- The shared use of a region as it stands: the shared parts over its 104 accounts (R239). -/
def sharedUse (s : State) (r : Nat) : Nat :=
  (List.range 104).foldl (fun n a => n + (useOf s r a - gminOf s r a)) 0

/-- Bring BUF_USE_SHARED of a region up to its accounts. -/
def syncShared (r : Nat) (s : State) : State := s.wr (pBUF r) F.BUF_USE_SHARED_COUNT (sharedUse s r)

/-- The end-of-round exchange (R239): every region whose buffer block takes part reports its shared use; BUF_USE_CHIP is the sum of
the reports. -/
def exchange (s : State) : State :=
  let s1 := (List.range 4).foldl (fun s r =>
    if stateIn s (pBUF r) [.fenced, .reinit, .halted, .reset] then s
    else s.updPool r (fun p => { p with
      lastShared := s.rd (pBUF r) F.BUF_USE_SHARED_COUNT, round := p.round + 1, chargedThisRound := false })) s
  s1.wr (pBUF 0) F.BUF_USE_CHIP_USE ((List.range 4).foldl (fun n r => n + (s1.pool r).lastShared) 0)

/-- Whether `n` more billets can be charged to account `a` of a region (R239). -/
def chargeOk (s : State) (r a n : Nat) : Bool :=
  let u := useOf s r a
  let g := gminOf s r a
  let more := (u + n - g) - (u - g)
  let own := s.rd (pBUF r) F.BUF_USE_SHARED_COUNT + more
  let others := (List.range 4).foldl (fun m q => if q = r then m else m + (s.pool q).lastShared) 0
  more = 0 || (own ≤ s.rd (pBUF r) F.BUF_SHARED_LIMIT_LIMIT && own + others ≤ s.rd (pBUF 0) F.BUF_CHIP_CAP_CAP)

/-- The round in which a region decides its next charge: a region grants one a round, so a second finds the round ended and the shared uses
exchanged (R239). DEDUCED (log entry 56). -/
def chargeRound (r : Nat) (s : State) : State := if (s.pool r).chargedThisRound then exchange s else s

/-- Charge `n` billets to an account. -/
def charge (r a n : Nat) (s : State) : State :=
  (syncShared r (setUse r a (useOf s r a + n) s)).updPool r (fun p => { p with chargedThisRound := true })

/-- Debit one billet from its account (R239, R245); 0xFF is no account. -/
def debit (r a : Nat) (s : State) : State :=
  if a < 104 then syncShared r (setUse r a (useOf s r a - 1) s)
  else if 0x70 ≤ a && a < 0xA0 then
    let p := a - 0x70
    s.wr (pBUF r) (drainUseF p) (s.rd (pBUF r) (drainUseF p) (p / 4) - 1) (p / 4)
  else if a = 0xA0 then s.wr (pBUF r) F.BUF_USE_REFILL_COUNT (s.rd (pBUF r) F.BUF_USE_REFILL_COUNT - 1)
  else s

/-- Change the count of billets held with an owner tag of a class (R233). -/
def held (r : Nat) (c : ReqClass) (f : Nat → Nat) (s : State) : State :=
  match c with
  | .pc => s.wr (pBUF r) F.BUF_HELD_PC_COUNT (f (s.rd (pBUF r) F.BUF_HELD_PC_COUNT))
  | .eng => s.wr (pBUF r) F.BUF_HELD_ENG_COUNT (f (s.rd (pBUF r) F.BUF_HELD_ENG_COUNT))
  | .hm => s.wr (pBUF r) F.BUF_HELD_HM_COUNT (f (s.rd (pBUF r) F.BUF_HELD_HM_COUNT))
  | .refill => s

/-- Whether `n` more billets stay within a class's quota, or the refill reserve (R233, R241). -/
def quotaOk (s : State) (r : Nat) (c : ReqClass) (n : Nat) : Bool :=
  match c with
  | .pc => s.rd (pBUF r) F.BUF_HELD_PC_COUNT + n ≤ s.rd (pBUF r) F.BUF_QUOTA_PC_QUOTA
  | .eng => s.rd (pBUF r) F.BUF_HELD_ENG_COUNT + n ≤ s.rd (pBUF r) F.BUF_QUOTA_ENG_QUOTA
  | .hm => s.rd (pBUF r) F.BUF_HELD_HM_COUNT + n ≤ s.rd (pBUF r) F.BUF_QUOTA_HM_QUOTA
  | .refill => s.rd (pBUF r) F.BUF_USE_REFILL_COUNT + n ≤ s.rd (pBUF r) F.BUF_REFILL_RES_REFILL_RES

/-- Keep BUF_FREE_CNT and BUF_RETIRED at their pool's counts. -/
def syncFree (r : Nat) (s : State) : State :=
  (s.wr (pBUF r) F.BUF_FREE_CNT_COUNT (s.pool r).freeCnt).wr (pBUF r) F.BUF_RETIRED_COUNT (s.pool r).retired.length

/-- Take a free billet of a region for a class (R234 step 3): an entry whose billet is already allocated is discarded, counted in
RING_ERR and reported (R248), and a retired billet's entry is passed over. -/
def takeFree (r c : Nat) : Nat → State → Option Nat × State
  | 0, s => (none, s)
  | fuel + 1, s =>
    match (s.pool r).pop c with
    | none => (none, s)
    | some (x, p) =>
      let s1 := syncFree r (s.updPool r (fun _ => p))
      if (s.link (65536 * r + x)).alloc then
        takeFree r c fuel (report (pBUF r) .corrected (srcEvent (regSource r 1) (count (cRegion r 70) s1)))
      else if (s.pool r).retired.contains x then takeFree r c fuel s1
      else (some (65536 * r + x), s1)

/-- Allocate one billet for a class with an owner tag and an account (R231, R234, R250); none is EMPTY. Before handover the quota is
checked; after it (owner 0xFE) the charge has been made by the caller. -/
def alloc (r : Nat) (c : ReqClass) (tag acct : Nat) (s : State) : Option Nat × State :=
  if !s.inState (pBUF r) .run || (s.page (pBUF r)).cmd.any (fun c => c.op = 0x41) then (none, s)
  else if tag != 0xFE && !quotaOk s r c 1 then (none, s)
  else match takeFree r c.idx 65536 s with
    | (none, s1) => (none, s1)
    | (some b, s1) =>
      let s2 := s1.setLink b { alloc := true, owner := tag, account := acct }
      let s3 := if tag = 0xFE then s2 else held r c (· + 1) s2
      (some b, if acct = 0xA0 then
        s3.wr (pBUF r) F.BUF_USE_REFILL_COUNT (s3.rd (pBUF r) F.BUF_USE_REFILL_COUNT + 1) else s3)

/-- ΣGMIN + ΣDRAIN_RES and the quotas of a region, by a reading of its fields (R242). -/
def committedSum (rd : Field → Nat → Nat) : Nat :=
  rd F.BUF_QUOTA_PC_QUOTA 0 + rd F.BUF_QUOTA_ENG_QUOTA 0 + rd F.BUF_QUOTA_HM_QUOTA 0
    + rd F.BUF_REFILL_RES_REFILL_RES 0 + rd F.BUF_SHARED_LIMIT_LIMIT 0
    + (List.range 52).foldl (fun n i => n + rd F.BUF_GMIN_GMIN_LO i + rd F.BUF_GMIN_GMIN_HI i) 0
    + (List.range 48).foldl (fun n p => n + rd (drainResF p) (p / 4)) 0

/-- Retire a billet (R249): BUF_OVERCOMMIT is raised when the committed configuration then exceeds the bound (R242). -/
def retireBillet (b : Nat) (s : State) : State :=
  let r := billetRegion b
  let x := billetLocal b
  if (s.pool r).retired.contains x then s
  else
    let s1 := syncFree r (s.updPool r (fun p => { p with
      retired := x :: p.retired, retireOnFree := p.retireOnFree.filter (· != x)
      ring := removeRun x p.ring, caches := p.caches.map (removeRun x) }))
    if 65536 - (s1.pool r).retired.length < committedSum (fun f i => s1.rd (pBUF r) f i) then
      srcEvent (regSource r 2) s1 else s1

/-- Return one billet to the free store, or retire it (R230, R245, R249); a fence sweep then leaves it alone (R484). Its link entry keeps all but
ALLOC, OWNER and ACCOUNT. -/
def freeBillet (b : Nat) (s : State) : State :=
  let r := billetRegion b
  let l := s.link b
  let s1 := debit r l.account s
  let s2 := match tagClass l.owner with
    | some c => held r c (· - 1) s1
    | none => s1
  let s3 := s2.setLink b { l with alloc := false, owner := 0xFF, account := 0xFF }
  let x := billetLocal b
  let s4 := s3.updPool r (fun p => { p with sweeps := p.sweeps.map (fun (e : Nat × List Nat) => (e.1, e.2.filter (· != x))) })
  if (s4.pool r).retired.contains x then syncFree r s4
  else if (s4.pool r).retireOnFree.contains x then retireBillet b s4
  else syncFree r (s4.updPool r (fun p => p.push x))

/-- Record an ECC error in BUF_LINK_ERR: `kind` as its KIND, corrected or not (R251). -/
def linkNote (r kind idx : Nat) (multi : Bool) (s : State) : State :=
  ((s.setF (pBUF r) (if multi then F.BUF_LINK_ERR_UNCORR else F.BUF_LINK_ERR_CORR)).wr (pBUF r) F.BUF_LINK_ERR_KIND kind).wr
    (pBUF r) F.BUF_LINK_ERR_LAST_INDEX idx

/-- An error in a link entry (0), a head word (1) or a free-ring entry (3) (R249): a corrected one, or an uncorrectable one, which is counted and
contained. -/
def linkErr (r kind idx : Nat) (multi : Bool) (s : State) : State :=
  let s1 := linkNote r kind idx multi s
  if multi then report (pBUF r) .contained (count (cRegion r 71) s1) else report (pBUF r) .corrected s1

/-- The free-ring entry read next meets an error (R249): 1 a corrected one, 2 an uncorrectable one, whose entry is discarded and its billet
retired. -/
def ringError (r err : Nat) (s : State) : State :=
  match popRun (s.pool r).ring with
  | none => s
  | some (x, l) =>
    if err = 1 then linkErr r 3 x false s
    else if err = 2 then retireBillet (65536 * r + x) (linkErr r 3 x true (s.updPool r (fun p => { p with ring := l })))
    else s

/-! ### The free walk (R245, R246) -/

/-- Record a stopped walk (R246): the result code, the freeing tag, the OWNER found, head and billet. -/
def walkStop (r code tag found hd bl : Nat) (s : State) : State :=
  let s1 := (((s.wr (pBUF r) F.BUF_FREE_ERR_A_CODE code).wr (pBUF r) F.BUF_FREE_ERR_A_REQUESTER tag).wr
    (pBUF r) F.BUF_FREE_ERR_A_FOUND found)
  let s2 := (s1.wr (pBUF r) F.BUF_FREE_ERR_B_HEAD hd).wr (pBUF r) F.BUF_FREE_ERR_B_BILLET bl
  if code = rSTATE then report (pBUF r) .noted (srcEvent (regSource r 0) (count (cRegion r 67) s2))
  else if code = rOWNER then report (pBUF r) .noted (count (cRegion r 68) s2)
  else if code = rRANGE then report (pBUF r) .noted (count (cRegion r 69) s2)
  else s2

/-- The walk of R245 from a pointer: the result code and how many billets were freed; `fuel` of the 39 a cord can hold are still to come. `errs`
lists the billets whose link entry meets an error, true for an uncorrectable one; `hd` is what a stop records as HEAD. -/
def freeWalk (r tag hd : Nat) (errs : List (Nat × Bool)) : Nat → Nat → State → Nat × Nat × State
  | fuel, ptr, s =>
    let n := 39 - fuel
    let b := ptr / 256
    let i := billetLocal b
    if b / 65536 != r || ptr % 256 != 0 then (rRANGE, n, walkStop r rRANGE tag 0xFF hd (bitsOf ptr 23 8) s)
    else
      let l := s.link b
      if errs.contains (b, true) then
        (rPARITY, n, retireBillet b (linkErr r 0 i true (walkStop r rPARITY tag l.owner hd i s)))
      else
        let s0 := if errs.contains (b, false) then linkErr r 0 i false s else s
        if !l.alloc then (rSTATE, n, walkStop r rSTATE tag 0xFF hd i s0)
        else if l.owner != tag then (rOWNER, n, walkStop r rOWNER tag l.owner hd i s0)
        else match fuel with
          | 0 => (rRANGE, n, walkStop r rRANGE tag l.owner hd i s0)
          | m + 1 =>
            let s1 := freeBillet b s0
            if l.last then (rDONE, n + 1, s1)
            else freeWalk r tag hd errs m ((65536 * r + l.next) * 256) s1

/-- Free a cord of a region by its head pointer with an owner tag (R245); the shared uses are exchanged after it (R239). -/
def freeCord (r ptr tag : Nat) (errs : List (Nat × Bool)) (s : State) : Nat × Nat × State :=
  let hd := if ptr / 256 / 65536 = r && ptr % 256 = 0 then billetLocal (ptr / 256) else bitsOf ptr 23 8
  let q := freeWalk r tag hd errs 39 ptr s
  (q.1, q.2.1, exchange q.2.2)

/-- Why an INC or DEC at a head billet is refused, as a free of it would be, with the refusal recorded and counted (R244, R249); none when it is
not. -/
def headRefused (b : Nat) (s : State) : Option State :=
  let r := billetRegion b
  let i := billetLocal b
  let l := s.link b
  if !l.alloc then some (walkStop r rSTATE 0xFE 0xFF i i s)
  else if l.owner != 0xFE then some (walkStop r rOWNER 0xFE l.owner i i s)
  else if (s.headW b).dead then some (linkErr r 1 i true (walkStop r rPARITY 0xFE l.owner i i s))
  else none

/-! ### Cords -/

/-- The billets of a cord from its head, at most 40. -/
def cordBillets (s : State) : Nat → Nat → List Nat
  | 0, _ => []
  | fuel + 1, b =>
    let l := s.link b
    if l.last || !l.alloc then [b] else b :: cordBillets s fuel (65536 * billetRegion b + l.next)

/-- Append one more billet to a cord. -/
def appendBillet (hd b : Nat) (s : State) : State :=
  let h := s.headW hd
  let t := 65536 * billetRegion hd + h.tail
  let s1 := s.setLink t { s.link t with last := false, next := billetLocal b }
  let s2 := s1.setLink b { s1.link b with last := true }
  s2.setHead hd { h with tail := billetLocal b, billets := h.billets + 1 }

/-- Grow or start a cord until it holds `want` data billets; `get` is one allocation. The cord's head and whether it holds them
all are answered (R226, R237). -/
def growCord (get : State → Option Nat × State) : Nat → Option Nat → Nat → State → Option Nat × Bool × State
  | 0, hd, _, s => (hd, true, s)
  | want + 1, hd, have_, s =>
    match get s with
    | (none, s1) => (hd, false, s1)
    | (some b, s1) =>
      match hd with
      | some h => growCord get want (some h) (have_ + 1) (appendBillet h b s1)
      | none =>
        let s2 := (s1.setLink b { s1.link b with head := true, last := true }).setHead b
          { billets := 1, tail := billetLocal b }
        growCord get want (some b) (have_ + 1) s2

/-- The data billets a length takes (R226). -/
def dataBillets (len : Nat) : Nat := max 1 ((len + 255) / 256)

/-- Change a frame. -/
def State.updFrame (s : State) (f : Nat) (g : Frame → Frame) : State :=
  match s.frames.find? f with
  | some x => { s with frames := s.frames.insert f (g x) }
  | none => s

/-- Take a frame away. -/
def State.dropFrameRec (s : State) (f : Nat) : State := { s with frames := s.frames.erase f }

/-- Put a new frame in the store under the next number. -/
def State.newFrame (s : State) (x : Frame) : Nat × State :=
  (s.nextFrame, { s with frames := s.frames.insert s.nextFrame x, nextFrame := s.nextFrame + 1 })

/-- DEC of a copy's cord (R244): at 0 with the tail stored the cord is freed with tag 0xFE, at 0 without it nothing more is stored and
the rest is discarded; the frame's record goes with the cord. A copy of an old slice generation is discarded (R479), and a
dead head word refuses (R249). -/
def decCord (f gen : Nat) (s : State) : State :=
  match s.frames.find? f with
  | none => s
  | some x =>
    match x.head with
    | none => s
    | some b =>
      let r := billetRegion b
      if gen != (s.pool r).gen then s
      else
        let h := s.headW b
        match headRefused b s with
        | some s1 => s1
        | none =>
          if h.refcnt = 0 then s
          else if 1 < h.refcnt then s.setHead b { h with refcnt := h.refcnt - 1 }
          else (freeCord r (b * 256) 0xFE [] (s.setHead b { h with refcnt := 0, complete := true })).2.2.dropFrameRec f

/-- INC of a frame's cord (R244): whether it was done. -/
def incCord (f : Nat) (s : State) : Bool × State :=
  match s.frames.find? f with
  | none => (false, s)
  | some x =>
    match x.head with
    | none => (false, s)
    | some b =>
      let h := s.headW b
      let r := billetRegion b
      match headRefused b s with
      | some s1 => (false, s1)
      | none =>
        if 255 ≤ h.refcnt then (false, count (cRegion r 66) s)
        else (true, s.setHead b { h with refcnt := h.refcnt + 1 })

/-- The account of a frame's cord (R238). -/
def accountOf (x : Frame) : Nat :=
  match x.src with
  | .front => 8 * portCell x.port + x.verdict.tc
  | _ => 96 + x.verdict.tc

/-- The owner tag a frame is stored under before handover (R231). -/
def ownerTag (x : Frame) : Nat :=
  match x.src with
  | .front | .twin => x.port
  | .host f => 0x90 + f
  | .mate => 0xA0

def ownerClass (x : Frame) : ReqClass :=
  match x.src with
  | .front | .twin => .pc
  | _ => .hm

/-- Count in RX_BUF_EMPTY of the ingress port, where there is one (R237). -/
def countEmpty (x : Frame) (s : State) : State :=
  match x.src with
  | .front | .twin => count (cPort x.port 32) s
  | _ => s

/-- A frame whose cord a sweep or a walk has freed before handover: it is marked bad and nothing more of it is stored (R247). -/
def cordLost (s : State) : State :=
  { s with frames := ⟨s.frames.entries.map (fun (e : Nat × Frame) =>
      if e.2.stage != .admitted && e.2.head.any (fun b => !(s.link b).alloc) then (e.1, { e.2 with bad := true, complete := true }) else e)⟩ }

/-- Store the bytes received so far of a frame not yet handed over (step 5 of R37): EMPTY truncates it at the bytes already
stored, with COMPLETE and BAD set (R237). -/
def storeFrame (f : Nat) (s : State) : State :=
  match s.frames.find? f with
  | none => s
  | some x =>
    let have_ := match x.head with
      | some b => (s.headW b).billets - b2n (s.headW b).edited
      | none => 0
    let want := dataBillets x.bytes.length
    let q := growCord (alloc x.region (ownerClass x) (ownerTag x) 0xFF) (want - have_) x.head have_ s
    let s1 := q.2.2
    match q.1 with
    | none =>
      -- not one billet: the frame holds nothing and its copies are dropped as bad
      (countEmpty x s1).updFrame f (fun x => { x with bad := true, complete := true, bytes := [] })
    | some b =>
      let h := s1.headW b
      if q.2.1 then
        (s1.setHead b { h with complete := x.complete, bad := x.bad, length := x.bytes.length }).updFrame f
          (fun x => { x with head := some b })
      else
        let s2 := s1.setHead b { h with complete := true, bad := true, length := min x.bytes.length (256 * (h.billets - b2n h.edited)) }
        (countEmpty x s2).updFrame f
          (fun x => { x with head := some b, bad := true, complete := true, bytes := x.bytes.take (256 * (h.billets - b2n h.edited)) })

/-- Drop a frame before admission: its cord, where it has one, is freed with its owner's tag (R231). -/
def dropEarly (f : Nat) (s : State) : State :=
  match s.frames.find? f with
  | none => s
  | some x =>
    let s1 := match x.head with
      | some b => (freeCord (billetRegion b) (b * 256) (ownerTag x) [] s).2.2
      | none => s
    s1.dropFrameRec f

/-- What an ECC check meets as a cord is read (R230): 0 nothing, 2k + 1 a corrected error and 2k + 2 an uncorrectable one in the cord's billet k.
DESIGN CHOICE (log entry 23). -/
def readData (f err : Nat) (s : State) : State :=
  match (s.frames.find? f).bind (·.head) with
  | none => s
  | some b =>
    if err = 0 then s
    else match (cordBillets s 40 b)[(err - 1) / 2]? with
      | none => s
      | some k =>
        let r := billetRegion b
        let i := billetLocal k
        let s1 := linkNote r 2 i (err % 2 = 0) s
        if err % 2 = 1 then report (pBUF r) .corrected s1
        else report (pBUF r) .contained (count (cRegion r 72) (s1.updPool r (fun p => { p with
          retireOnFree := if p.retireOnFree.contains i then p.retireOnFree else i :: p.retireOnFree })))

/-- Whether what a read met marks the copy being read bad. -/
def readBad (err : Nat) : Bool := err != 0 && err % 2 = 0

/-- Mark a frame bad, in its record and in its head word (R89). -/
def markBad (f : Nat) (s : State) : State :=
  match s.frames.find? f with
  | none => s
  | some x =>
    let s1 := s.updFrame f (fun x => { x with bad := true })
    match x.head with
    | some b => s1.setHead b { s1.headW b with bad := true }
    | none => s1

end Sys2Proof.Machine
end

