-- ==== Sys2Proof/Machine/Clock.lean ====
section
/-! DEFINITION. The four time scales as readings of the local counter (R394 to R410, R424): domain times, the phase offset, the
selected time, and the formats they are shown in. -/
namespace Sys2Proof.Machine

/-- The denominator of `Dom.baseN`: with it one unit of the local counter adds `timeDen + ρ` exactly (R397, R405). -/
def timeDen : Nat := 65536000000000000

/-- The local counter. -/
def State.now (s : State) : Nat := s.time.local_

/-- A domain, A for 0 and B otherwise. -/
def State.dom (s : State) (d : Nat) : Dom := if d = 0 then s.time.domA else s.time.domB
/-- Change a domain. -/
def State.updDom (s : State) (d : Nat) (f : Dom → Dom) : State :=
  if d = 0 then { s with time := { s.time with domA := f s.time.domA } }
  else { s with time := { s.time with domB := f s.time.domB } }

/-- T_X at a local counter reading, before rounding down to 1/65,536 ns (R397). -/
def Dom.fine (x : Dom) (l : Nat) : Int := x.baseN + ((l : Int) - x.baseL) * (timeDen + x.rho)

/-- T_X in 1/65,536 ns; the seconds field wraps modulo 2^48 (R397). -/
def timeWrap : Int := 2 ^ 48 * 65536000000000
def Dom.time (x : Dom) (l : Nat) : Nat := ((x.fine l / timeDen) % timeWrap).toNat

/-- P at a local counter reading: it moves towards 0 at SLEW_PPB (R408). DEDUCED (log entry 77). -/
def State.phase (s : State) (l : Nat) : Int :=
  let moved : Int := ((l : Int) - s.time.pL) * (s.rd pTIME F.TIME_SLEW_SLEW_PPB * 65536000 : Nat)
  if 0 ≤ s.time.pN then max 0 (s.time.pN - moved) else min 0 (s.time.pN + moved)

/-- Whether time is banked (R409). -/
def State.banked (s : State) : Bool := s.rdB pTIME F.TIME_STATUS_BANKED

/-- The selected domain. -/
def State.selDom (s : State) : Nat := s.rd pTIME F.TIME_STATUS_SEL_DOM

/-- S before rounding (R398, R424). -/
def State.selFine (s : State) (l : Nat) : Int :=
  if s.banked then s.time.bankN + ((l : Int) - s.time.bankL) * (timeDen + s.time.bankRho)
  else (s.dom s.selDom).fine l + s.phase l

/-- S in 1/65,536 ns at a reading of the local counter. -/
def State.selAt (s : State) (l : Nat) : Nat := ((s.selFine l / timeDen) % timeWrap).toNat

/-- S now. -/
def State.sNow (s : State) : Nat := s.selAt s.now

/-- The common state of a domain (R403), in TIME_STATUS. -/
def State.domState (s : State) (d : Nat) : Nat :=
  if d = 0 then s.rd pTIME F.TIME_STATUS_DOM_A_STATE else s.rd pTIME F.TIME_STATUS_DOM_B_STATE

/-- The values of R403. -/
def dOFF : Nat := 0
def dFREERUN : Nat := 1
def dACQUIRING : Nat := 2
def dLOCKED : Nat := 3
def dLOST : Nat := 4

/-- One instant read in all four scales. -/
def State.stampAt (s : State) (l : Nat) : Stamp :=
  { l := l, a := s.time.domA.time l, b := s.time.domB.time l, s := s.selAt l, valid := true
    aOn := s.domState 0 != dOFF, bOn := s.domState 1 != dOFF }

/-- A time moved by a signed amount, modulo the wrap of the seconds field. -/
def moveTime (t : Nat) (d : Int) : Nat := (((t : Int) + d) % timeWrap).toNat

/-- A stamp captured in steps of 1/64 ns (R400) and corrected by `d` (R401). -/
def Stamp.captured (x : Stamp) (d : Int) : Stamp :=
  let q := fun (t : Nat) => moveTime (t / 1024 * 1024) d
  { x with l := q x.l, a := q x.a, b := q x.b, s := q x.s }

/-- The receive timestamp of a frame whose SFD crosses the reference plane of port `p` now (R399 to R401). -/
def State.rxStamp (s : State) (p : Nat) : Stamp :=
  { (s.stampAt s.now).captured (-(1024 * s.rdS pTIME F.TS_ASYM_RX_ASYM p)) with
    uncal := p < 48 && !s.rdB pTIME F.TS_CAL_RX_CAL_DONE p }

/-- The transmit timestamp of a frame whose SFD crosses the reference plane of port `p` now. -/
def State.txStamp (s : State) (p : Nat) : Stamp := (s.stampAt s.now).captured (1024 * s.rdS pTIME F.TS_ASYM_TX_ASYM p)

/-- A time of 1/65,536 ns as seconds, nanoseconds and fraction (R10). -/
def tSec (t : Nat) : Nat := t / 65536 / 1000000000 % 2 ^ 48
def tNs (t : Nat) : Nat := t / 65536 % 1000000000
def tFrac (t : Nat) : Nat := t % 65536

/-- A time from seconds, nanoseconds and fraction. -/
def timeOf (sec ns frac : Nat) : Nat := (sec * 1000000000 + ns) * 65536 + frac

/-- The 96-bit form of R10: seconds, nanoseconds in 32 bits, fraction in 16. -/
def time96 (t : Nat) : Nat := tSec t * 2 ^ 48 + tNs t * 2 ^ 16 + tFrac t

/-- The local counter advances by one step of 15.625 ps (R394, R434) once the time unit's PLL has locked. DESIGN CHOICE: the
spec names no tick, and every event that time brings is a command of its own. -/
def localTick (s : State) : State :=
  if s.rdB pTIME F.TIME_STATUS_PLL_LOCK then { s with time := { s.time with local_ := s.time.local_ + 1024 } } else s

end Sys2Proof.Machine
end

