-- ==== Sys2Proof/Machine/Micro.lean ====
section
/-! DEFINITION. The micro-instruction word: its fields (R179), its encoder, its selectors (R180) and the legality rule of
R183. The encoder writes the fields where R179 puts them; the decoder reads them there. -/
namespace Sys2Proof.Machine

/-- The fields of a micro-instruction word (R179). `rsvHi` is bits 58:56 and `rsvLo` bits 25:0. -/
structure MI where
  cls : BitVec 4
  func : BitVec 4
  dst : BitVec 6
  srcA : BitVec 6
  srcB : BitVec 6
  mod : BitVec 6
  imm : BitVec 32
  cond : BitVec 4
  setf : BitVec 1
  rsvHi : BitVec 3
  target : BitVec 13
  fofs : BitVec 11
  fwid : BitVec 6
  rsvLo : BitVec 26
  deriving DecidableEq, Repr

/-- The fields of a 128-bit word (R179). -/
def miDecode (w : BitVec 128) : MI where
  cls := w.extractLsb' 124 4
  func := w.extractLsb' 120 4
  dst := w.extractLsb' 114 6
  srcA := w.extractLsb' 108 6
  srcB := w.extractLsb' 102 6
  mod := w.extractLsb' 96 6
  imm := w.extractLsb' 64 32
  cond := w.extractLsb' 60 4
  setf := w.extractLsb' 59 1
  rsvHi := w.extractLsb' 56 3
  target := w.extractLsb' 43 13
  fofs := w.extractLsb' 32 11
  fwid := w.extractLsb' 26 6
  rsvLo := w.extractLsb' 0 26

/-- The word of a set of fields (R179). -/
def miEncode (i : MI) : BitVec 128 :=
  i.cls ++ i.func ++ i.dst ++ i.srcA ++ i.srcB ++ i.mod ++ i.imm ++ i.cond ++ i.setf ++ i.rsvHi
    ++ i.target ++ i.fofs ++ i.fwid ++ i.rsvLo

/-- The opcode: CLASS and FUNC read together as one byte (R179). -/
def MI.opcode (i : MI) : Nat := i.cls.toNat * 16 + i.func.toNat

/-- What an operation uses of its word: DST, SRCA, SRCB, SETF, the largest MOD, the bits of IMM, and the field of FOFS and
FWID (0 none, 64 in a register, 384 in the key). -/
structure OpUse where
  dst : Bool
  a : Bool
  b : Bool
  setf : Bool
  modMax : Nat
  immMask : Nat
  fld : Nat
  deriving DecidableEq, Repr

/-- Every listed opcode (R185 to R191) with its name's use of the word. -/
def opUse (op : Nat) : Option OpUse :=
  match op with
  | 0x00 => some ⟨false, false, false, false, 0, 0, 0⟩            -- NOP
  | 0x01 => some ⟨false, false, false, false, 0, 0, 0⟩            -- RETIRE
  | 0x02 => some ⟨false, false, false, false, 0, 0xF, 0⟩          -- DROPR
  | 0x03 => some ⟨false, false, false, false, 0, 0xFFFFFFFF, 0⟩   -- TRAP_SLOW
  | 0x04 => some ⟨false, false, false, false, 0, 0, 0⟩            -- BRK
  | 0x05 => some ⟨false, false, false, false, 0, 0, 0⟩            -- CALL
  | 0x06 => some ⟨false, false, false, false, 0, 0, 0⟩            -- RETN
  | 0x07 => some ⟨false, true, false, false, 0, 0, 0⟩             -- JIND
  | 0x10 => some ⟨true, true, false, true, 0, 0, 0⟩               -- MOV
  | 0x11 | 0x12 | 0x13 | 0x14 | 0x15 | 0x16 | 0x17 | 0x18 | 0x19 | 0x1A | 0x1B | 0x1C | 0x1F =>
      some ⟨true, true, true, true, 0, 0, 0⟩                      -- ADD .. MAX, MUL
  | 0x1D | 0x1E => some ⟨false, true, true, true, 0, 0, 0⟩        -- CMP, TST
  | 0x20 => some ⟨true, true, false, true, 0, 0, 64⟩              -- EXT
  | 0x21 => some ⟨true, true, true, true, 0, 0, 64⟩               -- INS
  | 0x22 => some ⟨true, true, false, true, 7, 0, 0⟩               -- BSWAP
  | 0x23 | 0x24 => some ⟨true, true, false, true, 0, 0, 0⟩        -- CLZ, POPC
  | 0x25 => some ⟨true, false, false, true, 7, 0, 0⟩              -- HASH
  | 0x30 => some ⟨true, true, false, false, 7, 0xFFFFFFFF, 0⟩     -- HRD
  | 0x31 | 0x32 => some ⟨false, true, true, false, 7, 0xFFFFFFFF, 0⟩  -- HWR, HINS
  | 0x33 => some ⟨false, true, false, false, 63, 0xFFFFFFFF, 0⟩   -- HDEL
  | 0x34 => some ⟨false, false, false, false, 7, 0, 0⟩            -- HFIX
  | 0x40 => some ⟨false, false, false, false, 0, 0, 0⟩            -- KCLR
  | 0x41 => some ⟨false, true, false, false, 0, 0, 384⟩           -- KPUT
  | 0x42 => some ⟨false, true, false, false, 0, 0xFFFFFFFF, 384⟩  -- KHDR
  | 0x50 => some ⟨false, false, false, false, 31, 0x3, 0⟩         -- LEM
  | 0x51 => some ⟨false, false, false, false, 7, 0, 0⟩            -- LPM
  | 0x52 => some ⟨false, false, false, false, 7, 0x3F, 0⟩         -- LTREE
  | 0x53 => some ⟨true, false, false, false, 7, 0, 0⟩             -- WAIT
  | 0x54 | 0x55 => some ⟨false, false, false, false, 0, 0xFF, 0⟩  -- WAITM, TREL
  | 0x60 => some ⟨false, true, false, false, 7, 0, 64⟩            -- SETV
  | 0x61 => some ⟨false, true, true, false, 0, 0xFFFFFFFF, 0⟩     -- CNT
  | 0x62 => some ⟨true, false, false, false, 0, 0x3F, 0⟩          -- SLD
  | 0x63 | 0x64 => some ⟨false, true, false, false, 0, 0x3F, 0⟩   -- SST, SADD
  | _ => none

/-- Whether a selector may be a source (R180). -/
def srcSelOk (n : Nat) : Bool := n < 0x15 || (0x18 ≤ n && n < 0x2C) || (0x30 ≤ n && n < 0x38)
/-- Whether a selector may be a destination (R180). -/
def dstSelOk (n : Nat) : Bool := n < 0x10 || n = 0x12 || n = 0x13 || (0x20 ≤ n && n < 0x2C)

/-- The largest micro-PC (R159). -/
def maxPc : Nat := 4607

/-- Whether an operation may branch to TARGET (R182). -/
def usesTarget (op : Nat) : Bool := !([0x01, 0x02, 0x03, 0x06, 0x07] : List Nat).contains op

/-- Whether a micro-instruction is legal (R183); COND, which some operations ignore, may hold any value in them. DEDUCED (log entry
140). -/
def MI.legal (i : MI) : Bool :=
  match opUse i.opcode with
  | none => false
  | some u =>
    i.rsvHi = 0 && i.rsvLo = 0
    && (if i.cond != 0 && usesTarget i.opcode then i.target.toNat ≤ maxPc else i.target = 0)
    && (if u.dst then dstSelOk i.dst.toNat else i.dst = 0)
    && (if u.a then srcSelOk i.srcA.toNat else i.srcA = 0)
    && (if u.b then srcSelOk i.srcB.toNat else i.srcB = 0)
    && (u.setf || i.setf = 0)
    && i.mod.toNat ≤ u.modMax
    && (i.opcode != 0x22 || [1, 3, 7].contains i.mod.toNat)
    && (let used := u.immMask ||| (if (u.a && (i.srcA = 0x10 || i.srcA = 0x11))
          || (u.b && (i.srcB = 0x10 || i.srcB = 0x11)) then 0xFFFFFFFF else 0)
        i.imm.toNat &&& used = i.imm.toNat)
    && (i.opcode != 0x50 || i.imm != 3)
    && (if u.fld = 0 then i.fofs = 0 && i.fwid = 0 else i.fofs.toNat + i.fwid.toNat < u.fld)

/-- Rotate a 32-bit number left; the amount is taken modulo 32 (R135). -/
def rotl32 (x r : Nat) : Nat :=
  let k := r % 32
  ((x <<< k) ||| (x >>> (32 - k))) % 2 ^ 32

/-- The hash of R135 over the low `32 * n` bits of a key: the word x. -/
def hashX (seed rot n key : Nat) : Nat :=
  (List.range n).foldl (fun x i => rotl32 x rot ^^^ ((key >>> (32 * (n - 1 - i))) % 2 ^ 32)) seed

/-- The bucket of a hash word (R135). -/
def hashBucket (x : Nat) : Nat := (x % 2 ^ 18) ^^^ (x / 2 ^ 18)

/-- A device time in units of 1/65,536 ns in the format of u3 (R164): 16 bits of seconds, 32 of nanoseconds, 16 of fraction. -/
def u3Of (t : Nat) : Nat :=
  let ns := t / 65536
  (ns / 1000000000 % 2 ^ 16) * 2 ^ 48 + (ns % 1000000000) * 2 ^ 16 + t % 65536

/-- Put `w` bits of `v` at bit `o` of `x`. -/
def putBits (x o w v : Nat) : Nat :=
  let m := 2 ^ w - 1
  (x ||| (m <<< o)) - (m <<< o) + ((v % 2 ^ w) <<< o)

/-- The leading zero bits of a 64-bit number (R187). -/
def clz64 (x : Nat) : Nat := if x = 0 then 64 else 63 - x.log2

/-- The bits set in a 64-bit number (R187). -/
def popc64 (x : Nat) : Nat := (List.range 64).foldl (fun n i => n + b2n (x.testBit i)) 0

/-- The order of the low `n` bytes reversed, the others 0 (R187). -/
def bswap (n x : Nat) : Nat :=
  (List.range n).foldl (fun a i => a * 256 + (x >>> (8 * i)) % 256) 0

/-- The Internet checksum of a header whose checksum field reads 0: the one's complement of the one's complement sum of its
16-bit words. -/
def ipSum (b : List Byte) : Nat :=
  let go := fun (a : Nat × Nat) (x : Byte) => (a.1 + (if a.2 % 2 = 0 then x.toNat * 256 else x.toNat), a.2 + 1)
  let t := (b.foldl go (0, 0)).1
  let t := t % 65536 + t / 65536
  t % 65536 + t / 65536

/-- The Ethernet CRC-32 of a byte list (polynomial 0x04C1_1DB7 reflected), as R562 uses it. -/
def crcByte (c : Nat) (b : Byte) : Nat :=
  (List.range 8).foldl (fun c _ => if c % 2 = 1 then (c / 2) ^^^ 0xEDB88320 else c / 2) (c ^^^ b.toNat)
def crc32 (l : List Byte) : Nat := (l.foldl crcByte 0xFFFFFFFF) ^^^ 0xFFFFFFFF

/-- Whether a frame's last four bytes are its FCS. -/
def fcsOk (l : List Byte) : Bool := ofLe (l.drop (l.length - 4)) = crc32 (l.take (l.length - 4))

end Sys2Proof.Machine
end

