-- ==== Sys2Proof/Machine/Headers.lean ====
section
/-! DEFINITION. Header recognition (R105 to R113, R630): the parse record of a frame from its bytes and a region's parser settings.
The layouts of the headers themselves are those of their own standards. -/
namespace Sys2Proof.Machine

/-- What the parser works from: the bytes received, whether they are the whole frame, and the PRS settings of R128. -/
structure PIn where
  d : List Byte
  complete : Bool
  csumEn : Bool
  extra : Option Nat
  vxlan : Nat
  gtpu : Nat
  ecpri : Option Nat
  deriving DecidableEq, Repr

/-- The parse record under construction (R107), the checks left to the tail as (reason, declared end), and whether the parser has
to wait for more bytes. -/
structure PRec where
  mal : Option Nat := none
  slow : Option Nat := none
  vlanCnt : Nat := 0
  mplsCnt : Nat := 0
  l3 : Nat := 0
  l4 : Nat := 0
  tun : Nat := 0
  app : Nat := 0
  ext : Nat := 0
  oTag : Nat := 0xFF
  oMpls : Nat := 0xFF
  oL3 : Nat := 0xFF
  oL4 : Nat := 0xFF
  oTun : Nat := 0xFF
  oInL3 : Nat := 0xFF
  oInL4 : Nat := 0xFF
  oApp : Nat := 0xFF
  inL3 : Nat := 0
  inL4 : Nat := 0
  inVlan : Bool := false
  late : List (Nat × Nat) := []
  more : Bool := false
  deriving DecidableEq, Repr

/-- The 128-bit parse record (R107). -/
def PRec.word (r : PRec) : Nat :=
  (b2n r.mal.isSome) * 2 ^ 127 + (r.mal.getD 0) * 2 ^ 123 + (b2n r.slow.isSome) * 2 ^ 122 + (r.slow.getD 0) * 2 ^ 119
    + r.vlanCnt * 2 ^ 117 + r.mplsCnt * 2 ^ 114 + r.l3 * 2 ^ 111 + r.l4 * 2 ^ 108 + r.tun * 2 ^ 105
    + r.app * 2 ^ 102 + r.ext * 2 ^ 99 + r.oTag * 2 ^ 88 + r.oMpls * 2 ^ 80 + r.oL3 * 2 ^ 72 + r.oL4 * 2 ^ 64
    + r.oTun * 2 ^ 56 + r.oInL3 * 2 ^ 48 + r.oInL4 * 2 ^ 40 + r.oApp * 2 ^ 32 + r.inL3 * 2 ^ 29 + r.inL4 * 2 ^ 26
    + (b2n r.inVlan) * 2 ^ 25

/-- A stage of the parse: a record to go on with, or the record parsing stopped at. -/
abbrev PStep := Except PRec PRec

/-- Stop with a malformed reason (R109, R110). -/
def malStop (r : PRec) (code : Nat) : PStep := .error { r with mal := some code }
/-- Record a slow-path case, the first in header order (R113). -/
def slowCase (r : PRec) (code : Nat) : PRec := if r.slow.isSome then r else { r with slow := some code }

/-- The next header ends at `e`: it must lie within the window, else it is not checked (R110), before the FCS (TRUNC_HDR), and
have been received. The fields of a header that runs past the window stay absent. DEDUCED (log entry 132). -/
def need (i : PIn) (r : PRec) (e : Nat) : PStep :=
  if 256 < e then .error (slowCase r 4)
  else if i.complete && i.d.length < e + 4 then malStop r 0x0
  else if !i.complete && i.d.length < e + 4 then .error { r with more := true }
  else .ok r

/-- A declared end against the frame's end before the FCS: at once where it is known, else left to the tail (R630), also where
another check of the header then stops the parse. DEDUCED (log entry 135). -/
def within (i : PIn) (r : PRec) (e code : Nat) : PStep :=
  if e + 4 ≤ i.d.length then .ok r
  else if i.complete then malStop r code
  else .ok { r with late := r.late ++ [(code, e)] }

def be16 (i : PIn) (o : Nat) : Nat := beAt i.d o 2

/-- The eCPRI, RoE and PTP common headers; `typ` is APP_TYPE. -/
def parseApp (i : PIn) (r : PRec) (o typ : Nat) : PStep := do
  let fin := fun (r : PRec) => { r with app := typ, oApp := o }
  if typ = 1 || typ = 2 then
    let r ← need i r (o + 4)
    if byteAt i.d o / 16 != 1 then malStop r 0xD
    else do let r ← within i r (o + 4 + be16 i (o + 2)) 0xD; .ok (fin r)
  else if typ = 3 then
    let r ← need i r (o + 8)
    let r ← within i r (o + 8 + be16 i (o + 2)) 0xE
    .ok (fin r)
  else
    let r ← need i r (o + 34)
    if byteAt i.d (o + 1) % 16 != 2 then malStop r 0xF
    else do let r ← within i r (o + be16 i (o + 2)) 0xF; .ok (fin r)

/-- L4 types of R107 by protocol number; none for a number R105 does not list. -/
def l4Type (proto : Nat) (v6 : Bool) : Option Nat :=
  if proto = 17 then some 1 else if proto = 6 then some 2 else if proto = 132 then some 3
  else if (!v6 && proto = 1) || (v6 && proto = 58) then some 4
  else if v6 && proto = 59 then some 5 else none

/-- The L4 header at `o` of an IP payload ending at `e`; answers the UDP destination port and end where it is UDP.
An ICMP or ICMPv6 header is 4 bytes. PRESUMED (log entry 130). -/
def parseL4 (i : PIn) (r : PRec) (proto o e : Nat) (inner v6 : Bool) : Except PRec (PRec × Option (Nat × Nat)) := do
  let fin := fun (r : PRec) (t : Nat) =>
    if inner then { r with inL4 := t, oInL4 := if t = 5 then 0xFF else o }
    else { r with l4 := t, oL4 := if t = 5 then 0xFF else o }
  match l4Type proto v6 with
  | none => .error (slowCase r 3)
  | some 1 =>
    let r ← need i r (o + 8)
    let n := be16 i (o + 4)
    if n < 8 || e < o + n then .error { r with mal := some 0xA }
    else .ok (fin r 1, some (be16 i (o + 2), o + n))
  | some 2 =>
    let r ← need i r (o + 20)
    let n := byteAt i.d (o + 12) / 16
    let r ← need i r (o + max 20 (4 * n))
    if n < 5 then .error { r with mal := some 0xA } else .ok (fin r 2, none)
  | some 3 => do let r ← need i r (o + 12); .ok (fin r 3, none)
  | some 4 => do let r ← need i r (o + 4); .ok (fin r 4, none)
  | some t => .ok (fin r t, none)

/-- IPv4 at `o`: the protocol, the payload's start and its declared end. A fragment with options is a FRAGMENT. DEDUCED (log
entry 131). -/
def parseIp4 (i : PIn) (r : PRec) (o : Nat) (inner byType : Bool) : Except PRec (PRec × Nat × Nat × Nat) := do
  let r ← need i r (o + 20)
  let ihl := byteAt i.d o % 16
  let hl := if ihl < 5 then 20 else 4 * ihl
  let r ← need i r (o + hl)
  let tot := be16 i (o + 2)
  if byType && byteAt i.d o / 16 != 4 then .error { r with mal := some 0x3 }
  else if ihl < 5 then .error { r with mal := some 0x4 }
  else if tot < hl then .error { r with mal := some 0x5 }
  else
    let r ← within i r (o + tot) 0x5
    if i.csumEn && ipSum (slice i.d o hl) != 0xFFFF then .error { r with mal := some 0x6 }
    else
      let r := if inner then { r with inL3 := 1, oInL3 := o } else { r with l3 := 1, oL3 := o }
      if be16 i (o + 6) % 0x4000 != 0 then .error (slowCase r 1)
      else
        let r := if 5 < ihl then slowCase r 2 else r
        .ok (r, byteAt i.d (o + 9), o + hl, o + tot)

/-- The extension headers of an IPv6 header (R105): `fuel` counts those still allowed. -/
def parseExt (i : PIn) (inner : Bool) : Nat → PRec → Nat → Nat → Except PRec (PRec × Nat × Nat)
  | fuel, r, nh, o =>
    if !(nh = 0 || nh = 43 || nh = 44 || nh = 60) then .ok (r, nh, o)
    else do
      let r ← if nh = 44 then Except.ok r else need i r (o + 2)
      let n := if nh = 44 then 8 else 8 * (byteAt i.d (o + 1) + 1)
      let r ← need i r (o + n)
      match fuel with
      | 0 => .error { r with mal := some 0x9 }
      | f + 1 =>
        let r := if inner then r else { r with ext := r.ext + 1 }
        let r := if nh = 0 then slowCase r 2 else r
        if nh = 44 then .error (slowCase r 1)
        else parseExt i inner f r (byteAt i.d o) (o + n)

/-- IPv6 at `o`. -/
def parseIp6 (i : PIn) (r : PRec) (o : Nat) (inner byType : Bool) : Except PRec (PRec × Nat × Nat × Nat) := do
  let r ← need i r (o + 40)
  if byType && byteAt i.d o / 16 != 6 then .error { r with mal := some 0x7 }
  else
    let e := o + 40 + be16 i (o + 4)
    let r ← within i r e 0x8
    let r := if inner then { r with inL3 := 2, oInL3 := o } else { r with l3 := 2, oL3 := o }
    let q ← parseExt i inner 4 r (byteAt i.d (o + 6)) (o + 40)
    .ok (q.1, q.2.1, q.2.2, e)

/-- An inner IP packet (R106). -/
def parseInnerIp (i : PIn) (r : PRec) (o : Nat) (v4 byType : Bool) : PStep := do
  if v4 then
    let q ← parseIp4 i r o true byType
    let z ← parseL4 i q.1 q.2.1 q.2.2.1 q.2.2.2 true false
    .ok z.1
  else
    let q ← parseIp6 i r o true byType
    let z ← parseL4 i q.1 q.2.1 q.2.2.1 q.2.2.2 true true
    .ok z.1

/-- The extension headers of a GTP-U header ending at `e`: the offset after the last one. -/
def parseGtpExt (i : PIn) (e : Nat) : Nat → PRec → Nat → Nat → Except PRec (PRec × Nat)
  | fuel, r, nt, o =>
    if nt = 0 || e ≤ o then .ok (r, o)
    else do
      let r ← need i r (o + 1)
      let n := 4 * byteAt i.d o
      let r ← need i r (min (o + n) e)
      match fuel with
      | 0 => .error { r with mal := some 0x9 }
      | f + 1 =>
        if n = 0 then .error { r with mal := some 0xC }
        else parseGtpExt i e f r (if o + n ≤ e then byteAt i.d (o + n - 1) else 0) (o + n)

/-- GTP-U at `o` in a UDP payload ending at `e` (R106, R109). An inner IP header is held to the frame's end alone. DEDUCED (log
entry 133). -/
def parseGtp (i : PIn) (r : PRec) (o e : Nat) : PStep := do
  let r ← need i r (o + 8)
  let b := byteAt i.d o
  let ge := o + 8 + be16 i (o + 2)
  let opt := b % 8 != 0
  let p := if opt then min (o + 12) ge else o + 8
  let r ← if opt && p = o + 12 then need i r p else Except.ok r
  if b / 32 != 1 || !b.testBit 4 || e < ge then malStop r 0xC
  else
    let nt := if opt && p = o + 12 && b.testBit 2 then byteAt i.d (o + 11) else 0
    let q ← parseGtpExt i ge 4 r nt p
    let r := { q.1 with tun := 2, oTun := o }
    if ge ≤ q.2 then .ok r
    else
      let r ← need i r (q.2 + 1)
      let nib := byteAt i.d q.2 / 16
      if nib = 4 then parseInnerIp i r q.2 true false
      else if nib = 6 then parseInnerIp i r q.2 false false
      else .ok r

/-- Whether a type field is a VLAN TPID (R105). -/
def isTpid (i : PIn) (t : Nat) : Bool := t = 0x8100 || t = 0x88A8 || i.extra = some t

/-- VXLAN at `o`, and its inner Ethernet header (R106). -/
def parseVxlan (i : PIn) (r : PRec) (o : Nat) : PStep := do
  let r ← need i r (o + 8)
  if !(byteAt i.d o).testBit 3 then malStop r 0xC
  else
    let r := { r with tun := 1, oTun := o }
    let q := o + 8
    let r ← need i r (q + 14)
    if byteAt i.d (q + 6) % 2 = 1 then malStop r 0xB
    else
      let tagged := isTpid i (be16 i (q + 12))
      let r ← if tagged then need i r (q + 18) else Except.ok r
      if tagged && isTpid i (be16 i (q + 16)) then do
        let r ← need i r (q + 22)
        malStop { r with inVlan := true } 0x1
      else
        let r := { r with inVlan := tagged }
        let t := if tagged then be16 i (q + 16) else be16 i (q + 12)
        let n := if tagged then q + 18 else q + 14
        if t = 0x0800 then parseInnerIp i r n true true
        else if t = 0x86DD then parseInnerIp i r n false true
        else .ok r

/-- What follows an outer UDP header (R105). -/
def parseUdp (i : PIn) (r : PRec) (o port e : Nat) : PStep :=
  if port = i.gtpu then parseGtp i r (o + 8) e
  else if port = i.vxlan then parseVxlan i r (o + 8)
  else if i.ecpri = some port then parseApp i r (o + 8) 2
  else if port = 319 then parseApp i r (o + 8) 5
  else if port = 320 then parseApp i r (o + 8) 6
  else .ok r

/-- An outer IP packet. -/
def parseOuterIp (i : PIn) (r : PRec) (o : Nat) (v4 byType : Bool) : PStep := do
  let q ← if v4 then parseIp4 i r o false byType else parseIp6 i r o false byType
  let z ← parseL4 i q.1 q.2.1 q.2.2.1 q.2.2.2 false (!v4)
  match z.2 with
  | some (port, e) => parseUdp i z.1 q.2.2.1 port e
  | none => .ok z.1

/-- The label stack from `o`: `fuel` labels are still allowed. -/
def parseMpls (i : PIn) : Nat → PRec → Nat → PStep
  | fuel, r, o => do
    let r ← need i r (o + 4)
    match fuel with
    | 0 => malStop r 0x2
    | f + 1 =>
      let r := { r with mplsCnt := r.mplsCnt + 1, oMpls := if r.mplsCnt = 0 then o else r.oMpls }
      if byteAt i.d (o + 2) % 2 = 0 then parseMpls i f r (o + 4)
      else
        let r ← need i r (o + 5)
        let nib := byteAt i.d (o + 4) / 16
        if nib = 4 then parseOuterIp i r (o + 4) true false
        else if nib = 6 then parseOuterIp i r (o + 4) false false
        else .ok r

/-- The outer VLAN tags from the type field at `p`: `fuel` tags are still allowed; answers the offset of the EtherType. -/
def parseTags (i : PIn) : Nat → PRec → Nat → Except PRec (PRec × Nat)
  | fuel, r, p =>
    if !isTpid i (be16 i p) then .ok (r, p)
    else do
      let r ← need i r (p + 4)
      match fuel with
      | 0 => .error { r with mal := some 0x1 }
      | f + 1 =>
        let r ← need i { r with vlanCnt := r.vlanCnt + 1, oTag := if r.vlanCnt = 0 then p else r.oTag } (p + 6)
        parseTags i f r (p + 4)

/-- The whole frame (R105). -/
def parseEth (i : PIn) : PStep := do
  let r ← need i {} 14
  if byteAt i.d 6 % 2 = 1 then malStop r 0xB
  else
    let q ← parseTags i 3 r 12
    let t := be16 i q.2
    let o := q.2 + 2
    let r := q.1
    if t = 0x0800 then parseOuterIp i r o true true
    else if t = 0x86DD then parseOuterIp i r o false true
    else if t = 0x8847 || t = 0x8848 then parseMpls i 6 r o
    else if t = 0xAEFE then parseApp i r o 1
    else if t = 0xFC3D then parseApp i r o 3
    else if t = 0x88F7 then parseApp i r o 4
    else .ok r

/-- The parse record of a frame. -/
def parseFrame (i : PIn) : PRec :=
  match parseEth i with
  | .ok r => r
  | .error r => r

/-- What the port cell sees of a frame at step 1 (R90, R372, R412): the outer tag, and the offset and type after at most two
tags under the TPIDs of R105 and, for R372, an R-TAG. -/
structure PortView where
  tag : Option Nat
  tagEnd : Nat
  rtag : Option (Nat × Nat)
  etype : Nat
  pay : Nat
  deriving DecidableEq, Repr

/-- The offset after at most two VLAN tags in the first 128 bytes. -/
def skipTags (d : List Byte) (extra : Option Nat) : Nat → Nat → Nat
  | 0, p => p
  | f + 1, p =>
    let t := beAt d p 2
    if (t = 0x8100 || t = 0x88A8 || extra = some t) && p + 6 ≤ 128 && p + 6 ≤ d.length then skipTags d extra f (p + 4) else p

def portView (d : List Byte) (extra : Option Nat) : PortView :=
  let p := skipTags d extra 2 12
  let t0 := beAt d 12 2
  let rt := beAt d p 2 = 0xF1C1 && p + 8 ≤ 128 && p + 8 ≤ d.length
  let q := if rt then p + 6 else p
  { tag := if t0 = 0x8100 || t0 = 0x88A8 then some (beAt d 14 2) else none
    tagEnd := p
    rtag := if rt then some (p, beAt d (p + 4) 2) else none
    etype := beAt d q 2
    pay := q + 2 }

end Sys2Proof.Machine
end

