-- ==== Sys2Proof/Machine/FrameOps.lean ====
section
/-! DEFINITION. Frames and ports as every later step sees them: port rates and link states, staged edits applied to the bytes
(R176, R177), lengths, and what the egress port cell would transmit. -/
namespace Sys2Proof.Machine

/-! ### Ports -/

/-- The link states of R81. -/
def lDISABLED : Nat := 0
def lTRAINING : Nat := 1
def lUP_FILTER : Nat := 2
def lUP : Nat := 3
def lDOWN_FILTER : Nat := 4
def lDOWN : Nat := 5

/-- LINK_STATE of a front-panel port, or of management port `p - 48`. -/
def State.link_ (s : State) (p : Nat) : Nat :=
  if p < 48 then s.rd (pPORT (portRegion p)) F.PORT_STATUS_LINK_STATE (portCell p)
  else s.rd pHIF F.HIF_MGMT_STATUS_LINK_STATE (p - 48)

/-- Write LINK_STATE. -/
def setLink_ (p l : Nat) (s : State) : State :=
  if p < 48 then s.wr (pPORT (portRegion p)) F.PORT_STATUS_LINK_STATE l (portCell p)
  else s.wr pHIF F.HIF_MGMT_STATUS_LINK_STATE l (p - 48)

/-- Whether a port is up for every other block (R82). -/
def State.portUp (s : State) (p : Nat) : Bool := s.link_ p = lUP || s.link_ p = lDOWN_FILTER

/-- A port's rate in bits per µs, by SPEED of R102. -/
def speedRate (code : Nat) : Nat :=
  match code with
  | 1 => 10000 | 2 => 25000 | 3 => 50000 | 4 => 100000 | 5 => 200000 | 6 => 400000 | _ => 0

/-- The SPEED code of a port cell from a quad layout (R76): `mode`, the lane position, and the single-lane type. -/
def layoutSpeed (mode k single : Nat) : Nat :=
  match mode with
  | 0 => single + 1
  | 1 => if k = 0 then 4 else 0
  | 2 => if k = 0 then 5 else 0
  | 3 => if k = 0 || k = 2 then 5 else 0
  | 4 => if k = 0 then 6 else 0
  | 5 => if k = 0 then 5 else if k = 1 then 0 else single + 1
  | _ => 0

/-- The lanes of the port a lane position belongs to, in a layout: the port's lowest position. -/
def layoutPort (mode k : Nat) : Option Nat :=
  match mode with
  | 0 => some k
  | 1 | 2 | 4 => some 0
  | 3 => some (k / 2 * 2)
  | 5 => some (if k < 2 then 0 else k)
  | _ => none

/-- The fields of QUAD_LANE by lane position. -/
def laneSpeedF (k : Nat) : Field := match k with
  | 0 => F.QUAD_LANE_SPEED0 | 1 => F.QUAD_LANE_SPEED1 | 2 => F.QUAD_LANE_SPEED2 | _ => F.QUAD_LANE_SPEED3
def laneFecF (k : Nat) : Field := match k with
  | 0 => F.QUAD_LANE_FEC0 | 1 => F.QUAD_LANE_FEC1 | 2 => F.QUAD_LANE_FEC2 | _ => F.QUAD_LANE_FEC3
def laneAnF (k : Nat) : Field := match k with
  | 0 => F.QUAD_LANE_AN_EN0 | 1 => F.QUAD_LANE_AN_EN1 | 2 => F.QUAD_LANE_AN_EN2 | _ => F.QUAD_LANE_AN_EN3

/-- The SPEED code of a front-panel port as its quad stands. -/
def State.speed (s : State) (p : Nat) : Nat :=
  let g := pPORT (portRegion p)
  let q := portCell p / 4
  layoutSpeed (s.rd g F.QUAD_MODE_MODE q) (p % 4) (s.rd g (laneSpeedF (p % 4)) q)

/-- The rate of a port; the management ports run at 10 Gb/s unless their MODE says 1 Gb/s. -/
def State.rate (s : State) (p : Nat) : Nat :=
  if p < 48 then speedRate (s.speed p) else if s.rd pHIF F.HIF_MGMT_CFG_MODE (p - 48) = 1 then 1000 else 10000

/-- A port's working state. -/
def State.port (s : State) (p : Nat) : PortSt := s.ports.get {} p
/-- Change a port's working state. -/
def State.updPort (s : State) (p : Nat) (f : PortSt → PortSt) : State :=
  { s with ports := s.ports.upd {} p f }

/-- Whether preemption is active on a port (R93). -/
def preemptActive (s : State) (p : Nat) : Bool :=
  p < 48 &&
  (let g := pPORT (portRegion p)
   let i := portCell p
   s.rdB g F.PORT_PREEMPT_PREEMPT_EN i && s.link_ p = lUP
    && (s.rdB g F.PORT_PREEMPT_VERIFY_DIS i || s.rd g F.PORT_STATUS_VERIFY_STATUS i = 3))

/-- Whether class `c` is express on a port (R92). -/
def isExpress (s : State) (p c : Nat) : Bool :=
  c = 7 || (s.rd (pPORT (portRegion p)) F.PORT_PREEMPT_EXPRESS_MASK (portCell p)).testBit c

/-! ### Edits -/

/-- One edit on a header (R188): its bytes after it. -/
def Edit.apply (e : Edit) (h : List Byte) : List Byte :=
  match e with
  | .write o b => h.take o ++ b ++ h.drop (o + b.length)
  | .insert o b => h.take o ++ b ++ h.drop o
  | .delete o n => h.take o ++ h.drop (o + n)

/-- The net change of length of an edit. -/
def Edit.net : Edit → Int
  | .write _ _ => 0
  | .insert _ b => b.length
  | .delete _ n => -(n : Int)

/-- Where a byte position stands after an edit; none when the edit deletes it. -/
def Edit.move (e : Edit) (p : Nat) : Option Nat :=
  match e with
  | .write _ _ => some p
  | .insert o b => some (if o ≤ p then p + b.length else p)
  | .delete o n => if p < o then some p else if p < o + n then none else some (p - n)

/-- Edits in their order of staging (R176). -/
def applyEdits (es : List Edit) (h : List Byte) : List Byte := es.foldl (fun h e => e.apply h) h
def moveAll (es : List Edit) (p : Nat) : Option Nat :=
  es.foldl (fun q e => q.bind e.move) (if p = 0xFF then none else some p)
def netChange (es : List Edit) : Int := es.foldl (fun n e => n + e.net) 0

/-- Write bytes over a byte list. -/
def overwrite (h : List Byte) (o : Nat) (b : List Byte) : List Byte := h.take o ++ b ++ h.drop (o + b.length)

/-- Recompute an IPv4 header's checksum at an offset (R177). -/
def fixIp (o : Nat) (h : List Byte) : List Byte :=
  let hl := 4 * (byteAt h o % 16)
  if o + hl ≤ h.length && 20 ≤ hl then
    let z := overwrite h (o + 10) [0, 0]
    overwrite z (o + 10) (beBytes 2 (0xFFFF - ipSum (slice z o hl)))
  else h

/-- The fix-ups of R177 at the places the edits left their headers, by the parse record. -/
def applyFixups (fix prec : Nat) (es : List Edit) (h : List Byte) : List Byte :=
  let fld := fun (lo : Nat) => prec / 2 ^ lo % 256
  let h1 := match (if fix.testBit 0 && prec / 2 ^ 111 % 8 = 1 then moveAll es (fld 72) else none) with
    | some o => fixIp o h | none => h
  let h2 := match (if fix.testBit 1 && prec / 2 ^ 29 % 8 = 1 then moveAll es (fld 48) else none) with
    | some o => fixIp o h1 | none => h1
  match (if fix.testBit 2 && prec / 2 ^ 111 % 8 = 1 && prec / 2 ^ 108 % 8 = 1 then moveAll es (fld 64) else none) with
  | some o => overwrite h2 (o + 6) [0, 0]
  | none => h2

/-- A frame's bytes without its FCS. -/
def Frame.body (x : Frame) : List Byte := x.bytes.take (x.bytes.length - 4)

/-- A frame's bytes after its routine's edits, without the FCS and without padding. -/
def Frame.edited (x : Frame) : List Byte :=
  applyFixups x.fixups x.prec x.edits (applyEdits x.edits x.body)

/-- Pad to 60 bytes, so that the frame with its FCS has 64 (R176). -/
def padFrame (b : List Byte) : List Byte := b ++ List.replicate (60 - b.length) 0

/-- TRUNC of a mirror session, where it truncates (R271). -/
def mirrorTrunc (s : State) (m : Nat) (b : List Byte) : List Byte :=
  let n := s.rd (pRPL 0) F.RPL_MIR_B_TRUNC m
  if n = 0 then b else b.take (n - 4)

/-- The bytes a copy puts on the wire before its FCS, but for the edits of the egress port cell: an ingress mirror copy carries the
frame as received (R269, R271), and so does the further copy of R630. -/
def copyBytes (s : State) (x : Frame) (c : Copy) : List Byte :=
  match c.mirror with
  | some k =>
    if s.rdB (pRPL 0) F.RPL_MIR_A_DIR k then padFrame (mirrorTrunc s k x.edited)
    else padFrame (mirrorTrunc s k x.body)
  | none => padFrame (if c.late then x.body else x.edited)

/-- Lmax of a copy whose tail is not stored (R324). -/
def lmaxOf (s : State) (x : Frame) : Nat :=
  min 9728 ((s.rd (pPORT (portRegion x.port)) F.PORT_CFG_MAX_LEN (portCell x.port) : Int) + netChange x.edits).toNat

end Sys2Proof.Machine
end

