-- ==== Sys2Proof/Machine/QueueOps.lean ====
section
/-! DEFINITION. The shared operations of queues: counts, drops, head-of-queue decisions with the eliminator (R380) and the window
test (R327), the turf store (R353 to R355), and what a queue does when its port goes down and returns (R273, R274, R347). -/
namespace Sys2Proof.Machine

/-! ### Queue entries -/

def State.queue (s : State) (q : Nat) : Queue := s.queues.get {} q
/-- The egress port, class group and region of a queue (R253, R254). -/
def State.qPort (s : State) (q : Nat) : Nat := s.rd (wQUEUE q) F.Q_CFG_PORT
def State.qClass (s : State) (q : Nat) : Nat := s.rd (wQUEUE q) F.Q_CFG_CLASS
def State.qRegion (s : State) (q : Nat) : Nat := portRegion (s.qPort q)

/-- Billets a list of copies counts. -/
def copiesBillets (l : List Copy) : Nat := l.foldl (fun n c => n + c.billets) 0

/-- The valid forwarding entry that names a queue as LOCAL_Q (R450). -/
def fwdEntry (s : State) (q : Nat) : Option Nat :=
  (List.range 256).find? (fun k => s.rdB pMATE F.MATE_FWD_0_VALID k && s.rd pMATE F.MATE_FWD_0_LOCAL_Q k = q)

/-- Whether the mate link carries a queue's copies: the state of its port then counts for nothing (R450, R575). -/
def forwarded (s : State) (q : Nat) : Bool := s.rdB pMATE F.MATE_STATUS_FWD_ACTIVE && (fwdEntry s q).isSome

/-- Whether the mate link is UP. -/
def mateUp (s : State) : Bool := s.rd pMATE F.MATE_STATUS_LINK_STATE = lUP

/-- Whether what a queue sends on stands up for admission and the down-policy; and whether it may send. -/
def wayUp (s : State) (q : Nat) : Bool := forwarded s q || s.portUp (s.qPort q)
def drainUp (s : State) (q : Nat) : Bool := if forwarded s q then mateUp s else s.link_ (s.qPort q) = lUP

/-- DSTATE of a queue as R277 shows it: 0 while its port is up. -/
def State.dstate (s : State) (q : Nat) : Nat :=
  if wayUp s q then 0
  else match (s.queue q).dstate with
    | .follow => 1 | .holding => 2 | .expired => 3 | .spilled => 4

/-- The hold time a queue has left, in 10 µs steps (R277). -/
def State.holdLeft (s : State) (q : Nat) : Nat := if s.dstate q = 2 then ((s.queue q).holdEnd - s.now) / (10 * usU) else 0

/-- Bring a queue entry's counts and states up to its parts (R256, R277, R368). -/
def syncQueue (q : Nat) (s : State) : State :=
  let x := s.queue q
  let w := wQUEUE q
  let s1 := s.wr w F.Q_W8_BILLETS (copiesBillets x.front + copiesBillets x.back)
  let s2 := s1.wr w F.Q_W11_FRAMES (min 131071 (x.front.length + x.back.length))
  let s3 := s2.wr w F.Q_SPILL_STAT_PEAT_FRAMES (min 0x3FFFFFFF x.peat.length)
  let s4 := s3.wr w F.Q_W10_AGE_PENDING (b2n (x.front.any (·.marked)))
  let s5 := s4.wr w F.Q_W10_DSTATE (s.dstate q)
  let s6 := s5.wr w F.Q_W10_HOLD_LEFT (s.holdLeft q)
  s6.wr w F.Q_SPILL_STAT_SPILL_STATE
    (if !x.spill then 0 else if stateIn s pPEAT [.fenced, .reinit, .halted] then 3
     else if drainUp s q then 1 else 2)

/-- SUBSTATE of the PEAT block: the queues in spill mode (R366). -/
def syncPeat (s : State) : State :=
  s.updPage pPEAT (fun h => { h with
    substate := min 255 (s.queues.entries.foldl (fun n e => n + b2n e.2.spill) 0) })

/-- Change a queue's working state. -/
def State.updQueue (s : State) (q : Nat) (f : Queue → Queue) : State :=
  syncPeat (syncQueue q { s with queues := s.queues.upd {} q f })

/-- The queues that hold anything or have a written entry. -/
def knownQueues (s : State) : List Nat :=
  (s.queues.keys ++ s.reg.op.entries.filterMap (fun (e : Nat × Nat) =>
    let p := e.1 / 32768
    if 0x10000 ≤ p && p < 0x20000 then some (p - 0x10000) else none)).eraseDups

/-- The queues of a port. -/
def portQueues (s : State) (p : Nat) : List Nat := (knownQueues s).filter (fun q => s.qPort q = p)

/-! ### Dropped copies (R261) -/

/-- Count in a (port, class) counter of the queue (R557). -/
def countPC (q k : Nat) (s : State) : State := count (cPC (s.qPort q) (s.qClass q) k) s

/-- Count a copy that leaves a queue, or admission, untransmitted: DROP_FRAMES and its reason. DEDUCED (log entry 116). -/
def countDrop (q k : Nat) (s : State) : State := countPC q k (count (cQueue q 1) s)

/-- The outcome of a host frame's TX slot is final (R505). -/
def txReport (f status reason : Nat) (rec_ : Option (List Byte)) (s : State) : State :=
  match s.frames.find? f with
  | some x => match x.ring with
    | some (r, i) =>
      { s with hif := { s.hif with dones := s.hif.dones ++ [(⟨r, i, status, reason, rec_⟩ : TxDone)] } }.updFrame f (fun x => { x with tsReq := false })
    | none => s
  | none => s

/-- A copy gives up its share of the cord. One whose TX slot still awaits its transmission was dropped (R505, REASON 0x0A). -/
def releaseCopy (c : Copy) (s : State) : State :=
  decCord c.frame c.gen (match s.frames.find? c.frame with
    | some x => if x.tsReq && c.mirror.isNone then txReport c.frame 1 0x0A none s else s
    | none => s)

/-- Whether a copy is of an old slice generation (R479). -/
def oldGen (s : State) (c : Copy) : Bool :=
  match s.frames.find? c.frame with
  | none => true
  | some x => match x.head with
    | some b => c.gen != (s.pool (billetRegion b)).gen
    | none => true

/-! ### Recovery entries (R378 to R387) -/

/-- The windows' entries with a given one-bit field set, by number. -/
def listedEntries (s : State) (base n : Nat) (f : Field) : List Nat :=
  s.reg.op.entries.filterMap (fun (e : Nat × Nat) =>
    let p := e.1 / 32768
    if base ≤ p && p < base + n && e.1 = fkey p f 0 0 && e.2 = 1 then some (p - base) else none)

/-- The valid recovery entries. -/
def validRecov (s : State) : List Nat := listedEntries s 0x30000 4096 F.REC_VALID

/-- The valid entry that names stream `h` and queue `q` as QUEUE, or as TWIN_Q. -/
def recovOf (s : State) (h q : Nat) : Option Nat :=
  (validRecov s).find? (fun k => s.rd (wRECOV k) F.REC_STREAM = h
    && (s.rd (wRECOV k) F.REC_QUEUE = q || s.rd (wRECOV k) F.REC_TWIN_Q = q))

/-- A recovery entry's counts. -/
def State.rec_ (s : State) (k : Nat) : RecSt := s.recov.get {} k
def State.updRec (s : State) (k : Nat) (f : RecSt → RecSt) : State :=
  (fun (t : State) => t.wr (wRECOV k) F.REC_HOLDING (b2n (t.rec_ k).holdAt.isSome))
    { s with recov := s.recov.upd {} k f }

/-- The 64-bit history of an entry. -/
def recHist (s : State) (k : Nat) : Nat :=
  s.rd (wRECOV k) F.REC_HIST_LO + 2 ^ 32 * s.rd (wRECOV k) F.REC_HIST_HI
def setHist (k v : Nat) (s : State) : State :=
  (s.wr (wRECOV k) F.REC_HIST_LO (v % 2 ^ 32)).wr (wRECOV k) F.REC_HIST_HI (v / 2 ^ 32 % 2 ^ 32)

/-- NEXT advances: the hold timer stops (R381). -/
def setNext (k v : Nat) (s : State) : State :=
  (s.wr (wRECOV k) F.REC_NEXT (v % 65536)).updRec k (fun x => { x with holdAt := none })

/-- What the eliminator makes of a sequence number (R380). -/
inductive Verdict380 where
  | any | expected | duplicate | late | early (d : Nat) | rogue
  deriving DecidableEq, Repr

/-- The row of R380 that applies. -/
def decide380 (takeAny : Bool) (next hist seq : Nat) : Verdict380 :=
  if takeAny then .any
  else
    let d := toSigned 16 ((seq + 65536 - next) % 65536)
    if d = 0 then .expected
    else if -64 ≤ d && d ≤ -1 then (if hist.testBit (-d - 1).toNat then .duplicate else .late)
    else if 1 ≤ d && d ≤ 63 then .early d.toNat
    else .rogue

/-- The d = 0 row. -/
def deliver380 (k seq : Nat) (s : State) : State :=
  ((count (cRecov k 0) (setNext k (seq + 1) (setHist k ((recHist s k * 2 + 1) % 2 ^ 64) s))).updRec k
    (fun x => { x with passed := x.passed + 1 }))

/-! ### The window test (R320, R326, R327) -/

/-- D(L) in device-time units of 1/65,536 ns, rounded up, for a length including the FCS (R320). -/
def wireTime (rate bytes : Nat) : Nat := if rate = 0 then 0 else (bytes * 8 * usU + rate - 1) / rate

/-- F of R320. -/
def fragMin (s : State) (p : Nat) : Nat :=
  64 * (1 + s.rd (pPORT (portRegion p)) F.PORT_PREEMPT_ADD_FRAG_SIZE (portCell p)) - 4

/-- Whether `len` bytes of class `c` left to send are splittable (R320). -/
def splittable (s : State) (p c len : Nat) : Bool :=
  preemptActive s p && !isExpress s p c && fragMin s p + 64 ≤ len

/-- Whether a copy of known length is too long for its class's longest window (R327). -/
def tooLong (s : State) (p c len : Nat) : Bool :=
  let g := pPORT (portRegion p)
  let w := s.rd g F.GATE_MAXWIN_W (portCell p) c
  w != 0x3FFFFFFF && w * nsU < wireTime (s.rate p) (len + 20)
    && !(splittable s p c len && wireTime (s.rate p) (fragMin s p + 24) ≤ w * nsU)

/-- Whether a copy is of its frame's stream: mirror copies and further copies are not, and meet no eliminator (R271, R378). -/
def Copy.ofStream (c : Copy) : Bool := c.mirror.isNone && !c.late

/-- Whether a delivered copy carries an R-TAG (R385). -/
def tagOut (s : State) (q : Nat) (c : Copy) (x : Frame) : Bool :=
  c.ofStream && match x.handle with
  | some h => match recovOf s h q with
    | some k => s.rdB (wRECOV k) F.REC_TAG_OUT && x.seq.isSome
    | none => false
  | none => false

/-- The length a copy of queue `q` is transmitted with, the FCS among it; none while its tail is not stored. -/
def copyLen (s : State) (q : Nat) (c : Copy) : Option Nat :=
  match s.frames.find? c.frame with
  | none => some 64
  | some x =>
    if !x.complete then none
    else some ((copyBytes s x c).length + 4 + (if tagOut s q c x then 6 else 0))

/-! ### The head of a queue (R89, R274, R328, R380, R479) -/

/-- Take the head off a queue's FRONT part. -/
def popFront (q : Nat) (s : State) : State := s.updQueue q (fun x => { x with front := x.front.drop 1 })

/-- Mark the head of FRONT as delivered by an entry. -/
def markDelivered (q k : Nat) (s : State) : State :=
  s.updQueue q (fun x => { x with front := match x.front with
    | c :: t => { c with recov := some k } :: t
    | [] => [] })

/-- An early head starts the entry's hold; a HOLD of 0 releases it at once (R381). -/
def holdEarly (q k d seq : Nat) (s : State) : Option State :=
  if s.rd (wRECOV k) F.REC_HOLD = 0 then
    some (markDelivered q k (deliver380 k seq
      (setHist k ((recHist s k * 2 ^ d) % 2 ^ 64) (countBy (cRecov k 3) d s))))
  else if (s.rec_ k).holdAt.isNone then some (s.updRec k (fun x => { x with holdAt := some s.sNow }))
  else none

/-- Whether the head of one of an entry's two queues is the copy the entry waits for (d = 0). -/
def nextAtHead (s : State) (k : Nat) : Bool :=
  [s.rd (wRECOV k) F.REC_QUEUE, s.rd (wRECOV k) F.REC_TWIN_Q].any (fun q =>
    match (s.queue q).front with
    | [] => false
    | c :: _ => c.recov.isNone && c.ofStream && (match s.frames.find? c.frame with
      | some x => x.handle = some (s.rd (wRECOV k) F.REC_STREAM) && x.seq = some (s.rd (wRECOV k) F.REC_NEXT)
      | none => false))

/-- The eliminator's decision on the head copy of a queue; none when it changes nothing. A QSC block that is fenced or in REINIT decides
nothing (R393); the hold starts only while no head has d = 0 (R381). -/
def eliminate (q : Nat) (c : Copy) (x : Frame) (s : State) : Option State :=
  if stateIn s (pQSC (s.qRegion q)) [.fenced, .reinit] then none
  else match x.handle, x.seq with
  | some h, some seq =>
    match recovOf s h q with
    | none =>
      if x.src = .twin then
        some (releaseCopy c (count (cStream h 1) (popFront q s)))
      else none
    | some k =>
      if c.recov.isSome then none
      else
        match decide380 (s.rdB (wRECOV k) F.REC_TAKE_ANY) (s.rd (wRECOV k) F.REC_NEXT) (recHist s k) seq with
        | .any =>
          some (markDelivered q k (setHist k 1 (setNext k (seq + 1)
            (count (cRecov k 5) (count (cRecov k 0) (s.wr (wRECOV k) F.REC_TAKE_ANY 0))))))
        | .expected => some (markDelivered q k (deliver380 k seq s))
        | .duplicate =>
          some (releaseCopy c (popFront q ((count (cRecov k 1) s).updRec k (fun y => { y with discarded := y.discarded + 1 }))))
        | .late => some (releaseCopy c (popFront q (count (cRecov k 2) s)))
        | .rogue => some (releaseCopy c (popFront q (count (cRecov k 4) s)))
        | .early d => if nextAtHead s k then none else holdEarly q k d seq s
  | _, _ => none

/-- One decision on the head of a queue; none when the head stands. -/
def headStep (q : Nat) (s : State) : Option State :=
  match (s.queue q).front with
  | [] => none
  | c :: _ =>
    let p := s.qPort q
    let cl := s.qClass q
    match s.frames.find? c.frame with
    | none => some (countDrop q 15 (popFront q s))
    | some x =>
      if oldGen s c then some (releaseCopy c (countDrop q 15 (popFront q s)))
      else if c.marked then some (releaseCopy c (countDrop q 9 (popFront q s)))
      else if x.bad && !c.late then some (releaseCopy c (countDrop q 0 (popFront q s)))
      else if tagOut s q c x && x.complete && 9728 < (copyLen s q c).getD 0 then
        some (releaseCopy c (count (cPort p 39) (popFront q s)))
      else if !forwarded s q && (match copyLen s q c with | some n => tooLong s p cl n | none => false) then
        let g := pPORT (portRegion p)
        some (releaseCopy c (popFront q (withLine (432 + p) (fun s =>
          (s.setF g F.GATE_EVENT_OVERSIZE_SEEN (portCell p)).wr g F.GATE_EVENT_LAST_OVERSIZE_TC cl (portCell p))
          (countDrop q 10 s))))
      else if c.ofStream then eliminate q c x s
      else none

/-- The queues decided together with a queue: the pair of its recovery entry, QUEUE first (R380). -/
def pairOf (s : State) (q : Nat) : List Nat :=
  match (validRecov s).find? (fun k => s.rd (wRECOV k) F.REC_QUEUE = q || s.rd (wRECOV k) F.REC_TWIN_Q = q) with
  | some k => [s.rd (wRECOV k) F.REC_QUEUE, s.rd (wRECOV k) F.REC_TWIN_Q]
  | none => [q]

/-- Decide the heads of a list of queues until they stand. -/
def settleLoop : Nat → List Nat → State → State
  | 0, _, s => s
  | n + 1, qs, s => match qs.findSome? (fun q => headStep q s) with
    | some s1 => settleLoop n qs s1
    | none => s

/-- Decide the head of a queue, and of its twin, until both stand (R328, R380). -/
def settle (q : Nat) (s : State) : State :=
  let qs := pairOf s q
  settleLoop (qs.foldl (fun n x => n + 2 * (s.queue x).front.length) 4) qs s

/-! ### The turf store (R341, R353 to R355) -/

def State.turf (s : State) (t : Nat) : Turf := s.peat.turf.get {} t
def State.setTurf (s : State) (t : Nat) (x : Turf) : State :=
  { s with peat := { s.peat with turf := s.peat.turf.put {} t x } }

/-- Turves of the Peat area (R338), and the first turf outside the window (R340). -/
def turfCount : Nat := 31250000
def firstTurf (s : State) : Nat := 262144 * s.rd pPEAT F.PEAT_CTRL_WIN_GIB

/-- Bring PEAT_TURF_FREE up to the ring and the cache. -/
def syncTurf (s : State) : State := s.wr pPEAT F.PEAT_TURF_FREE_VALUE (runLen s.peat.ring + runLen s.peat.cache)

/-- Refill the turf cache below 1,024 entries, or return a batch above 3,072 (R353). -/
def balanceTurf (s : State) : State :=
  let n := runLen s.peat.cache
  if n < 1024 then
    let q := splitRuns 256 s.peat.ring
    { s with peat := { s.peat with ring := q.2, cache := s.peat.cache ++ q.1 } }
  else if 3072 < n then
    let q := splitRuns 256 s.peat.cache
    { s with peat := { s.peat with ring := s.peat.ring ++ q.1, cache := q.2 } }
  else s

/-- A turf is never allocated again before reset, and counted (R355, R364). -/
def turfGone (t : Nat) (s : State) : State :=
  ({ s with peat := { s.peat with lost := if s.peat.lost.contains t then s.peat.lost else t :: s.peat.lost } }).addSat pPEAT F.PEAT_RETIRED_VALUE

/-- A turf returns to the free store, or is retired (R355); one of the window does not return (R340). -/
def pushTurf (t : Nat) (s : State) : State :=
  if (s.turf t).retire then turfGone t (s.setTurf t { retire := true })
  else if t < firstTurf s then s.setTurf t {}
  else syncTurf (balanceTurf ((s.setTurf t {}) |> fun s => { s with peat := { s.peat with cache := pushRun s.peat.cache t } }))

/-- Turves held by a region (PEAT_TURF_USE_r). -/
def useTurf (r : Nat) (f : Nat → Nat) (s : State) : State :=
  s.wr pPEAT F.PEAT_TURF_USE_VALUE (f (s.rd pPEAT F.PEAT_TURF_USE_VALUE r)) r

/-- Record a stopped turf walk (R355). -/
def turfStop (code tag q found t : Nat) (s : State) : State :=
  let s1 := ((s.wr pPEAT F.PEAT_FREE_ERR_CODE code).wr pPEAT F.PEAT_FREE_ERR_REQUESTER tag).wr pPEAT F.PEAT_FREE_ERR_QUEUE q
  let s2 := (s1.wr pPEAT F.PEAT_FREE_TURF_FOUND (found % 128)).wr pPEAT F.PEAT_FREE_TURF_TURF t
  if code = rSTATE then report pPEAT .noted (srcEvent 330 (count (cChip 32) s2))
  else if code = rOWNER then report pPEAT .noted (count (cChip 33) s2)
  else if code = rRANGE then report pPEAT .noted (count (cChip 34) s2)
  else s2

/-- Why a turf may not be freed with a tag for a queue: the result code and the OWNER found; none when it may. `lost` tells an entry that no longer
reads. -/
def turfRefused (s : State) (tag q t : Nat) (lost : Bool) : Option (Nat × Nat) :=
  let x := s.turf t
  if t < firstTurf s || turfCount ≤ t then some (rRANGE, 0xFF)
  else if lost then some (rPARITY, x.owner)
  else if !x.alloc then some (rSTATE, 0xFF)
  else if x.owner != tag || x.queue != q then some (rOWNER, x.owner)
  else none

/-- The turf walk of R355 from a turf: `fuel` turves may still be freed; the entry of turf `bad` no longer reads. -/
def turfWalk (tag q : Nat) (bad : Option Nat) : Nat → Nat → State → State
  | fuel, t, s =>
    match turfRefused s tag q t (bad = some t) with
    | some (c, o) => turfStop c tag q o t s
    | none => match fuel with
      | 0 => turfStop rRANGE tag q (s.turf t).owner t s
      | m + 1 =>
        let x := s.turf t
        let s1 := useTurf tag (· - 1) (pushTurf t s)
        if x.next = 0 then s1 else turfWalk tag q bad m x.next s1

/-- Free a queue's whole chain. -/
def freeChain (q : Nat) (bad : Option Nat) (s : State) : State :=
  match (s.queue q).turves with
  | [] => s
  | t :: ts =>
    (turfWalk (s.qRegion q) q bad (ts.length + 1) t s).updQueue q (fun x => { x with turves := [], base := 0, wofs := 0 })

/-- Free the first turf of a queue's chain, once the drain has read past its end (R348). -/
def freeFirstTurf (q : Nat) (s : State) : State :=
  match (s.queue q).turves with
  | [] => s
  | t :: ts =>
    let tag := s.qRegion q
    let s1 := match turfRefused s tag q t false with
      | some (c, o) => turfStop c tag q o t s
      | none => useTurf tag (· - 1) (pushTurf t s)
    s1.updQueue q (fun y => { y with turves := ts, base := y.base + 1 })

/-! ### Spill mode (R342 to R347) -/

/-- Whether the service fabric carries traffic: it grants in READY and RUN alike (R44, R308). -/
def fabricOpen (s : State) : Bool := stateIn s pSFAB [.ready, .run]

/-- Whether queues may enter spill mode (R343, R367). -/
def peatTakes (s : State) : Bool :=
  s.inState pPEAT .run && !((s.page pPEAT).cmd.any (fun c => c.op = 0x41))

/-- A queue leaves spill mode when its PEAT and BACK parts are empty (R346). -/
def leaveSpill (q : Nat) (s : State) : State :=
  let x := s.queue q
  if x.spill && x.peat.isEmpty && x.back.isEmpty then s.updQueue q (fun x => { x with spill := false }) else s

/-! ### Flush, port-down and return -/

/-- Free a list of copies, each counted in FLUSHED (R273). -/
def flushCopies (q : Nat) (l : List Copy) (s : State) : State :=
  l.foldl (fun s c => releaseCopy c (countDrop q 8 s)) s

/-- A record of the PEAT part ends untransmitted, with reason `k`. -/
def dropRec (q k : Nat) (x : PeatRec) (s : State) : State :=
  let s1 := countDrop q k s
  match x.slot with
  | some (r, i) => { s1 with hif := { s1.hif with dones := s1.hif.dones ++ [(⟨r, i, 1, 0x0A, none⟩ : TxDone)] } }
  | none => s1

/-- Free every part of a queue (R275, R347); the table entry of turf `bad` no longer reads. -/
def flushWith (q : Nat) (bad : Option Nat) (s : State) : State :=
  let x := s.queue q
  let s1 := s.updQueue q (fun x => { x with front := [], back := [], peat := [] })
  let s2 := flushCopies q (x.front ++ x.back) s1
  let s3 := x.peat.foldl (fun s y => dropRec q 8 y s) s2
  leaveSpill q (freeChain q bad s3)

/-- The same with every entry read. -/
def flushQueue (q : Nat) (s : State) : State := flushWith q none s

/-- What a queue does when its port goes down (R273, R343, R347). DEDUCED (log entry 61). -/
def queueDown (q : Nat) (s : State) : State :=
  let w := wQUEUE q
  match s.rd w F.Q_CFG_DOWN_POLICY with
  | 1 =>
    if s.rd w F.Q_LIMIT_HOLD = 0 || s.rdB pEMB F.EMB_STATUS_SM_STATE then flushQueue q (s.updQueue q (fun x => { x with dstate := .follow }))
    else s.updQueue q (fun x => { x with dstate := .holding, holdEnd := s.now + s.rd w F.Q_LIMIT_HOLD * 10 * usU })
  | 2 =>
    if (s.queue q).spill then s.updQueue q (fun x => { x with dstate := .spilled })
    else if peatTakes s then
      leaveSpill q (hourEvent 3 (s.updQueue q (fun x => { x with
        dstate := .spilled, spill := true, back := x.front ++ x.back, front := [] })))
    else flushQueue q (countPC q 14 (s.updQueue q (fun x => { x with dstate := .follow })))
  | _ => flushQueue q (s.updQueue q (fun x => { x with dstate := .follow }))

/-- What a queue does when its port returns (R274, R351). -/
def queueReturn (q : Nat) (s : State) : State :=
  let x := s.queue q
  let age := s.rd (wQUEUE q) F.Q_AGE_AGE_LIMIT * usU
  let mark := fun (c : Copy) => if age ≤ s.sNow - c.at_ then { c with marked := true } else c
  let aged := age != 0 && (x.dstate = .holding || x.spill)
  settle q (s.updQueue q (fun x => { x with
    dstate := .follow
    front := if aged then x.front.map mark else x.front
    cutoff := if x.spill then (if age != 0 then some (s.sNow - age) else none) else x.cutoff }))

/-- Every queue of a port goes down, or returns. -/
def queuesDown (p : Nat) (s : State) : State :=
  (portQueues s p).foldl (fun s q => if forwarded s q then s else queueDown q s) s
def queuesReturn (p : Nat) (s : State) : State :=
  (portQueues s p).foldl (fun s q => if forwarded s q then s else queueReturn q s) s

/-- HOLD has passed with the port still down (R273). -/
def holdExpire (q : Nat) (s : State) : State :=
  if (s.queue q).dstate = .holding && !wayUp s q then
    flushQueue q (s.updQueue q (fun x => { x with dstate := .expired }))
  else s

end Sys2Proof.Machine
end

