-- ==== Sys2Proof/Machine/MateOps.lean ====
section
/-! DEFINITION. What the rest of the part asks of the mate interface: whether this device holds the single-owner functions (R445), whether
the peer is present (R457), and sending over the mate link (R447, R459). -/
namespace Sys2Proof.Machine

/-- MODE of MATE_CFG (R443). -/
def State.mateMode (s : State) : Nat := s.rd pMATE F.MATE_CFG_MODE
/-- ROLE and PEER_STATE of MATE_STATUS. -/
def State.role (s : State) : Nat := s.rd pMATE F.MATE_STATUS_ROLE
def State.peerState (s : State) : Nat := s.rd pMATE F.MATE_STATUS_PEER_STATE

/-- Whether the single-owner functions are enabled (R443, R453, R466): always in MODE 0; in MODE 1 while PRIMARY with the own claim
asserted and the peer's not seen; in MODE 2 while PRIMARY. -/
def singleOwner (s : State) : Bool :=
  match s.mateMode with
  | 0 => true
  | 1 => s.role = 3 && s.rdB pMATE F.MATE_STATUS_CLAIM_OUT && !s.rdB pMATE F.MATE_STATUS_CLAIM_IN
  | _ => s.role = 3

/-- Whether RCLK_OUT_0, RCLK_OUT_1 and PPS_OUT are driven (R611); they are high-impedance otherwise. -/
def sharedDriven (s : State) : Bool :=
  if s.mateMode = 0 then stateIn s pMATE [.run, .halted] else s.inState pMATE .run && singleOwner s

/-- Whether the peer is PRESENT or DEGRADED. -/
def matePresent (s : State) : Bool := s.peerState = 1 || s.peerState = 2

/-- Whether this device is the standby of a pair (R156). -/
def isStandby (s : State) : Bool := s.mateMode != 0 && s.role = 1

/-- A mate-link frame: the 8-byte mate header, the payload, and the CRC over both, as an Ethernet FCS (R447). -/
def mateBytes (kind tc q seq : Nat) (payload : List Byte) : List Byte :=
  let d := beBytes 8 (kind * 2 ^ 60 + tc * 2 ^ 57 + q * 2 ^ 41 + payload.length * 2 ^ 27 + seq) ++ payload
  d ++ leBytes 4 (crc32 d)

/-- Send a frame over the mate link (R447). One that cannot be sent while the link is not UP is discarded and counted in MIRROR_LOST
(R459). -/
def mateSend (kind tc q : Nat) (payload : List Byte) (s : State) : State :=
  if s.rd pMATE F.MATE_STATUS_LINK_STATE = lUP then
    let n := s.mate.seq.get 0 kind
    emit (.mate (mateBytes kind tc q n payload)) { s with mate := { s.mate with seq := s.mate.seq.put 0 kind ((n + 1) % 65536) } }
  else count (cChip 82) s

end Sys2Proof.Machine
end

