-- ==== Sys2Proof/Machine/TableOps.lean ====
section
/-! DEFINITION. The forwarding tables (R130 to R158): hashing, the exact-match table and its overflow store, the insert sequencer, hardware
learning and its notifications, and the longest-prefix array. -/
namespace Sys2Proof.Machine

/-! ### Hashing (R135) -/

/-- The two hash functions over a key of width code `w` (0 64, 1 128, 2 256, 3 384 bits): the word x. -/
def keyWords (w : Nat) : Nat := if w = 0 then 2 else if w = 3 then 12 else 4 * w
def hashOf (s : State) (j w key : Nat) : Nat :=
  hashX (s.rd (pLKP 0) F.LKP_SEED_SEED j) (s.rd (pLKP 0) (if j = 0 then F.LKP_HASH_ROT_ROT_0 else F.LKP_HASH_ROT_ROT_1))
    (keyWords w) key
def bucketOf (s : State) (j w key : Nat) : Nat := hashBucket (hashOf s j w key)

/-! ### Groups and slots (R131 to R134) -/

/-- The slots of the exact-match table, and of table and overflow store. -/
def emSlots : Nat := 1048576
def allSlots : Nat := 1064960

/-- NOW (R147). -/
def State.tick (s : State) : Nat := s.rd (pLKP 0) F.LKP_AGE_NOW_NOW

/-- Whether a group at location `l` takes slot `x`. -/
def Group.covers (g : Group) (l x : Nat) : Bool := l ≤ x + g.width && x ≤ l

/-- The groups of a bucket, with their locations. -/
def bucketGroups (s : State) (b : Nat) : List (Nat × Group) :=
  (List.range 4).filterMap (fun k => (s.tab.groups.find? (4 * b + k)).map (fun g => (4 * b + k, g)))

/-- The groups of the overflow store. -/
def ovfGroups (s : State) : List (Nat × Group) := s.tab.groups.entries.filter (fun (e : Nat × Group) => emSlots ≤ e.1)

/-- Whether a slot of a bucket is EMPTY and usable (R140). -/
def slotFree (s : State) (b x : Nat) : Bool :=
  !s.tab.badSlots.contains x && !(bucketGroups s b).any (fun e => e.2.covers e.1 x)

/-- The free slots of a bucket. -/
def bucketFree (s : State) (b : Nat) : Nat := ((List.range 4).filter (fun k => slotFree s b (4 * b + k))).length

/-- The lowest run of `n` consecutive EMPTY slots of a bucket: its first slot. DEDUCED (log entry 44). -/
def bucketRun (s : State) (b n : Nat) : Option Nat :=
  (List.range (5 - n)).findSome? (fun k =>
    if (List.range n).all (fun j => slotFree s b (4 * b + k + j)) then some (4 * b + k) else none)

/-- The first gap of `n` slots from `pos` to `top` between intervals (first slot, length) given by rising first slot. -/
def firstGap (n top : Nat) : Nat → List (Nat × Nat) → Option Nat
  | pos, [] => if pos + n ≤ top then some pos else none
  | pos, (a, len) :: t => if pos + n ≤ a then some pos else firstGap n top (max pos (a + len)) t

/-- The lowest run of `n` consecutive EMPTY slots of the overflow store. -/
def ovfRun (s : State) (n : Nat) : Option Nat :=
  let used := (ovfGroups s).foldl (fun (m : SMap Nat) e => m.insert (e.1 - e.2.width) (e.2.width + 1)) ⟨[]⟩
  let used := s.tab.badSlots.foldl (fun (m : SMap Nat) x => if emSlots ≤ x && !m.has x then m.insert x 1 else m) used
  firstGap n allSlots emSlots used.entries

/-- The group holding a key of a width, with its location and its WHERE (R136). -/
def emFind (s : State) (w key : Nat) : Option (Nat × Nat × Group) :=
  let b0 := bucketOf s 0 w key
  let b1 := bucketOf s 1 w key
  let hit := fun (e : Nat × Group) => e.2.key = key && e.2.width = w
  match (bucketGroups s b0).find? hit with
  | some e => some (e.1, 0, e.2)
  | none => match (bucketGroups s b1).find? hit with
    | some e => some (e.1, 1, e.2)
    | none => ((ovfGroups s).find? hit).map (fun e => (e.1, 2, e.2))

/-- Whether a lookup of a key meets an uncorrectable error (R140). -/
def emBad (s : State) (w key : Nat) : Bool :=
  let b0 := bucketOf s 0 w key
  let b1 := bucketOf s 1 w key
  s.tab.badSlots.any (fun x => emSlots ≤ x || x / 4 = b0 || x / 4 = b1)

/-- Change the groups. -/
def setGroups (g : SMap Group) (s : State) : State := { s with tab := { s.tab with groups := g } }

/-- Change EM_USED or OVF_USED by the slots of a group. -/
def addUsed (l n : Nat) (s : State) : State :=
  if l < emSlots then s.wr (pLKP 0) F.LKP_TBL_FILL_EM_USED (s.rd (pLKP 0) F.LKP_TBL_FILL_EM_USED + n)
  else s.wr (pLKP 0) F.LKP_OVF_FILL_OVF_USED (s.rd (pLKP 0) F.LKP_OVF_FILL_OVF_USED + n)
def subUsed (l n : Nat) (s : State) : State :=
  if l < emSlots then s.wr (pLKP 0) F.LKP_TBL_FILL_EM_USED (s.rd (pLKP 0) F.LKP_TBL_FILL_EM_USED - n)
  else s.wr (pLKP 0) F.LKP_OVF_FILL_OVF_USED (s.rd (pLKP 0) F.LKP_OVF_FILL_OVF_USED - n)

/-- Free every slot of the group at a location; its slots with an error return to use (R140, R142). -/
def removeGroup (l : Nat) (s : State) : State :=
  match s.tab.groups.find? l with
  | none => s
  | some g =>
    let s1 := subUsed l (g.width + 1) (setGroups (s.tab.groups.erase l) s)
    { s1 with tab := { s1.tab with badSlots := s1.tab.badSlots.filter (fun x => !g.covers l x) } }

/-- Report an error a region met in a slot (R140). -/
def slotError (r l : Nat) (multi : Bool) (s : State) : State :=
  let p := pLKP r
  let s1 := (s.wr p F.LKP_ERR_TBL 0).wr p F.LKP_ERR_LAST_LOC l
  if multi then
    report p .contained ((s1.setF p F.LKP_ERR_UNCORR)
      |> fun s => { s with tab := { s.tab with badSlots := if s.tab.badSlots.contains l then s.tab.badSlots else l :: s.tab.badSlots } })
  else report p .corrected (s1.setF p F.LKP_ERR_CORR)

/-- A read of the slots `read` takes, for region `r`: the errors of a list of struck slots, and those that stand (R140). -/
def readSlots (r : Nat) (read : Nat → Bool) (upsets : List (Nat × Bool)) (s : State) : State :=
  let old := (s.tab.badSlots.filter (fun x => !upsets.any (fun u => u.1 = x))).map (fun x => (x, true))
  (upsets ++ old).foldl (fun s u =>
    if u.1 < allSlots && read u.1 then slotError r u.1 (u.2 || s.tab.badSlots.contains u.1) s else s) s

/-- What a search for a key reads: its two buckets and the overflow store (R136). -/
def meetSlots (r w key : Nat) (upsets : List (Nat × Bool)) (s : State) : State :=
  let b0 := bucketOf s 0 w key
  let b1 := bucketOf s 1 w key
  readSlots r (fun x => emSlots ≤ x || x / 4 = b0 || x / 4 = b1) upsets s

/-! ### Insert and delete (R141, R142) -/

/-- An insert: whether the key was present, where the group is, and the state; none when no run fits. A group is found by its key
although a slot of it holds an error, since a delete frees such a group; an insert rewrites its slot. DEDUCED (log entry 44). -/
def emInsert (w key action : Nat) (static mate : Bool) (s : State) : Option (Bool × Nat × Nat) × State :=
  let g : Group := ⟨key, w, action, s.tick, static, mate⟩
  match emFind s w key with
  | some (l, wh, _) =>
    let s1 := setGroups (s.tab.groups.insert l g) s
    (some (true, l, wh), { s1 with tab := { s1.tab with badSlots := s1.tab.badSlots.filter (· != l) } })
  | none =>
    let b0 := bucketOf s 0 w key
    let b1 := bucketOf s 1 w key
    let place :=
      let both := if bucketFree s b0 < bucketFree s b1 then [(b1, 1), (b0, 0)] else [(b0, 0), (b1, 1)]
      match both.findSome? (fun e => (bucketRun s e.1 (w + 1)).map (fun x => (x, e.2))) with
      | some e => some e
      | none => (ovfRun s (w + 1)).map (fun x => (x, 2))
    match place with
    | none => (none, s)
    | some (x, wh) => (some (false, x + w, wh), addUsed (x + w) (w + 1) (setGroups (s.tab.groups.insert (x + w) g) s))

/-- A delete of a key: where its group was (R142). -/
def emDelete (w key : Nat) (s : State) : Option (Nat × Nat) × State :=
  match emFind s w key with
  | some (l, wh, _) => (some (l, wh), removeGroup l s)
  | none => (none, s)

/-! ### Learning (R151 to R155) -/

/-- LEARNED and the port field of an ACTION (R133). -/
def isLearned (action : Nat) : Bool := action.testBit 39
def actionPort (action : Nat) : Nat := action % 256
def learnedAction (port : Nat) : Nat := 2 ^ 39 + port

/-- A learning record (R154). -/
def learnWord (key kind port tick : Nat) (inserted mate : Bool) (loc : Nat) : Nat :=
  key * 2 ^ 64 + kind * 2 ^ 56 + port * 2 ^ 48 + tick * 2 ^ 32 + b2n inserted * 2 ^ 31 + b2n mate * 2 ^ 30 + (if inserted then loc else 0)

/-- A notification on the learning ring of a port's region. -/
def notice (port rec_ : Nat) (s : State) : State :=
  { s with tab := { s.tab with
      notices := s.tab.notices ++ [(s.rd (pLKP (portRegion port)) F.LKP_LEARN_RING_RING, leBytes 16 rec_)] } }

/-- A port's learning MODE (R151). -/
def learnMode (s : State) (port : Nat) : Nat := s.rd (pLKP (portRegion port)) F.LKP_LEARN_MODE (portCell port)

/-- A port's bucket now: its tokens in 1/1,024, and what has run in towards the next one, in units of a token per ms per unit of the local counter
(R153). DEDUCED (log entry 46). -/
def learnTokens (s : State) (port : Nat) : Nat × Nat :=
  let g := pLKP (portRegion port)
  let full := s.rd g F.LKP_LEARN_BURST (portCell port) * 1024
  match s.tab.tokens.find? port with
  | none => (full, 0)
  | some (n, m, t) => fillBucket (msU / 1024) full (n, m) ((s.now - t) * s.rd g F.LKP_LEARN_RATE (portCell port))

/-- Take a token for an event of a port, when one whole token is there and RATE is not 0 (R153). -/
def takeToken (port : Nat) (s : State) : Bool × State :=
  let b := learnTokens s port
  let keep := fun (n : Nat) (s : State) => { s with tab := { s.tab with tokens := s.tab.tokens.insert port (n, b.2, s.now) } }
  if s.rd (pLKP (portRegion port)) F.LKP_LEARN_RATE (portCell port) = 0 || b.1 < 1024 then (false, count (cPort port 34) (keep b.1 s))
  else (true, keep (b.1 - 1024) s)

/-- Put a request at the end of the insert sequencer's queue. -/
def queueSeq (q : SeqReq) (s : State) : State := { s with tab := { s.tab with seqQ := s.tab.seqQ ++ [q] } }

/-- A learning event of a port (R151 to R153): `kind` is 1 NEW or 2 MOVE. Without learning authority it is sent to the peer in place of
being inserted; one from the peer has passed the peer's own MODE and tokens, and is inserted (R155), and notified by the MODE of this
device's port of the same number. DEDUCED (log entry 47). DEDUCED (log entry 136). -/
def learnEvent (port kind key : Nat) (fromMate : Bool) (s : State) : State :=
  let m := learnMode s port
  if fromMate then queueSeq ⟨true, key, 0, learnedAction port, false, true, some port, kind, s.tick, m = 3, true⟩ s
  else if m = 0 then s
  else
    let t := takeToken port s
    if !t.1 then t.2
    else
      let s1 := if kind = 2 then count (cChip 3) t.2 else t.2
      let hw := m = 1 || m = 3
      let own := singleOwner s1
      let s2 :=
        if !hw then s1
        else if own then
          queueSeq ⟨true, key, 0, learnedAction port, false, false, some port, kind, s.tick, m = 3, false⟩ s1
        else mateSend 3 0 0 (beBytes 16 (learnWord key kind port s.tick false false 0)) s1
      if m = 2 || (m = 3 && !own) then notice port (learnWord key kind port s.tick false false 0) s2 else s2

/-- A static conflict (R152). -/
def staticConflict (port key : Nat) (fromMate : Bool) (s : State) : State :=
  let s1 := count (cChip 2) s
  let m := learnMode s port
  if m = 2 || m = 3 then notice port (learnWord key 5 port s.tick false fromMate 0) s1 else s1

/-- Whether the move rule concerns a group and a port (R152). -/
def moves (g : Group) (port : Nat) : Bool := isLearned g.action && actionPort g.action != port

/-- The move rule on a LEARN hit (R152). -/
def moveRule (port key : Nat) (g : Group) (fromMate : Bool) (s : State) : State :=
  if moves g port then
    if g.static then staticConflict port key fromMate s else learnEvent port 2 key fromMate s
  else s

/-- A mirror record of a change this device made to a learned group, while it is one of a pair (R155). -/
def mirrorRecord (kind key port tick loc : Nat) (ofPeer : Bool) (s : State) : State :=
  if s.mateMode = 0 then s else mateSend 2 0 0 (beBytes 16 (learnWord key kind port tick true ofPeer loc)) s

/-- The insert sequencer performs a learning insert or an applied mirror record (R141, R153, R155). A group that is STATIC by now is
neither moved nor removed by them (R132). DEDUCED (log entry 47). -/
def seqInsert (q : SeqReq) (s : State) : State :=
  let ins := emInsert q.width q.key q.action q.static q.mate s
  match q.learnPort, ins with
  | none, _ => ins.2
  | some port, (none, _) =>
    let s1 := count (cChip 1) s
    if q.note then notice port (learnWord q.key 4 port q.tick false q.fromMate 0) s1 else s1
  | some port, (some (_, l, _), s1) =>
    let s2 := mirrorRecord q.kind q.key port q.tick l q.fromMate s1
    if q.note then notice port (learnWord q.key q.kind port q.tick true q.fromMate l) s2 else s2

/-- The region that reads for a request of the sequencer: that of its port, region 0 for a mirror record. DEDUCED (log entry 44). -/
def SeqReq.region (q : SeqReq) : Nat := match q.learnPort with | some p => portRegion p | none => 0

/-- The insert sequencer performs one request, its search meeting the errors of the slots it reads (R140). -/
def seqStep (q : SeqReq) (upsets : List (Nat × Bool)) (s : State) : State :=
  let s1 := meetSlots q.region q.width q.key upsets s
  match emFind s1 q.width q.key with
  | some (_, _, g) => if g.static then s1 else if q.insert then seqInsert q s1 else (emDelete q.width q.key s1).2
  | none => if q.insert then seqInsert q s1 else s1

/-- Every request waiting, in order: what a software command finds done before it (R141). -/
def seqDrain (s : State) : State :=
  s.tab.seqQ.foldl (fun s q => seqStep q [] s) { s with tab := { s.tab with seqQ := [] } }

/-! ### Lookups (R136 to R140, R149) -/

/-- A key that a TOUCH or LEARN hit refreshed, for the next touch message to the peer (R459). -/
def noteTouch (key action : Nat) (s : State) : State :=
  if s.mateMode != 0 && isLearned action && !s.tab.touched.contains key then
    { s with tab := { s.tab with touched := s.tab.touched ++ [key] } }
  else s

/-- TS := NOW at a hit. -/
def touchGroup (l : Nat) (g : Group) (s : State) : State :=
  noteTouch g.key g.action (setGroups (s.tab.groups.insert l { g with ts := s.tick }) s)

/-- What a lookup answers: a hit with its result and location, a miss, or an exception with its INFO of R210. -/
inductive LookAns where
  | hit (result loc : Nat)
  | miss
  | fault (info : Nat)
  deriving DecidableEq, Repr

/-- An exact-match lookup by region `r` for a frame of `port` (none for an event routine or a command), with the errors its reads meet. -/
def emLookup (r : Nat) (port : Option Nat) (w key mode : Nat) (upsets : List (Nat × Bool)) (s : State) : LookAns × State :=
  if mode = 2 && w != 0 then (.fault 5, s)
  else if mode = 2 && port.isNone then (.fault 6, s)
  else
    let s1 := meetSlots r w key upsets s
    if emBad s1 w key then (.fault 4, s1)
    else match emFind s1 w key with
      | some (l, _, g) =>
        let s2 := if mode = 0 then s1 else touchGroup l g s1
        let s3 := match mode, port with
          | 2, some p => moveRule p key g false s2
          | _, _ => s2
        (.hit g.action l, s3)
      | none =>
        (.miss, match mode, port with
          | 2, some p => learnEvent p 1 key false s1
          | _, _ => s1)

/-! ### Aging (R147 to R150) -/

/-- Whether the ager may remove the group at a location. -/
def agerTakes (s : State) (l : Nat) (g : Group) : Bool :=
  !g.static && !(g.mate && matePresent s) && !s.tab.badSlots.any (fun x => g.covers l x)
    && s.rd (pLKP 0) F.LKP_AGE_CFG_AGE_LIMIT ≤ (s.tick + 65536 - g.ts) % 65536

/-- Compare-and-remove (R149): a learned group's removal is notified and, when its port is this device's, mirrored. -/
def agerCompare (a : AgerRead) (s : State) : State :=
  match s.tab.groups.find? a.loc with
  | some g =>
    if g.ts = a.ts then
      let s1 := removeGroup a.loc s
      let port := actionPort g.action
      let s2 := if isLearned g.action && port < 48 && s.rdB (pLKP (portRegion port)) F.LKP_LEARN_RING_NOTIFY_AGE then
          notice port (learnWord g.key 3 port s.tick true false a.loc) s1 else s1
      if isLearned g.action && !g.mate then mirrorRecord 3 g.key port s.tick a.loc false s2 else s2
    else count (cChip 0) s
  | none => count (cChip 0) s

/-- Whether the ager reads a slot at a place: a bucket, or four overflow slots. -/
def agerReadsSlot (place x : Nat) : Bool :=
  if place < 262144 then x / 4 = place else emSlots ≤ x && (x - emSlots) / 4 = place - 262144

/-- The groups the ager visits at a place. -/
def agerGroups (s : State) (place : Nat) : List (Nat × Group) :=
  if place < 262144 then bucketGroups s place
  else (List.range 4).filterMap (fun k =>
    (s.tab.groups.find? (emSlots + 4 * (place - 262144) + k)).map (fun g => (emSlots + 4 * (place - 262144) + k, g)))

/-- The places of a pass: 262,144 buckets, then 4,096 fours of overflow slots. -/
def agerPlaces : Nat := 266240

/-! ### The longest-prefix array (R143 to R146) -/

/-- An entry no write has touched (R158). -/
def noPrefix : Prefix := ⟨0xFF, 0, 0, 0, 0⟩
/-- Whether an entry is valid (R143). -/
def Prefix.valid (e : Prefix) : Bool := e.plen != 0xFF

/-- The valid entries, by rising index. -/
def validPrefixes (s : State) : List (Nat × Prefix) := s.tab.lpm.entries.filter (fun (e : Nat × Prefix) => e.2.valid)

/-- Whether an entry hits: it compares the top `plen` bits of an address (R144). -/
def prefixHits (e : Prefix) (key vrf fam : Nat) : Bool :=
  e.valid && e.fam = fam && e.vrf = vrf && e.key / 2 ^ (128 - e.plen) = key / 2 ^ (128 - e.plen)

/-- The first entry a prefix lookup hits, by rising index. -/
def lpmFind (s : State) (key : Nat) : Option (Nat × Prefix) :=
  s.tab.lpm.entries.find? (fun (e : Nat × Prefix) => prefixHits e.2 (key % 2 ^ 128) (key / 2 ^ 128 % 128) (key / 2 ^ 135 % 2))

/-- Report an error a region met in the prefix array (R140). -/
def prefixError (r i : Nat) (multi : Bool) (s : State) : State :=
  let p := pLKP r
  let s1 := (s.wr p F.LKP_ERR_TBL 1).wr p F.LKP_ERR_LAST_LOC i
  if multi then
    report p .contained ((s1.setF p F.LKP_ERR_UNCORR)
      |> fun s => { s with tab := { s.tab with lpmBad := if s.tab.lpmBad.contains i then s.tab.lpmBad else i :: s.tab.lpmBad } })
  else report p .corrected (s1.setF p F.LKP_ERR_CORR)

/-- A read of entry `i` that meets an error, of several bits where the entry is already bad. -/
def readPrefix (r i : Nat) (multi : Bool) (s : State) : State :=
  if i < 65536 then prefixError r i (multi || s.tab.lpmBad.contains i) s else s

/-- A prefix lookup: it ends in an exception when an uncorrectable error lies at or before its first hit, or anywhere when it misses. -/
def lpmLookup (r key : Nat) (upsets : List (Nat × Bool)) (s : State) : LookAns × State :=
  let old := (s.tab.lpmBad.filter (fun x => !upsets.any (fun u => u.1 = x))).map (fun x => (x, true))
  let s1 := (upsets ++ old).foldl (fun s u => readPrefix r u.1 u.2 s) s
  match lpmFind s1 key with
  | some (i, e) => if s1.tab.lpmBad.any (· ≤ i) then (.fault 4, s1) else (.hit e.action i, s1)
  | none => if s1.tab.lpmBad.isEmpty then (.miss, s1) else (.fault 4, s1)

/-- The checks of R145 on a write of entry `i`. -/
def lpmOk (s : State) (i plen fam key : Nat) : Bool :=
  plen = 0xFF ||
  (plen ≤ (if fam = 0 then 32 else 128) && key % 2 ^ (128 - plen) = 0
    && (match ((validPrefixes s).filter (fun (e : Nat × Prefix) => e.1 < i)).getLast? with
        | some e => plen ≤ e.2.plen | none => true)
    && (match (validPrefixes s).find? (fun (e : Nat × Prefix) => i < e.1) with
        | some e => e.2.plen ≤ plen | none => true))

/-! ### Trees (R117 to R126) -/

/-- What a node's 120 bits hold (R118). -/
def nodeKind (b : Nat) : Nat := bitsOf b 119 118
/-- A hole: KIND 3 with every other bit 0. -/
def holeBits : Nat := 3 * 2 ^ 118
def State.node (s : State) (n : Nat) : Node := s.tab.nodes.get ⟨holeBits, false⟩ n

/-- Whether NODE_WRITE takes 120 bits (R122). -/
def nodeOk (b : Nat) : Bool :=
  match nodeKind b with
  | 0 => bitsOf b 117 109 + bitsOf b 108 104 ≤ 383 && bitsOf b 31 0 ≤ bitsOf b 63 32 && bitsOf b 67 64 = 0
  | 1 => bitsOf b 117 64 = 0
  | 3 => bitsOf b 117 0 = 0
  | _ => false

/-- Report an error met at a node (R121). DEDUCED (log entry 43). -/
def nodeError (r n : Nat) (multi : Bool) (s : State) : State :=
  let p := pPRS r
  let s1 := s.wr p F.PRS_NODE_ERR_LAST_INDEX n
  if multi then
    report p .contained ((s1.setF p F.PRS_NODE_ERR_UNCORR)
      |> fun s => { s with tab := { s.tab with nodes := s.tab.nodes.put ⟨holeBits, false⟩ n { s.node n with bad := true } } })
  else report p .corrected (s1.setF p F.PRS_NODE_ERR_CORR)

/-- The walk of R119 from node `n`; `fuel` nodes may still be visited. The INFO of a fault is that of R210: 2 DEPTH, 3 HOLE, 4 ECC. -/
def treeWalk (r key : Nat) (upsets : List (Nat × Bool)) : Nat → Nat → State → LookAns × State
  | 0, _, s => (.fault 2, s)
  | fuel + 1, n, s =>
    let s1 := match upsets.find? (fun u => u.1 = n) with
      | some u => nodeError r n (u.2 || (s.node n).bad) s
      | none => if (s.node n).bad then nodeError r n true s else s
    let x := s1.node n
    if x.bad then (.fault 4, s1)
    else match nodeKind x.bits with
      | 1 => (.hit (bitsOf x.bits 63 0) n, s1)
      | 0 =>
        let o := bitsOf x.bits 117 109
        let v := bitsOf key (o + bitsOf x.bits 108 104) o
        treeWalk r key upsets fuel
          (if bitsOf x.bits 31 0 ≤ v && v ≤ bitsOf x.bits 63 32 then bitsOf x.bits 103 86 else bitsOf x.bits 85 68) s1
      | _ => (.fault 3, s1)

/-- A walk of tree `t` by region `r`. -/
def treeLookup (r t key : Nat) (upsets : List (Nat × Bool)) (s : State) : LookAns × State :=
  if s.rdB (pPRS r) F.PRS_TREE_ROOT_VALID t then
    treeWalk r key upsets (s.rd (pPRS r) F.PRS_CTRL_MAX_DEPTH) (s.rd (pPRS r) F.PRS_TREE_ROOT_ROOT t) s
  else (.fault 1, s)

end Sys2Proof.Machine
end

