-- ==== Sys2Proof/Machine/EngOps.lean ====
section
/-! DEFINITION. The Kindling engines (R159 to R222): contexts and tags, the fetch of a micro-instruction, sources and destinations, staged
effects, micro-traps, routine faults, and the counters. -/
namespace Sys2Proof.Machine

/-! ### Contexts (R159) -/

/-- A context by its engine (0 to 63) and number. -/
def ctxIdx (e c : Nat) : Nat := 8 * e + c
def State.ctx (s : State) (e c : Nat) : Ctx := s.eng.ctx.get {} (ctxIdx e c)

/-- SUBSTATE of an engine block: its halted contexts (R222). -/
def syncEng (r : Nat) (s : State) : State :=
  s.updPage (pENG r) (fun h => { h with
    substate := min 255 (s.eng.ctx.entries.foldl (fun n (e : Nat × Ctx) => n + b2n (e.2.halted && e.1 / 128 = r)) 0) })

def State.setCtx (s : State) (e c : Nat) (x : Ctx) : State :=
  let s1 := { s with eng := { s.eng with ctx := s.eng.ctx.put {} (ctxIdx e c) x } }
  if x.halted = (s.ctx e c).halted then s1 else syncEng (e / 16) s1

/-- The region of an engine. -/
def engRegion (e : Nat) : Nat := e / 16

/-- The busy contexts of an engine, and whether a context is free. -/
def busyCtx (s : State) (e : Nat) : Nat := ((List.range 8).filter (fun c => (s.ctx e c).busy)).length

/-! ### Counters (R217, R219) -/

/-- A counter gains `n`; where it passes 0xFFFF_FFFF, the engine's place in its retirement order is kept (R220). It keeps its count until
PCNT_OVERFLOW loads it. -/
def counterBy (e k n : Nat) (s : State) : State :=
  let v := s.eng.pcnt.get 0 (8 * e + k)
  { s with eng := { s.eng with
      pcnt := s.eng.pcnt.put 0 (8 * e + k) (v + n)
      passed := if v < 2 ^ 32 && 2 ^ 32 ≤ v + n then s.eng.passed.put 0 (8 * e + k) (s.eng.retired.get 0 e) else s.eng.passed } }

/-- Count `n` events of a kind in every programmable counter of an engine that selects it. -/
def pcntBy (e ev n : Nat) (s : State) : State :=
  (List.range 8).foldl (fun s k =>
    let p := pENG (engRegion e)
    if n != 0 && s.rdB p F.ENG_PCFG_EN k && s.rd p F.ENG_PCFG_EVENT k = ev then counterBy e k n s else s) s
def pcnt (e ev : Nat) (s : State) : State := pcntBy e ev 1 s

/-- Add slots to a fixed counter of an engine: 0 RETIRED, 1 WASTED, 2 STARVED_FRONT, 3 STARVED_BACK. -/
def fixedBy (e k n : Nat) (s : State) : State :=
  { s with eng := { s.eng with fixed := s.eng.fixed.upd 0 (4 * e + k) (fun v => (v + n) % 2 ^ 64) } }

/-- The engine's retirement order goes on with the micro-instruction at `pc` of context `c` (R220). -/
def ordered (e c pc : Nat) (ended : Bool) (s : State) : State :=
  { s with eng := { s.eng with
      retired := s.eng.retired.upd 0 e (· + 1), lastRet := s.eng.lastRet.insert e (c, pc, ended) } }

/-- Context `c` has retired the micro-instruction at `pc` (R219). -/
def retireAt (e c pc : Nat) (ended : Bool) (s : State) : State := pcnt e 0x01 (ordered e c pc ended s)

/-! ### The control store (R199 to R207) -/

/-- Word `w` of a region's copy, and whether all four of its parity bits are good. -/
def csWord (s : State) (r w : Nat) : BitVec 128 := BitVec.ofNat 128 (s.eng.store.get 0 (4608 * r + w))
def csGood (s : State) (r w : Nat) : Bool := s.eng.badPar.get 0 (4608 * r + w) = 0

/-- Rewrite a word with good parity. -/
def csSet (r w v : Nat) (s : State) : State :=
  { s with eng := { s.eng with store := s.eng.store.put 0 (4608 * r + w) v, badPar := s.eng.badPar.erase (4608 * r + w) } }

/-- The first usable peer copy of a word (R203 step 2). -/
def csPeer (s : State) (r w : Nat) : Option Nat :=
  ([1, 2, 3].map (fun k => (r + k) % 4)).find? (fun q => !s.inState (pENG q) .reset && csGood s q w)

/-! ### Tags (R161, R168 to R170) -/

/-- The tag slots an engine's pool has out: those of its contexts' tags, and those of lookups released before they came. -/
def poolUsed (s : State) (e : Nat) : Nat :=
  (s.eng.orphans.get [] e).length + (List.range 8).foldl (fun n c =>
    n + ((s.ctx e c).tags.filter (fun t => t.st != .free)).length) 0

/-- A tag of a context. -/
def Ctx.tag (x : Ctx) (n : Nat) : Tag := (x.tags[n]?).getD {}
def Ctx.setTag (x : Ctx) (n : Nat) (f : Tag → Tag) : Ctx := { x with tags := modAt x.tags n f }

/-- Free a tag after its result was read; LOCn still gives the location of its last result. -/
def Ctx.freeTag (x : Ctx) (n : Nat) : Ctx := x.setTag n (fun t => { t with st := .free })

/-- The frame of a context. -/
def Ctx.theFrame (x : Ctx) (s : State) : Option Frame := x.frame.bind (fun f => s.frames.find? f)

/-- Release the tags of a context that a mask names: results still in flight are discarded on arrival, their slots held until then
(R170, R175). -/
def releaseMask (e mask : Nat) (x : Ctx) (s : State) : State :=
  let l := (List.range 8).filterMap (fun n =>
    if mask.testBit n && (x.tag n).st = .busy then some (⟨(x.tag n).kind, (x.tag n).key, (x.theFrame s).map (·.port)⟩ : Orphan) else none)
  if l.isEmpty then s else { s with eng := { s.eng with orphans := s.eng.orphans.upd [] e (· ++ l) } }

/-- Release every tag of a context. -/
def releaseTags (e : Nat) (x : Ctx) (s : State) : State := releaseMask e 255 x s

/-! ### Entry (R164, R195) -/

/-- A context at the entry of a routine. -/
def Ctx.start (frame : Option Nat) (pc : Nat) (u : List W64) (tw ps mal : Bool) (v : Verdict) (checks : Nat) : Ctx :=
  { busy := true, frame := frame, entryPc := pc, entryU := u, pc := pc, u := u ++ List.replicate 12 0
    tw := tw, ps := ps, mal := mal, verdict := v, checks := checks }

/-- The verdict at entry: KIND NONE, the class tag, and the stream of the frame word. -/
def entryVerdict (x : Frame) : Verdict := { tc := x.tc, stream := x.handle }

/-- The frame word (R164). -/
def frameWord (x : Frame) (idx : Nat) : Nat :=
  idx * 2 ^ 48 + (x.handle.getD 0) * 2 ^ 32 + b2n x.handle.isSome * 2 ^ 28 + b2n (x.src = .twin) * 2 ^ 27 + x.tc * 2 ^ 24
    + x.port * 2 ^ 16 + b2n x.complete * 2 ^ 14 + x.bytes.length

/-- A routine run again (R175): the context is at entry, with the same u0 to u3. -/
def Ctx.again (x : Ctx) (f : Option Frame) : Ctx :=
  Ctx.start x.frame x.entryPc x.entryU x.tw x.ps x.mal
    (match f with | some y => entryVerdict y | none => {}) x.checks

/-- Abandon the routine of a context and run it again (R175): its slots are wasted. -/
def abandon (e c : Nat) (s : State) : State :=
  let x := s.ctx e c
  if !x.busy then s
  else
    let s1 := pcnt e 0x0C (fixedBy e 1 x.slots (releaseTags e x s))
    (s1.setCtx e c (x.again (x.theFrame s))) |> fun s => { s with eng := { s.eng with lastTime := s.eng.lastTime.erase (ctxIdx e c) } }

/-! ### The turn at step 5 (R115, R229) -/

/-- Whether two frames take their turn together at step 5: the same input port, the same walk (R115, R116), or the
same host ring (R258). DEDUCED (log entry 42). -/
def sameTurn (a b : Frame) : Bool :=
  a.port = b.port && a.src = b.src && a.ring.map (·.1) = b.ring.map (·.1) && (a.region = b.region || a.ring.isSome)

/-- The edit billet of a frame whose routine staged edits (R229): linked in front, it becomes the cord's head. `eb` was taken
by the engine at retirement. -/
def linkEdit (f eb : Nat) (s : State) : State :=
  match s.frames.find? f with
  | none => s
  | some x =>
    let tag := ownerTag x
    let s1 := held x.region (ownerClass x) (· + 1) (held x.region .eng (· - 1) s)
    match x.head with
    | none =>
      (s1.setLink eb { alloc := true, head := true, last := true, owner := tag, account := 0xFF }).setHead eb
        { complete := x.complete, bad := x.bad, edited := true, billets := 1, length := 0, tail := billetLocal eb }
        |>.updFrame f (fun x => { x with head := some eb })
    | some b =>
      let h := s1.headW b
      let s2 := s1.setLink b { s1.link b with head := false }
      let s3 := s2.setLink eb { alloc := true, head := true, last := false, owner := tag, account := 0xFF, next := billetLocal b }
      ((s3.setHead b {}).setHead eb { h with edited := true, billets := h.billets + 1 }).updFrame f (fun x => { x with head := some eb })

/-- Step 5 for one frame: what has come of it is stored, its edit billet linked in front. -/
def stepFive (f : Nat) (s : State) : State :=
  match s.frames.find? f with
  | none => s
  | some x =>
    let s1 := storeFrame f (s.updFrame f (fun y => { y with stage := .retired, edit := none }))
    match x.edit with
    | some b => linkEdit f b s1
    | none => s1

/-- The frames of one turn that are through with steps 2 and 3 go to step 5, each behind every earlier one (R115). -/
def handOn (x : Frame) (s : State) : State :=
  (s.frames.entries.foldl (fun (q : Bool × State) (e : Nat × Frame) =>
    if !q.1 || !sameTurn e.2 x then q
    else match e.2.stage with
      | .done => (true, stepFive e.1 q.2)
      | .crossing | .received | .parsed | .running => (false, q.2)
      | .retired | .admitted => q) (true, s)).2

/-- A frame is through with steps 2 and 3 as `g` leaves it. -/
def frameDone (f : Nat) (g : Frame → Frame) (s : State) : State :=
  match s.frames.find? f with
  | none => s
  | some x => handOn x (s.updFrame f (fun y => { g y with stage := .done }))

/-- A frame is dropped at step 2 or 3: it holds back no later one (R115). -/
def dropTurn (f : Nat) (s : State) : State :=
  match s.frames.find? f with
  | none => s
  | some x => handOn x (dropEarly f s)

/-! ### Routine faults (R193) -/

/-- Write the fault log (R193, R223). -/
def faultLog (e c cause pc : Nat) (s : State) : State :=
  let p := pENG (engRegion e)
  let h := s.rd p F.ENG_FAULT_HEAD_HEAD
  ((((s.wr p F.ENG_FAULT_LOG_CAUSE cause h).wr p F.ENG_FAULT_LOG_ENGINE (e % 16) h).wr p F.ENG_FAULT_LOG_CONTEXT c h).wr
    p F.ENG_FAULT_LOG_PC pc h).wr p F.ENG_FAULT_HEAD_HEAD ((h + 1) % 16)

/-- End a routine without handing its frame on: staged effects are discarded, tags released, the frame dropped. -/
def endDropped (e c : Nat) (s : State) : State :=
  let x := s.ctx e c
  let s1 := (releaseTags e x s).setCtx e c {}
  match x.frame with
  | some f => dropTurn f s1
  | none => s1

/-- The causes of R193, by their code in the log. -/
def fILLEGAL : Nat := 1
def fWINDOW : Nat := 2
def fSTAGE : Nat := 3
def fVRANGE : Nat := 4
def fSTACK : Nat := 5
def fLIMIT : Nat := 6
def fNOFRAME : Nat := 7

/-- A routine fault. -/
def routineFault (e c cause : Nat) (s : State) : State :=
  let x := s.ctx e c
  let r := engRegion e
  let s1 := faultLog e c cause x.pc (count (cRegion r (31 + cause)) s)
  report (pENG r) .noted (pcnt e 0x0D (fixedBy e 1 x.slots (endDropped e c s1)))

/-! ### Micro-traps (R208 to R214) -/

/-- The flags word (R181). -/
def Ctx.flags (x : Ctx) : Nat :=
  b2n x.z + 2 * b2n x.n + 4 * b2n x.c + 8 * b2n x.v + 16 * b2n x.h + 32 * b2n x.tw + 64 * b2n x.ps + 128 * b2n x.mal

/-- Write flags Z, N, C, V and H from a word. -/
def Ctx.setFlags (x : Ctx) (w : Nat) : Ctx :=
  { x with z := w.testBit 0, n := w.testBit 1, c := w.testBit 2, v := w.testBit 3, h := w.testBit 4 }

/-- The trap word (R210). -/
def TrapFrame.word (t : TrapFrame) : Nat :=
  t.cause * 2 ^ 60 + t.info * 2 ^ 56 + t.tag * 2 ^ 53 + t.trapPc * 2 ^ 40 + t.resumePc * 2 ^ 27 + t.stack.length * 2 ^ 24
    + t.flags * 2 ^ 16

/-- A word of a trap frame (R210). -/
def TrapFrame.get (t : TrapFrame) (k : Nat) : Nat :=
  if k = 0 then t.word
  else if k = 1 then t.arg
  else if k < 18 then ((t.u[k - 2]?).getD 0).toNat
  else if k = 18 then (t.stack.reverse.zipIdx).foldl (fun a e => a + e.1 * 2 ^ (13 * e.2)) 0
  else 0

/-- The trap frame of a context. -/
def Ctx.save (x : Ctx) (cause info tag trapPc resumePc arg : Nat) : TrapFrame :=
  ⟨cause, info, tag, trapPc, resumePc, x.flags, arg, x.u, x.stack⟩

/-- The vector of a trap cause: where it continues, when it is valid. -/
def trapVec (s : State) (e cause : Nat) : Option Nat :=
  if s.rdB (pENG (engRegion e)) F.ENG_DISPATCH_VALID (16 + cause) then
    some (s.rd (pENG (engRegion e)) F.ENG_DISPATCH_PC (16 + cause)) else none

/-- Take a micro-trap whose vector is valid (R209). -/
def takeTrap (e c vec : Nat) (t : TrapFrame) (s : State) : State :=
  let x := s.ctx e c
  pcnt e 0x0B (s.setCtx e c { x with
    trap := some t, inTrap := true, stack := [t.resumePc], pc := vec, slots := x.slots + 2, trapSlots := x.trapSlots + 2
    u := (x.u.set 14 (BitVec.ofNat 64 t.arg)).set 15 (BitVec.ofNat 64 t.word) })

/-- A LOOKUP or SLOW trap, with R212 inside a trap routine and R213 without a vector. -/
def mustTrap (e c : Nat) (t : TrapFrame) (s : State) : State :=
  let x := s.ctx e c
  let r := engRegion e
  if x.inTrap then routineFault e c fSTACK s
  else match trapVec s e t.cause with
    | some v => takeTrap e c v t s
    | none =>
      let s1 := faultLog e c 8 x.pc (count (cRegion r 40) s)
      report (pENG r) .noted (fixedBy e 1 x.slots (endDropped e c s1))

/-! ### Retirement (R173, R229, R115) -/

/-- Apply staged counter increments, then scratch writes in their order (R173, R178). -/
def applyScr (r : Nat) (o : ScrOp) (s : State) : State :=
  match o with
  | .store k v => { s with eng := { s.eng with scratch := s.eng.scratch.put 0 (64 * r + k) v.toNat } }
  | .add k v => { s with eng := { s.eng with scratch := s.eng.scratch.upd 0 (64 * r + k) (fun w => (w + v.toNat) % 2 ^ 64) } }

def applyStaged (r : Nat) (x : Ctx) (s : State) : State :=
  x.scr.foldl (fun s o => applyScr r o s) (x.incs.foldl (fun s i => countBy i.1 i.2 s) s)

/-- RETIRE of a frame (R173): the engine takes an edit billet when edits or fix-ups are staged, and the frame waits for its turn at step 5. DEDUCED
(log entry 52). -/
def retireFrame (e : Nat) (f : Nat) (x : Ctx) (s : State) : State :=
  let r := engRegion e
  if x.edits.isEmpty && x.fixups = 0 then frameDone f (fun y => { y with verdict := x.verdict }) s
  else
    match alloc r .eng (0x40 + e) 0xFF s with
    | (none, s1) => dropTurn f (count (cRegion r 64) s1)
    | (some b, s1) => frameDone f (fun y => { y with verdict := x.verdict, edits := x.edits, fixups := x.fixups, edit := some b }) s1

/-- RETIRE and DROPR (R173): `drop` is n of DROPR. `x` is the context after its last micro-instruction; its slots are RETIRED but for its
trap-entry slots (R217). -/
def endRun (e c : Nat) (x : Ctx) (drop : Option Nat) (s : State) : State :=
  let r := engRegion e
  let s1 := fixedBy e 1 x.trapSlots (fixedBy e 0 (x.slots - x.trapSlots) ((releaseTags e x (retireAt e c x.pc true s)).setCtx e c {}))
  let s2 := applyStaged r x s1
  match x.frame with
  | none => s2
  | some f =>
    match drop with
    | some n => dropTurn f (count (cRegion r (48 + n)) s2)
    | none =>
      if x.verdict.kind = .none then dropTurn f (count (cRegion r 43) s2)
      else retireFrame e f x s2

/-! ### The issue of one micro-instruction -/

/-- Why a micro-instruction does not complete in its slot. -/
inductive Stop where
  | stall (event : Nat)
  | trap (tag : Nat)
  | fault (cause : Nat)
  deriving DecidableEq, Repr

/-- COND (R182). -/
def condHolds (k : Nat) (x : Ctx) : Bool :=
  match k with
  | 0x1 => true | 0x2 => x.z | 0x3 => !x.z | 0x4 => x.c | 0x5 => !x.c | 0x6 => x.n | 0x7 => !x.n | 0x8 => x.v
  | 0x9 => x.h | 0xA => !x.h | 0xB => x.tw | 0xC => x.ps | 0xD => x.mal | 0xE => x.c && !x.z | 0xF => x.n != x.v
  | _ => false

/-- The tag a source selector waits for. -/
def selTag (n : Nat) : Option Nat :=
  if 0x18 ≤ n && n < 0x20 then some (n - 0x18) else if 0x30 ≤ n && n < 0x38 then some (n - 0x30) else none

/-- Whether a source can be read now (R168, R171). A stall that no event of R219 names has number 0x40. -/
def srcReady (x : Ctx) (n : Nat) : Except Stop Unit :=
  match selTag n with
  | none => .ok ()
  | some t => match (x.tag t).st with
    | .busy => .error (.stall 0x40)
    | .fault => .error (.trap t)
    | _ => .ok ()

/-- The value of a source (R180). -/
def srcValue (s : State) (e c : Nat) (x : Ctx) (mi : MI) (n : Nat) : Nat :=
  if n < 16 then ((x.u[n]?).getD 0).toNat
  else if n = 0x10 then mi.imm.toNat
  else if n = 0x11 then (mi.imm.signExtend 64).toNat
  else if n = 0x13 then x.flags
  else if n = 0x14 then u3Of (max s.sNow (s.eng.lastTime.get 0 (ctxIdx e c)))
  else if 0x18 ≤ n && n < 0x20 then (let t := x.tag (n - 0x18); if t.st = .done then t.result else 0)
  else if 0x20 ≤ n && n < 0x2C then bitsOf x.key (32 * (n - 0x20) + 31) (32 * (n - 0x20))
  else if 0x30 ≤ n && n < 0x38 then (x.tag (n - 0x30)).loc
  else 0

/-- A result read frees its tag (R168). DEDUCED (log entry 48). -/
def srcAfter (n : Nat) (x : Ctx) : Ctx :=
  if 0x18 ≤ n && n < 0x20 then (if (x.tag (n - 0x18)).st = .done then x.freeTag (n - 0x18) else x) else x

/-- Write a destination (R180). -/
def dstWrite (n v : Nat) (x : Ctx) : Ctx :=
  if n < 16 then { x with u := x.u.set n (BitVec.ofNat 64 v) }
  else if n = 0x13 then x.setFlags v
  else if 0x20 ≤ n && n < 0x2C then { x with key := putBits x.key (32 * (n - 0x20)) 32 v }
  else x

/-- Continue after an effect (R182). -/
def nextPc (mi : MI) (x : Ctx) : Ctx :=
  { x with pc := if condHolds mi.cond.toNat x then mi.target.toNat else x.pc + 1 }

/-- The slots an operation takes (R184). -/
def opSlots (op : Nat) : Nat := if [0x1F, 0x25, 0x32, 0x33].contains op then 2 else 1

/-- Operations that need a frame (R196). -/
def needsFrame (op : Nat) : Bool := [0x30, 0x42, 0x31, 0x32, 0x33, 0x34, 0x60, 0x02, 0x03].contains op

/-- The two source values. -/
def operands (s : State) (e c : Nat) (x : Ctx) (mi : MI) : Except Stop (Nat × Nat × Ctx) :=
  match srcReady x mi.srcA.toNat with
  | .error q => .error q
  | .ok _ => match srcReady x mi.srcB.toNat with
    | .error q => .error q
    | .ok _ => .ok (srcValue s e c x mi mi.srcA.toNat, srcValue s e c x mi mi.srcB.toNat,
        srcAfter mi.srcB.toNat (srcAfter mi.srcA.toNat x))

/-- Remember the device time a routine has read, so that a later read is not lower (R180). -/
def noteTime (e c : Nat) (mi : MI) (s : State) : State :=
  if mi.srcA = 0x14 || mi.srcB = 0x14 then
    { s with eng := { s.eng with lastTime := s.eng.lastTime.insert (ctxIdx e c) (max s.sNow (s.eng.lastTime.get 0 (ctxIdx e c))) } }
  else s

/-- Take a LOOKUP trap at a tag in FAULT: the tag becomes FREE (R208). -/
def lookupTrap (e c t : Nat) (s : State) : State :=
  let x := s.ctx e c
  let y := x.freeTag t
  mustTrap e c (y.save 0 (x.tag t).info t x.pc x.pc 0) (s.setCtx e c y)

/-- A routine fault raised by a micro-instruction that took its slots. DEDUCED (log entry 51). -/
def faultAt (e c cause slots : Nat) (s : State) : State :=
  let x := s.ctx e c
  routineFault e c cause (s.setCtx e c { x with slots := x.slots + slots })

/-- What a stop does: a stall counts its context-slot and changes nothing else. -/
def stopped (e c op : Nat) (q : Stop) (s : State) : State :=
  match q with
  | .stall ev => pcnt e ev s
  | .trap t => lookupTrap e c t s
  | .fault cause => faultAt e c cause (opSlots op) s

/-! ### Windows and staged edits (R165, R176) -/

/-- Whether the first `n` bytes of a frame have come, or the whole frame. -/
def bytesHere (x : Frame) (n : Nat) : Bool := x.complete || n ≤ x.bytes.length

/-- Window bytes `o` to `o + n - 1` as a number (R165). -/
def windowRead (x : Frame) (o n : Nat) : Except Stop Nat :=
  if 256 < o + n then .error (.fault fWINDOW)
  else if !bytesHere x (o + n) then .error (.stall 0x07)
  else .ok (ofBe ((slice x.bytes o n) ++ List.replicate (n - (slice x.bytes o n).length) 0))

/-- The present length of the shadow header while at least `k` bytes of the frame are known (R176). -/
def shadowLen (x : Frame) (es : List Edit) : Int := (min 256 (x.bytes.length - 4) : Nat) + netChange es

/-- Stage an edit of the `k` shadow bytes from `o` (R176): its extent must lie within the present length, which is awaited when bytes not yet
received decide it. The bound of 9,728 B is held against the bytes that have come. DEDUCED (log entry 139). -/
def stageEdit (f : Frame) (o k : Nat) (ed : Edit) (x : Ctx) : Except Stop Ctx :=
  let known := f.complete || 260 ≤ f.bytes.length
  let net := netChange (x.edits ++ [ed])
  if !known && shadowLen f x.edits < (o + k : Nat) then .error (.stall 0x07)
  else if shadowLen f x.edits < (o + k : Nat) || 16 ≤ x.edits.length || net < -128 || 64 < net
      || 9728 < (f.bytes.length : Int) + net then .error (.fault fSTAGE)
  else .ok { x with edits := x.edits ++ [ed] }

/-- What an edit operation stages at frame `f` (R188): its offset, its extent and the edit. -/
def hdrEdit (op : Nat) (mi : MI) (a b : Nat) (f : Frame) (x : Ctx) : Except Stop Ctx :=
  let o := a + mi.imm.toNat
  let n := mi.mod.toNat % 8 + 1
  match op with
  | 0x31 => stageEdit f o n (.write o (beBytes n b)) x
  | 0x32 => stageEdit f o 0 (.insert o (beBytes n b)) x
  | _ => stageEdit f o (mi.mod.toNat + 1) (.delete o (mi.mod.toNat + 1)) x

/-- The window bytes HRD reads, and the byte and bit span of KHDR (R188, R189). -/
def hrdBytes (mi : MI) (a : Nat) (f : Frame) : Except Stop Nat := windowRead f (a + mi.imm.toNat) (mi.mod.toNat % 8 + 1)
def khdrBytes (mi : MI) (a : Nat) (f : Frame) : Except Stop Nat :=
  let b0 := 8 * a + mi.imm.toNat
  windowRead f (b0 / 8) ((b0 + mi.fwid.toNat) / 8 - b0 / 8 + 1)

/-- Issue a lookup on a tag: a BUSY tag, then an empty pool, stalls the context; an earlier result is discarded. -/
def issueTag (e n : Nat) (k : LookKind) (x : Ctx) (s : State) : Except Stop Ctx :=
  let t := x.tag n
  if t.st = .busy then .error (.stall 0x40)
  else if t.st = .free && 16 ≤ poolUsed s e then .error (.stall 0x06)
  else .ok (x.setTag n (fun _ => { st := .busy, kind := k, key := x.key }))

/-- The tags of a mask, by number. -/
def maskTags (m : Nat) : List Nat := (List.range 8).filter (fun n => m.testBit n)

/-- Wait for tags: any still BUSY stalls, then the lowest in FAULT traps; else they become FREE. -/
def waitTags (l : List Nat) (x : Ctx) : Except Stop Ctx :=
  if l.any (fun n => (x.tag n).st = .busy) then .error (.stall 0x08)
  else match l.find? (fun n => (x.tag n).st = .fault) with
    | some n => .error (.trap n)
    | none => .ok (l.foldl (fun x n => x.freeTag n) x)

/-! ### The issue unit (R160) -/

/-- The stall an answer names. -/
def stallOf {α : Type} (q : Except Stop α) : Option Nat := match q with | .error (.stall ev) => some ev | _ => none

/-- What a micro-instruction whose sources have been read still waits for. -/
def effectStall (s : State) (e : Nat) (mi : MI) (a b : Nat) (x : Ctx) : Option Nat :=
  let onFrame := fun (g : Frame → Option Nat) => (x.theFrame s).bind g
  match mi.opcode with
  | 0x30 => onFrame (fun f => stallOf (hrdBytes mi a f))
  | 0x31 | 0x32 | 0x33 => onFrame (fun f => stallOf (hdrEdit mi.opcode mi a b f x))
  | 0x42 => onFrame (fun f => stallOf (khdrBytes mi a f))
  | 0x50 | 0x51 | 0x52 => stallOf (issueTag e (mi.mod.toNat % 8) .lpm x s)
  | 0x53 => stallOf (waitTags [mi.mod.toNat % 8] x)
  | 0x54 => stallOf (waitTags (maskTags mi.imm.toNat) x)
  | _ => none

/-- The event a context stalls on at its micro-instruction: none where it does not stall. -/
def stalls (s : State) (e : Nat) (x : Ctx) (mi : MI) (c : Nat) : Option Nat :=
  if !mi.legal || (x.frame.isNone && needsFrame mi.opcode) then none
  else match operands s e c x mi with
    | .error (.stall ev) => some ev
    | .error _ => none
    | .ok (a, b, y) => effectStall s e mi a b y

/-- A context that is ready: its routine runs, its word is fetched whole, its run is within MAX_STEPS, and it is not stalled. A fetch of word
4,608 and a word no table lists end in their fault. -/
def ready (s : State) (e c : Nat) : Bool :=
  let x := s.ctx e c
  let r := engRegion e
  let mi := miDecode (csWord s r x.pc)
  x.busy && !x.halted && x.slots < s.rd (pENG r) F.ENG_CTRL_MAX_STEPS
    && (maxPc < x.pc || (csGood s r x.pc
      && ((opUse mi.opcode).isNone || (x.slots + opSlots mi.opcode ≤ s.rd (pENG r) F.ENG_CTRL_MAX_STEPS && (stalls s e x mi c).isNone))))

/-- The context the next issue slot of an engine goes to: round robin among the ready ones (R160). -/
def nextTurn (s : State) (e : Nat) : Option Nat :=
  ((List.range 8).map (fun k => (s.eng.turn.get 7 e + 1 + k) % 8)).find? (ready s e)

/-- A context is served. -/
def served (e c : Nat) (s : State) : State := { s with eng := { s.eng with turn := s.eng.turn.put 7 e c } }

/-- The state of the issue of the micro-instruction at a context's micro-PC, when the context may issue it now: not halted, its word of good
parity and of the operation `op`, and its run within MAX_STEPS. -/
def issues (e c op : Nat) (s : State) : Option (Ctx × MI) :=
  let x := s.ctx e c
  let r := engRegion e
  let mi := miDecode (csWord s r x.pc)
  if x.busy && !x.halted && s.inState (pENG r) .run && x.pc ≤ maxPc && csGood s r x.pc && mi.opcode = op
      && x.slots + opSlots op ≤ s.rd (pENG r) F.ENG_CTRL_MAX_STEPS then some (x, mi) else none

/-- A context whose micro-PC names no listed operation, or word 4,608: a routine fault with cause ILLEGAL at its fetch (R183). Any row's step finds
it so. -/
def illegalFetch (e c : Nat) (s : State) : Bool :=
  let x := s.ctx e c
  let r := engRegion e
  x.busy && !x.halted && s.inState (pENG r) .run
    && x.slots < s.rd (pENG r) F.ENG_CTRL_MAX_STEPS
    && (maxPc < x.pc || (csGood s r x.pc && (opUse (miDecode (csWord s r x.pc)).opcode).isNone))

/-! ### Captures (R219 to R221) -/

/-- OVF of counter `n`. -/
def ovfF (n : Nat) : Field := match n with
  | 0 => F.ENG_PCNT_OVF_OVF0 | 1 => F.ENG_PCNT_OVF_OVF1 | 2 => F.ENG_PCNT_OVF_OVF2 | 3 => F.ENG_PCNT_OVF_OVF3
  | 4 => F.ENG_PCNT_OVF_OVF4 | 5 => F.ENG_PCNT_OVF_OVF5 | 6 => F.ENG_PCNT_OVF_OVF6 | _ => F.ENG_PCNT_OVF_OVF7

/-- R219: a counter that has passed 0xFFFF_FFFF loads its RELOAD, the events beyond counting on. -/
def pcntOverflow (e n : Nat) (s : State) : State :=
  let p := pENG (engRegion e)
  let k := 8 * e + n
  let v := s.eng.pcnt.get 0 k
  if v < 2 ^ 32 then s
  else
    let u := s.rd p F.ENG_RELOAD_RELOAD n + (v - 2 ^ 32)
    let s1 := { s with eng := { s.eng with
        pcnt := s.eng.pcnt.put 0 k u, passed := s.eng.passed.put 0 k (if 2 ^ 32 ≤ u then s.eng.retired.get 0 e else 0) } }
    let s2 := s1.setF p (ovfF n) (e % 16)
    match s.rd p F.ENG_PCFG_OVF_ACT n with
    | 0 => s2
    | 1 => srcEvent (regSource (engRegion e) 3) s2
    | a => { s2 with eng := { s2.eng with captures := s2.eng.captures ++ [⟨e, n, a = 3, s.eng.passed.get 0 k⟩] } }

/-- Write a sample record (R220, R221). -/
def pushSample (r v : Nat) (s : State) : State :=
  let p := pENG r
  let l := s.eng.samples.get [] r
  if 256 ≤ l.length then s.addSat p F.ENG_SAMPLE_STAT_LOST
  else
    let s1 := { s with eng := { s.eng with samples := s.eng.samples.put [] r (l ++ [v]) } }
    let s2 := s1.wr p F.ENG_SAMPLE_STAT_COUNT (l.length + 1)
    if l.length + 1 = s.rd p F.ENG_SAMPLE_STAT_WATERMARK then srcEvent (regSource r 4) s2 else s2

/-- The sample record of a capture at the micro-instruction at `pc` of context `c` (R220). -/
def sampleRecord (e c n pc t : Nat) : Nat :=
  pc * 2 ^ 51 + c * 2 ^ 48 + e % 16 * 2 ^ 44 + n * 2 ^ 41 + 6 * 2 ^ 38 + tNs t % 2 ^ 32

/-- An overflow is captured at the micro-instruction the engine retired last; a COUNTER trap is taken in its context, unless that
micro-instruction ended its routine (R208, R212, R213, R220). -/
def capture (q : OvfCap) (s : State) : State :=
  match s.eng.lastRet.find? q.engine with
  | none => s
  | some (c, pc, ended) =>
    let e := q.engine
    let r := engRegion e
    let x := s.ctx e c
    let s1 := pushSample r (sampleRecord e c q.counter pc s.sNow) { s with eng := { s.eng with captures := s.eng.captures.erase q } }
    if !q.trap then s1
    else match trapVec s1 e 2 with
      | some v => if !ended && x.busy && !x.inTrap && !x.halted then takeTrap e c v (x.save 2 q.counter 0 pc x.pc 0) s1
          else count (cRegion r 41) s1
      | none => count (cRegion r 41) s1

/-- Whether what caused an overflow at `place` of an engine's retirement order lies six micro-instructions back (R220). -/
def skidUp (s : State) (e place : Nat) : Bool := place + 6 ≤ s.eng.retired.get 0 e

/-- The overflows of an engine whose skid is up are captured at the micro-instruction just retired (R220). -/
def forceCaptures (e : Nat) (s : State) : State :=
  let s1 := (List.range 8).foldl (fun s n =>
    if 2 ^ 32 ≤ s.eng.pcnt.get 0 (8 * e + n) && skidUp s e (s.eng.passed.get 0 (8 * e + n)) then pcntOverflow e n s else s) s
  (s1.eng.captures.filter (fun q => q.engine = e && skidUp s1 e q.place)).foldl (fun s q => capture q s) s1

/-- An issue slot in which the engine issues nothing (R217): a stall it is spent on is counted (R219), and the slot is STARVED_FRONT while a
context is free. DESIGN CHOICE (log entry 138). -/
def starve (e c op : Nat) (s : State) : State :=
  let s1 := match issues e c op s with
    | some (x, mi) => (match stalls s e x mi c with | some ev => pcnt e ev s | none => s)
    | none => s
  fixedBy e (if busyCtx s e < 8 then 2 else 3) 1 s1

/-- One issue slot (R160) for operation `op` of context `c`: a context that stalls counts its context-slot, one that is served issues. Illegal
words and frame operations of event routines fault; then the operands are read, and `body` is the rest, from the context with its
source tags freed and A and B. -/
def issue (e c op : Nat) (body : MI → Nat → Nat → Ctx → State → State) (s : State) : State :=
  if !s.inState (pENG (engRegion e)) .run then s
  else match nextTurn s e with
    | none => starve e c op s
    | some k =>
      if illegalFetch e c s then
        if k = c then faultAt e c fILLEGAL (b2n ((s.ctx e c).pc ≤ maxPc)) (served e c s) else s
      else match issues e c op s with
        | none => s
        | some (x, mi) => match stalls s e x mi c with
          | some ev => pcnt e ev s
          | none =>
            if k != c then s
            else
              let s1 := served e c s
              if !mi.legal then faultAt e c fILLEGAL (opSlots op) s1
              else if x.frame.isNone && needsFrame op then faultAt e c fNOFRAME (opSlots op) s1
              else match operands s1 e c x mi with
                | .error q => stopped e c op q s1
                | .ok (a, b, y) => forceCaptures e (noteTime e c mi (body mi a b y s1))

/-- A micro-instruction that retires with the context as its effect left it, branching on it; `ev` are the events it counts. -/
def finish (e c op : Nat) (mi : MI) (y : Ctx) (ev : List (Nat × Nat)) (s : State) : State :=
  let x := s.ctx e c
  let s0 := retireAt e c x.pc false s
  let s1 := ev.foldl (fun s v => pcntBy e v.1 v.2 s) (if condHolds mi.cond.toNat y then pcnt e 0x0F s0 else s0)
  s1.setCtx e c (nextPc mi { y with slots := x.slots + opSlots op })

/-- A micro-instruction that changes only its context. -/
def micro (e c op : Nat) (body : MI → Nat → Nat → Ctx → State → Except Stop Ctx) (ev : MI → Ctx → List (Nat × Nat)) (s : State) : State :=
  issue e c op (fun mi a b x s => match body mi a b x s with
    | .error q => stopped e c op q s
    | .ok y => finish e c op mi y (ev mi x) s) s

/-- No further events. -/
def noEv : MI → Ctx → List (Nat × Nat) := fun _ _ => []

/-! ### ALU and field operations (R181, R186, R187) -/

/-- The low 64 bits. -/
def w64 (n : Nat) : Nat := n % 2 ^ 64

/-- Z and N of a result, with C and V given. -/
def Ctx.znvc (x : Ctx) (r : Nat) (cf vf : Bool) : Ctx := { x with z := r = 0, n := r.testBit 63, c := cf, v := vf }

/-- An operation's result with its carry and overflow (R181, R186). -/
structure AluRes where
  r : Nat
  c : Bool := false
  v : Bool := false
  deriving DecidableEq, Repr

def aluAdd (a b : Nat) : AluRes :=
  let r := w64 (a + b)
  ⟨r, 2 ^ 64 ≤ a + b, a.testBit 63 = b.testBit 63 && r.testBit 63 != a.testBit 63⟩
def aluSub (a b : Nat) : AluRes :=
  let r := w64 (a + 2 ^ 64 - b)
  ⟨r, b ≤ a, a.testBit 63 != b.testBit 63 && r.testBit 63 != a.testBit 63⟩
def aluShl (a b : Nat) : AluRes := let k := b % 64; ⟨w64 (a <<< k), k != 0 && a.testBit (64 - k), false⟩
def aluShr (a b : Nat) : AluRes := let k := b % 64; ⟨a >>> k, k != 0 && a.testBit (k - 1), false⟩
def aluSar (a b : Nat) : AluRes :=
  let k := b % 64
  ⟨if a.testBit 63 then w64 ((a >>> k) + (2 ^ 64 - 2 ^ (64 - k))) else a >>> k, k != 0 && a.testBit (k - 1), false⟩
def aluRotl (a b : Nat) : AluRes :=
  let k := b % 64
  ⟨w64 ((a <<< k) ||| (a >>> (64 - k))), k != 0 && a.testBit (64 - k), false⟩

/-- An ALU or field operation: the flags under SETF, then the destination. DEDUCED (log entry 49). -/
def aluStep (mi : MI) (q : AluRes) (x : Ctx) : Ctx :=
  dstWrite mi.dst.toNat q.r (if mi.setf = 1 then x.znvc q.r q.c q.v else x)

/-- A field of a number, [f] of R184. -/
def fieldOf (mi : MI) (a : Nat) : Nat := bitsOf a (mi.fofs.toNat + mi.fwid.toNat) mi.fofs.toNat

/-! ### Lookup issue and completion (R161, R167 to R171) -/

/-- The answer of a lookup reaches its tag. -/
def answerTag (e c n : Nat) (a : LookAns) (s : State) : State :=
  let x := s.ctx e c
  s.setCtx e c (x.setTag n (fun t => match a with
    | .hit r l => { t with st := .done, result := r, loc := l, hit := true }
    | .miss => { t with st := .done, result := 0, loc := 0, hit := false }
    | .fault i => { t with st := .fault, result := 0, loc := 0, hit := false, info := i }))

/-- The lookup outstanding on a tag of a context. -/
def outstanding (s : State) (e c n : Nat) : Option Tag :=
  let t := (s.ctx e c).tag n
  if (s.ctx e c).busy && t.st = .busy then some t else none

/-- A lookup whose tag was released arrives, and its slot is freed (R170). -/
def dropOrphan (e k : Nat) (s : State) : State :=
  { s with eng := { s.eng with orphans := s.eng.orphans.upd [] e (fun l => l.eraseIdx k) } }

end Sys2Proof.Machine
end

