-- ==== Sys2Proof/Machine/RegOps.lean ====
section
/-! DEFINITION. A register write (R52 to R68): the value a view leaves in every field, the four checks of R56 in their order, and what the
write does to fields of each commit class. -/
namespace Sys2Proof.Machine

/-- One field a write reaches: the field, its instance, and the value the write leaves in it. -/
structure NewVal where
  f : Field
  i : Nat
  j : Nat
  v : Nat
  deriving DecidableEq, Repr

/-- The bits of a written word that fall to a field. -/
def Field.bits (f : Field) (v : Nat) : Nat := bitsOf v f.hi f.lo

/-- The value a view starts from: the shadow of a B field (R54). -/
def State.viewBase (s : State) (p : Nat) (f : Field) (i j : Nat) : Nat :=
  if f.com = .buf then s.rdShadow p f i j else s.rd p f i j

/-- What a write through a view leaves in a field (R54): RW fields take the view's outcome, ROS fields are cleared through the clear
view, a count as a whole, WO fields act through the normal view only, RO fields are ignored. -/
def newVal (s : State) (p : Nat) (w : View) (v : Nat) (e : Field × Nat × Nat) : Option NewVal :=
  let f := e.1
  let wid := f.hi - f.lo + 1
  match f.acc with
  | .rw => some ⟨f, e.2.1, e.2.2, viewOutcome w (s.viewBase p f e.2.1 e.2.2) (f.bits v) wid⟩
  | .ros =>
    if w = .clear then
      some ⟨f, e.2.1, e.2.2, if f.isCount p then (if f.bits v = 0 then s.rd p f e.2.1 e.2.2 else 0)
        else viewOutcome .clear (s.rd p f e.2.1 e.2.2) (f.bits v) wid⟩
    else none
  | .wo => if w = .normal then some ⟨f, e.2.1, e.2.2, f.bits v⟩ else none
  | .ro => none

/-- The values a write leaves, field by field. -/
def newVals (s : State) (p : Nat) (b : Blk) (off : Nat) (w : View) (v : Nat) : List NewVal :=
  (regFields b off).filterMap (newVal s p w v)

/-- The value a write leaves in a field, its present value (of a B field, its shadow) where the write does not reach it. -/
def nv (s : State) (p : Nat) (l : List NewVal) (f : Field) (i : Nat := 0) (j : Nat := 0) : Nat :=
  match l.find? (fun x => x.f = f && x.i = i && x.j = j) with
  | some x => x.v
  | none => s.rdNext p f i j

/-- Whether a write gives a field a value other than its present one. -/
def changes (s : State) (p : Nat) (l : List NewVal) (f : Field) (i : Nat := 0) (j : Nat := 0) : Bool :=
  nv s p l f i j != s.rdNext p f i j

/-- Whether every RW and WO field is left within its range, and no RSV bit is written 1 (check 2 of R56). -/
def rangeOk (s : State) (p : Nat) (b : Blk) (off : Nat) (w : View) (v : Nat) : Bool :=
  let fs := regFields b off
  !fs.isEmpty && (v &&& coveredMask fs) = v && v < 2 ^ 32
    && (newVals s p b off w v).all (fun x => x.f.acc = .ros || (x.f.min ≤ x.v && x.v ≤ x.f.max))

/-- Whether a write to a register reaches a B field. -/
def touchesB (b : Blk) (off : Nat) : Bool := (regFields b off).any (fun e => e.1.com = .buf && e.1.acc = .rw)

/-- Check 3 of R56 by R60, and R72 for the agent whose lease lapsed; PEAT_CTRL is written in every state (R340). -/
def stateOk (s : State) (p ag : Nat) (b : Blk) (off : Nat) : Bool :=
  (match (s.page p).state with
   | .fenced => !touchesB b off
   | .ready | .run => true
   | _ => p = pPEAT && off = 0x040)
  && !(touchesB b off && (s.page p).lapsed = some ag)

/-- Check 4 of R56. -/
def busy (s : State) (p : Nat) (b : Blk) (off : Nat) : Bool :=
  !(s.page p).posted.isEmpty || (touchesB b off && (s.page p).commitPending)

/-- Store what a write leaves: I and T fields take it at once (R61), B fields in their shadow (R62), P fields when it is delivered
(R66); a WO field keeps nothing. -/
def storeVal (p ag : Nat) (s : State) (x : NewVal) : State :=
  match x.f.acc with
  | .wo | .ro => s
  | .ros => s.wr p x.f x.v x.i x.j
  | .rw => match x.f.com with
    | .buf => s.wrShadow p x.f ag x.v x.i x.j
    | .post => s.updPage p (fun h => { h with posted := h.posted ++ [(fkey p x.f x.i x.j, x.v)] })
    | _ => s.wr p x.f x.v x.i x.j

/-- Whether a register is that of an idle port cell: one that serves another lane of a multi-lane port (R22, R102, R335). -/
def idleReg (s : State) (p off : Nat) : Bool :=
  let i := if off < 0x800 then (off - 0x080) / 0x40 else (off - 0x800) / 0x40
  isBlk p .port && ((0x080 ≤ off && off < 0x380) || (0x800 ≤ off && off < 0xB00))
    && (match layoutPort (s.rd p F.QUAD_MODE_MODE (i / 4)) (i % 4) with | some k => k != i % 4 | none => false)

/-- What a write to a page leaves, field by field; a write to an idle port cell is accepted and leaves everything as it was. DEDUCED (log
entry 10). -/
def gateVals (s : State) (p off : Nat) (w : View) (v : Nat) : List NewVal :=
  match pageBlk p with
  | some b => if idleReg s p off then [] else newVals s p b off w v
  | none => []

/-- The result of the four checks of a register write outside the common header (R56). `xr`, `xs` and `xb` are the register's own checks of
range, state and busy on the values it would leave. -/
def gateCode (s : State) (p off : Nat) (w : View) (ag v : Nat) (xr xs xb : List NewVal → Bool) : Nat :=
  match pageBlk p with
  | none => rRANGE
  | some b =>
    let l := gateVals s p off w v
    firstFail (lockedBy s p ag) ((idleReg s p off || rangeOk s p b off w v) && xr l) (stateOk s p ag b off && xs l) (busy s p b off || xb l)

/-- A register write outside the common header: its effect `body` when it passes the checks, and its result in BLK_RESULT (R56, R57). -/
def regGate (p off : Nat) (w : View) (ag v : Nat) (xr xs : List NewVal → Bool) (xb : List NewVal → Bool)
    (body : List NewVal → State → State) (s : State) : State :=
  match pageBlk p with
  | none => s
  | some b =>
    let c := gateCode s p off w ag v xr xs xb
    let s0 := if c = rSTATE && touchesB b off && (s.page p).lapsed = some ag
      then s.updPage p (fun h => { h with lapsed := none }) else s
    if c = rDONE then record p ag (off / 4) 0xFF rDONE (body (gateVals s p off w v) s)
    else record p ag (off / 4) 0xFF c s0

/-- A register write that stores what it leaves, `eff` being its own effect once stored. -/
def regWrite (p off : Nat) (w : View) (ag v : Nat) (xr xs : List NewVal → Bool) (xb : List NewVal → Bool)
    (eff : List NewVal → State → State) (s : State) : State :=
  regGate p off w ag v xr xs xb (fun l s => eff l (l.foldl (storeVal p ag) s)) s

/-- A write that is no aligned 32-bit access: not performed, ACC_ERR and RANGE; the lock is checked first, but for BLK_LOCK (R52, R56).
DEDUCED (log entry 8). -/
def narrowWrite (p off ag : Nat) (s : State) : State :=
  if lockedBy s p ag && off / 4 != 8 then record p ag (off / 4) 0xFF rLOCKED s
  else record p ag (off / 4) 0xFF rRANGE (s.updPage p (fun h => { h with accErr := true }))

/-- No further check, and no further effect. -/
def noCheck : List NewVal → Bool := fun _ => true
def noBusy : List NewVal → Bool := fun _ => false
def noEff : List NewVal → State → State := fun _ s => s

/-- The result of a window write (R628): OPCODE 0xFE, and the low 10 bits of the offset ÷ 4. -/
def windowResult (p ag addr code : Nat) (s : State) : State := record p ag (addr / 4 % 1024) 0xFE code s

/-- The state rules of R60 for a window its block owns; every field of these windows is of class I. -/
def windowState (s : State) (p : Nat) : Bool := stateIn s p [.ready, .run, .fenced]

/-- A 32-bit write to an entry of a table window whose fields are held at page `e` of the register file; the sticky bits of such an
entry are cleared by writing them 1 (R305, R392). -/
def entryVals (s : State) (e : Nat) (b : Blk) (off v : Nat) : List NewVal :=
  (regFields b off).filterMap (fun x =>
    if x.1.acc = .ros then some ⟨x.1, x.2.1, x.2.2, viewOutcome .clear (s.rd e x.1 x.2.1 x.2.2) (x.1.bits v) 32⟩
    else newVal s e .normal v x)

def entryRange (s : State) (e : Nat) (b : Blk) (off v : Nat) : Bool :=
  let fs := regFields b off
  !fs.isEmpty && (v &&& coveredMask fs) = v && v < 2 ^ 32
    && (entryVals s e b off v).all (fun x => x.f.acc = .ros || (x.f.min ≤ x.v && x.v ≤ x.f.max))

/-- The result of a window write's checks (R56, R628). -/
def entryCode (s : State) (p e : Nat) (b : Blk) (off ag v : Nat) (xr xs : List NewVal → Bool) : Nat :=
  let l := entryVals s e b off v
  firstFail (lockedBy s p ag) (entryRange s e b off v && xr l) (windowState s p && xs l) false

/-- The write itself: page `p` owns the window, `addr` is the BAR0 offset. -/
def entryWrite (p e : Nat) (b : Blk) (off addr ag v : Nat) (xr xs : List NewVal → Bool)
    (eff : List NewVal → State → State) (s : State) : State :=
  let l := entryVals s e b off v
  let c := entryCode s p e b off ag v xr xs
  if c = rDONE then windowResult p ag addr rDONE (eff l (l.foldl (storeVal e ag) s))
  else windowResult p ag addr c s

end Sys2Proof.Machine
end

