-- ==== Sys2Proof/Machine/PortOps.lean ====
section
/-! DEFINITION. The shared operations of ports: the link states and their events (R80 to R85, R101), quad layouts (R74 to R79), preemption
verification (R94), recovered clocks (R96, R97), and what a port cell does with a frame at step 1 (R86 to R91, R372 to
R376). -/
namespace Sys2Proof.Machine

/-! ### Layouts -/

/-- The FEC values R74 allows a port of a SPEED code on `lanes` lanes. -/
def fecOk (speed lanes fec : Nat) : Bool :=
  match speed with
  | 1 => fec = 0
  | 2 => fec = 0 || fec = 1
  | 4 => if lanes = 4 then fec = 0 || fec = 1 else fec = 2
  | _ => fec = 2

/-- Whether R74 allows Clause 73 auto-negotiation. -/
def anOk (speed lanes : Nat) : Bool := (speed = 4 && lanes = 1) || (speed = 5 && lanes = 2) || speed = 6

/-- The lanes of the port at a lane position of a layout. -/
def layoutLanes (mode k : Nat) : Nat :=
  match mode with
  | 1 | 2 | 4 => 4
  | 3 => 2
  | 5 => if k = 0 then 2 else 1
  | _ => 1

/-- Whether every port a layout forms holds FEC and AN_EN values R74 allows (R78). -/
def layoutOk (mode : Nat) (single fec an : Nat → Nat) : Bool :=
  (List.range 4).all (fun k =>
    let sp := layoutSpeed mode k (single k)
    sp = 0 || (fecOk sp (layoutLanes mode k) (fec k) && (an k = 0 || anOk sp (layoutLanes mode k))))

/-- Whether a port cell is a formed port's lowest lane. -/
def State.formed (s : State) (p : Nat) : Bool := s.speed p != 0

/-- The symbol rate of a port's lane in kBd (R74, R96); 0 while it has no rate. -/
def symRate (s : State) (p : Nat) : Nat :=
  let mode := s.rd (pPORT (portRegion p)) F.QUAD_MODE_MODE (portCell p / 4)
  match s.speed p with
  | 1 => 10312500
  | 2 => 25781250
  | 3 => 26562500
  | 4 => if mode = 1 then 25781250 else 53125000
  | 5 => if mode = 2 then 26562500 else 53125000
  | 6 => 53125000
  | _ => 0

/-- Whether a divider keeps a recovered-clock output at 200 MHz or below; no check while the port has no rate (R96). -/
def divOk (s : State) (p div : Nat) : Bool := symRate s p ≤ 200000 * div

/-! ### Recovered clocks (R97) -/

/-- RAW_LINK of a port. -/
def State.raw (s : State) (p : Nat) : Bool :=
  if p < 48 then s.rdB (pPORT (portRegion p)) F.PORT_STATUS_RAW_LINK (portCell p)
  else s.rdB pHIF F.HIF_MGMT_STATUS_RAW_LINK (p - 48)
def setRaw (p v : Nat) (s : State) : State :=
  if p < 48 then s.wr (pPORT (portRegion p)) F.PORT_STATUS_RAW_LINK v (portCell p)
  else s.wr pHIF F.HIF_MGMT_STATUS_RAW_LINK v (p - 48)

/-- Whether link states are frozen (R101): from the fence of the port block until it is RUN again. DEDUCED (log entry 40). -/
def portFrozen (s : State) (p : Nat) : Bool :=
  p < 48 && (stateIn s (pPORT (portRegion p)) [.fenced, .reinit] || (s.page (pPORT (portRegion p))).resumes)

/-- Whether the pins follow the boundary register: no frame is sent or received (R597). DEDUCED (log entry 142). -/
def pinsTested (s : State) : Bool := [Tap.extest, .extestPulse, .extestTrain].contains s.boot.tap

/-- LOCAL_FAULT and REMOTE_FAULT of a port (bits 0 and 1 of `cause`); remote fault is transmitted while local fault is received (R80). -/
def setFaults (p cause : Nat) (s : State) : State :=
  let g := pPORT (portRegion p)
  let was := if p < 48 then s.rdB g F.PORT_STATUS_LOCAL_FAULT (portCell p) else s.rdB pHIF F.HIF_MGMT_STATUS_LOCAL_FAULT (p - 48)
  let s1 := if p < 48 then (s.wr g F.PORT_STATUS_LOCAL_FAULT cause (portCell p)).wr g F.PORT_STATUS_REMOTE_FAULT (cause / 2) (portCell p)
    else (s.wr pHIF F.HIF_MGMT_STATUS_LOCAL_FAULT cause (p - 48)).wr pHIF F.HIF_MGMT_STATUS_REMOTE_FAULT (cause / 2) (p - 48)
  if was = cause.testBit 0 then s1 else emit (.remoteFault p (cause.testBit 0)) s1

/-- AN_DONE of a port, 0 until its training is complete (R79, R81). -/
def setAnDone (p v : Nat) (s : State) : State :=
  if p < 48 then s.wr (pPORT (portRegion p)) F.PORT_STATUS_AN_DONE v (portCell p)
  else s.wr pHIF F.HIF_MGMT_STATUS_AN_DONE v (p - 48)

/-- Bring SQUELCHED of both outputs up to their source ports: a clock lost during a fence comes back only as the port enters UP. -/
def syncRclk (s : State) : State :=
  (List.range 2).foldl (fun s k =>
    let p := s.rd pTIME F.RCLK_CTRL_SRC_PORT k
    s.wr pTIME F.RCLK_CTRL_SQUELCHED
      (b2n (s.link_ p != lUP || !s.raw p || s.speed p = 0 || s.rdB pTIME F.RCLK_CTRL_DIV_HIGH k
        || (portFrozen s p && (s.port p).fencedRawFail))) k) s

/-- A change of a source port's layout or type that puts an output above 200 MHz sets DIV_HIGH (R96). -/
def checkDiv (s : State) : State :=
  syncRclk ((List.range 2).foldl (fun s k =>
    if divOk s (s.rd pTIME F.RCLK_CTRL_SRC_PORT k) (s.rd pTIME F.RCLK_CTRL_DIV k) then s
    else s.setF pTIME F.RCLK_CTRL_DIV_HIGH k) s)

/-! ### Status -/

/-- SUBSTATE of a port block: its ports not in DISABLED (R99). -/
def syncSub (r : Nat) (s : State) : State :=
  s.updPage (pPORT r) (fun h => { h with
    substate := ((List.range 12).filter (fun i => s.link_ (12 * r + i) != lDISABLED)).length })

/-- GUARD_NS of every port (R335). -/
def syncGuards (s : State) : State :=
  let m := (List.range 48).foldl (fun m p =>
    if s.link_ p = lDISABLED then m else max m (s.rd (pPORT (portRegion p)) F.PORT_CFG_MAX_LEN (portCell p))) 0
  (List.range 48).foldl (fun s p =>
    let t := wireTime (s.rate p) (min 9728 (m + 64) + 20)
    s.wr (pPORT (portRegion p)) F.GATE_GUARD_GUARD_NS ((t + nsU - 1) / nsU) (portCell p)) s

/-- SPEED and FEC_ACTIVE of the ports of a quad, once its registers are delivered (R100, R102). -/
def syncQuad (r q : Nat) (s : State) : State :=
  let g := pPORT r
  syncGuards (checkDiv ((List.range 4).foldl (fun s k =>
    let i := 4 * q + k
    let sp := s.speed (12 * r + i)
    (s.wr g F.PORT_STATUS_SPEED sp i).wr g F.PORT_STATUS_FEC_ACTIVE
      (if sp = 0 then 0 else s.rd g (laneFecF k) q) i) s))

/-- Bring PREEMPT_ACTIVE up to R93; a change is a new test of every head copy of the port (R328), and no frame is preempted
from its fall on (R325). -/
def syncPreempt (p : Nat) (s : State) : State :=
  if 48 ≤ p then s
  else
    let g := pPORT (portRegion p)
    let was := s.rdB g F.PORT_STATUS_PREEMPT_ACTIVE (portCell p)
    let is_ := preemptActive s p
    if was = is_ then s
    else
      let s1 := s.wr g F.PORT_STATUS_PREEMPT_ACTIVE (b2n is_) (portCell p)
      let s2 := if is_ then s1 else s1.updPort p (fun x => { x with cur := x.cur.map (fun t => { t with cutAt := none }) })
      (portQueues s p).foldl (fun s q => settle q s) s2

/-! ### Verification (R94) -/

/-- Start verification: a verify mPacket is sent at once. -/
def verifyStart (p : Nat) (s : State) : State :=
  if 48 ≤ p then s
  else
    let g := pPORT (portRegion p)
    let i := portCell p
    if !s.rdB g F.PORT_PREEMPT_PREEMPT_EN i || s.rdB g F.PORT_PREEMPT_VERIFY_DIS i then
      syncPreempt p (s.wr g F.PORT_STATUS_VERIFY_STATUS 0 i)
    else if s.link_ p = lUP then
      syncPreempt p (emit (.verify p) ((s.wr g F.PORT_STATUS_VERIFY_STATUS 2 i).updPort p (fun x => { x with verSent := 1 })))
    else syncPreempt p (s.wr g F.PORT_STATUS_VERIFY_STATUS 1 i)

/-- The status a port that is not UP shows: a passage through DOWN_FILTER keeps the result. -/
def verifyIdle (p : Nat) (s : State) : State :=
  if 48 ≤ p then s
  else
    let g := pPORT (portRegion p)
    let i := portCell p
    syncPreempt p (s.wr g F.PORT_STATUS_VERIFY_STATUS
      (if !s.rdB g F.PORT_PREEMPT_PREEMPT_EN i || s.rdB g F.PORT_PREEMPT_VERIFY_DIS i then 0 else 1) i)

/-! ### Link states (R81, R82, R85, R101) -/

/-- DOWN_FILT and UP_FILT of a port, in steps of 100 µs. -/
def State.downFilt (s : State) (p : Nat) : Nat :=
  if p < 48 then s.rd (pPORT (portRegion p)) F.PORT_LINK_FILT_DOWN_FILT (portCell p) else s.rd pHIF F.HIF_MGMT_FILT_DOWN_FILT (p - 48)
def State.upFilt (s : State) (p : Nat) : Nat :=
  if p < 48 then s.rd (pPORT (portRegion p)) F.PORT_LINK_FILT_UP_FILT (portCell p) else s.rd pHIF F.HIF_MGMT_FILT_UP_FILT (p - 48)

/-- The link-change source of a port (R524). -/
def linkSource (p : Nat) : Nat := if p < 48 then 384 + p else 432 + p

/-- Set a sticky bit of the port's event register, raising its link-change source. -/
def portEvent (p : Nat) (front mgmt : Field) (s : State) : State :=
  withLine (linkSource p) (fun s =>
    if p < 48 then s.setF (pPORT (portRegion p)) front (portCell p) else s.setF pHIF mgmt (p - 48)) s

/-- A raw link failure in UP (R85). -/
def countFlap (p : Nat) (s : State) : State :=
  if p < 48 then s.addSat (pPORT (portRegion p)) F.PORT_EVENT_FLAP_CNT 1 (portCell p)
  else s.addSat pHIF F.HIF_MGMT_EVENT_FLAP_CNT 1 (p - 48)

/-- The credit of every shaper of a port that is not UP is 0 (R291). -/
def zeroShapers (p : Nat) (s : State) : State :=
  { s with shapers := ⟨s.shapers.entries.map (fun e =>
      if e.1 / 2048 = portRegion p && e.2.cell = portCell p then (e.1, { e.2 with credit := 0, at_ := s.sNow }) else e)⟩ }

/-- A preempted remainder whose port goes down ends at once, stomped. -/
def endHeld (p : Nat) (s : State) : State :=
  match (s.port p).held with
  | none => s
  | some t =>
    releaseCopy t.copy (count (cPort p 16) (count (cPort p 20) (emit (.wire p [] true false)
      (s.updPort p (fun x => { x with held := none })))))

/-- A port enters TRAINING, or is DISABLED, where it receives nothing. -/
def startsOver (p l : Nat) (s : State) : State :=
  if l = lDISABLED then setFaults p 0 (setAnDone p 0 s) else if l = lTRAINING then setAnDone p 0 s else s

/-- A port enters a down state: from UP or DOWN_FILTER this is a port-down event (R82). -/
def goDown (p l : Nat) (s : State) : State :=
  let wasUp := s.portUp p
  let s1 := (startsOver p l (setLink_ p l s)).updPort p (fun x => { x with filterAt := s.now })
  let s2 := if (l = lDOWN && wasUp) || l = lDISABLED then s1.wr pTIME F.TS_CAL_RX_CAL_DONE 0 p else s1
  let s3 := verifyIdle p (zeroShapers p (syncRclk s2))
  let s4 := if wasUp then
      endHeld p (queuesDown p (hourEvent 2 (portEvent p F.PORT_EVENT_DOWN_SEEN F.HIF_MGMT_EVENT_DOWN_SEEN s3))) else s3
  if p < 48 then syncGuards (syncSub (portRegion p) s4) else s4

/-- A port enters UP from a state in which it is down: it returns (R82). -/
def goUp (p : Nat) (s : State) : State :=
  let s1 := syncRclk (setLink_ p lUP (zeroShapers p s))
  verifyStart p (queuesReturn p (portEvent p F.PORT_EVENT_UP_SEEN F.HIF_MGMT_EVENT_UP_SEEN s1))

/-- A port in DOWN whose raw link is good enters UP_FILTER, or UP while UP_FILT is 0 (R81). -/
def fromDown (p : Nat) (s : State) : State :=
  if s.upFilt p = 0 then goUp p s
  else (setLink_ p lUP_FILTER s).updPort p (fun x => { x with filterAt := s.now })

/-- A port passes between UP and DOWN_FILTER: its queues send, or no longer do (R82, R368). -/
def changeUp (p l : Nat) (s : State) : State :=
  (portQueues s p).foldl (fun s q => syncQueue q s) (syncPreempt p (syncRclk (setLink_ p l (zeroShapers p s))))

/-! ### Receptions cut short (R83, R101) -/

/-- A frame whose reception is cut short: marked bad and complete (R83, R87). The four bytes put in the FCS's place are never sent. -/
def abortFrame (f : Nat) (s : State) : State :=
  markBad f (match s.frames.find? f with
    | none => s
    | some x =>
      let s1 := s.updFrame f (fun x => { x with complete := true, bytes := x.bytes ++ [0, 0, 0, 0] })
      match x.head with
      | some b => s1.setHead b { s1.headW b with complete := true }
      | none => s1)

/-- The frame in reception on a port, and its twin copy, as far as their records stand. -/
def receiving (s : State) (p : Nat) : List Nat :=
  s.frames.entries.filterMap (fun (e : Nat × Frame) =>
    if e.2.port = p && !e.2.complete && (e.2.src = .front || e.2.src = .twin) then some e.1 else none)

/-- The reception on a port is cut short: counted in RX_ABORTED, unless its frame was dropped before. -/
def abortReceptions (p : Nat) (s : State) : State :=
  match (s.port p).rx with
  | none => s
  | some x =>
    let s1 := (receiving s p).foldl (fun s f => abortFrame f s) (s.updPort p (fun y => { y with rx := none }))
    if x.kind = .hold || x.kind = .walked then count (cPort p 7) s1 else s1

/-! ### The raw link (R80, R81, R83) -/

/-- A port's raw link fails; `cause` has bit 0 set for a local fault received and bit 1 for a remote fault. DESIGN CHOICE (log entry 39). -/
def rawFail (p cause : Nat) (s : State) : State :=
  let s1 := abortReceptions p (syncRclk (setFaults p (if s.link_ p = lDISABLED then 0 else cause) (setRaw p 0 s)))
  if portFrozen s p then syncRclk (s1.updPort p (fun x => { x with fencedRawFail := true }))
  else if s.link_ p = lUP then
    let s2 := countFlap p s1
    if s.downFilt p = 0 then goDown p lDOWN s2
    else changeUp p lDOWN_FILTER (s2.updPort p (fun x => { x with filterAt := s.now }))
  else if s.link_ p = lUP_FILTER then goDown p lDOWN s1
  else s1

/-- A port's raw link becomes good (R81). -/
def rawGood (p : Nat) (s : State) : State :=
  let s1 := syncRclk (setFaults p 0 (setRaw p 1 s))
  if portFrozen s p then s1
  else if s.link_ p = lDOWN_FILTER then changeUp p lUP s1
  else if s.link_ p = lDOWN then fromDown p s1
  else s1

/-- A port at the fence of its block: whether its raw link has failed at any time from now, or from the fence its link is still frozen by (R101). -/
def fencePort (p : Nat) (s : State) : State :=
  let again := portFrozen s p
  let bad := !s.raw p
  s.updPort p (fun x => { x with fencedRawFail := (again && x.fencedRawFail) || bad })

/-- A port at the return of its block to RUN (R101). -/
def resumePort (p : Nat) (s : State) : State :=
  let l := s.link_ p
  let failed := (s.port p).fencedRawFail
  if l = lUP || l = lDOWN_FILTER then
    if !failed then (if l = lUP then syncRclk s else changeUp p lUP s)
    else
      let s1 := goDown p lDOWN s
      if s1.raw p then fromDown p s1 else s1
  else if l = lUP_FILTER || l = lDOWN then
    let s1 := setLink_ p lDOWN s
    if s1.raw p then fromDown p s1 else s1
  else s

def fencePorts (r : Nat) (s : State) : State := (List.range 12).foldl (fun s i => fencePort (12 * r + i) s) s
def resumePorts (r : Nat) (s : State) : State := (List.range 12).foldl (fun s i => resumePort (12 * r + i) s) s

/-! ### Step 1: identification (R372 to R376) -/

/-- The parts of a frame an identification entry can compare (R372). -/
structure IdView where
  vid : Nat
  dmac : Nat
  smac : Nat
  fam : Option Nat
  dip : Nat
  sip : Nat
  dscp : Nat
  proto : Nat
  ports : Option (Nat × Nat)
  deriving DecidableEq, Repr

/-- EXTRA_TPID of a region's parser, where it is enabled. -/
def extraTpid (s : State) (r : Nat) : Option Nat :=
  if s.rdB (pPRS r) F.PRS_TPID_EXTRA_EN then some (s.rd (pPRS r) F.PRS_TPID_EXTRA_TPID) else none

/-- What the port cell sees of a frame's first 128 bytes. -/
def idView (d0 : List Byte) (extra : Option Nat) : IdView :=
  let d := d0.take 128
  let v := portView d extra
  let vid := if 12 < v.tagEnd then beAt d 14 2 % 4096 else 0
  let o := v.pay
  let base : IdView := ⟨vid, beAt d 0 6, beAt d 6 6, none, 0, 0, 0, 0, none⟩
  if v.etype = 0x0800 && o + 20 ≤ d.length && byteAt d o / 16 = 4 then
    let hl := 4 * (byteAt d o % 16)
    let pr := byteAt d (o + 9)
    { base with fam := some 0, dip := beAt d (o + 16) 4, sip := beAt d (o + 12) 4
                dscp := byteAt d (o + 1) / 4, proto := pr
                ports := if (pr = 6 || pr = 17) && beAt d (o + 6) 2 % 0x2000 = 0 && o + hl + 4 ≤ d.length
                  then some (beAt d (o + hl + 2) 2, beAt d (o + hl) 2) else none }
  else if v.etype = 0x86DD && o + 40 ≤ d.length && byteAt d o / 16 = 6 then
    let pr := byteAt d (o + 6)
    { base with fam := some 1, dip := beAt d (o + 24) 16, sip := beAt d (o + 8) 16
                dscp := beAt d o 2 / 64 % 64, proto := pr
                ports := if (pr = 6 || pr = 17) && o + 44 ≤ d.length then some (beAt d (o + 42) 2, beAt d (o + 40) 2) else none }
  else base

/-- A 128-bit address of an identification entry: word j holds bits 32j + 31 to 32j. -/
def idAddr (s : State) (h : Nat) (f : Field) : Nat :=
  (List.range 4).foldl (fun a j => a + s.rd (wIDENT h) f j * 2 ^ (32 * j)) 0

/-- Whether an entry's key matches a frame (R372). -/
def idMatch (s : State) (h : Nat) (v : IdView) : Bool :=
  let rd := fun f => s.rd (wIDENT h) f
  let vidOk := s.rdB (wIDENT h) F.ID_VID_ANY || rd F.ID_VID = v.vid
  let mac := rd F.ID_MAC_HI * 2 ^ 32 + rd F.ID_MAC_LO
  let en := rd F.ID_IP_EN
  vidOk && (match rd F.ID_METHOD with
    | 1 => mac = v.dmac
    | 2 => mac = v.smac
    | 3 => (en = 0 || v.fam = some (rd F.ID_FAM))
        && (!en.testBit 5 || idAddr s h F.ID_DIP = v.dip)
        && (!en.testBit 4 || idAddr s h F.ID_SIP = v.sip)
        && (!en.testBit 3 || rd F.ID_DSCP = v.dscp)
        && (!en.testBit 2 || rd F.ID_PROTO = v.proto)
        && (!en.testBit 1 || v.ports.map (·.1) = some (rd F.ID_DPORT))
        && (!en.testBit 0 || v.ports.map (·.2) = some (rd F.ID_SPORT))
    | _ => false)

/-- The handle a frame received on a port matches: the lowest that does. -/
def identify (s : State) (p : Nat) (d : List Byte) : Option Nat :=
  let v := idView d (extraTpid s (portRegion p))
  ((listedEntries s 0x20000 4096 F.ID_VALID).filter (fun h =>
    h / 1024 = portRegion p && s.rd (wIDENT h) F.ID_PORT = p && idMatch s h v)).foldl
      (fun m h => match m with | some k => some (min k h) | none => some h) none

/-- The class of a received frame (R90). -/
def classOf (s : State) (p : Nat) (d : List Byte) : Nat :=
  let g := pPORT (portRegion p)
  let t := beAt d 12 2
  if t = 0x8100 || t = 0x88A8 then
    let pcp := byteAt d 14 / 32
    s.rd g F.PORT_PCP_MAP_TC_OF_PCP (portCell p) / 2 ^ (3 * pcp) % 8
  else s.rd g F.PORT_CFG_DEFAULT_TC (portCell p)

/-! ### Counting received and transmitted frames (R556) -/

/-- The length bin of a frame (R556). -/
def lenBin (n : Nat) : Nat :=
  if n ≤ 64 then 0 else if n ≤ 127 then 1 else if n ≤ 255 then 2 else if n ≤ 511 then 3 else if n ≤ 1023 then 4
  else if n ≤ 1518 then 5 else if n ≤ 2047 then 6 else if n ≤ 4095 then 7 else 8

/-- Count a frame received OK or transmitted: `k` is 0 or 16, `b` the base of the length bins. Octets are those of the data and
padding, as Clause 30 defines the objects. -/
def countFrame (p k b len : Nat) (d : List Byte) (s : State) : State :=
  let s1 := countBy (cPort p (k + 1)) (len - 18) (count (cPort p k) s)
  let s2 := if d.take 6 = List.replicate 6 0xFF then count (cPort p (k + 3)) s1
    else if byteAt d 0 % 2 = 1 then count (cPort p (k + 2)) s1 else s1
  count (cPort p (b + lenBin len)) s2

/-! ### The end of a reception (R87) -/

/-- Check a frame whose last byte has come: too short, too long, or a wrong FCS; whether it is kept, whether it is bad, its bytes, and
the counts. `d` is the frame as received, `cut` true when its reception stopped at MAX_LEN. PRESUMED (log entry 36). -/
def checkTail (p : Nat) (d : List Byte) (s : State) : Bool × Bool × List Byte × State :=
  let m := if p < 48 then s.rd (pPORT (portRegion p)) F.PORT_CFG_MAX_LEN (portCell p) else s.rd pHIF F.HIF_MGMT_CFG_MAX_LEN (p - 48)
  if d.length < 64 then (false, true, d, count (cPort p 6) s)
  else if m < d.length then (true, true, d.take m, count (cPort p 5) s)
  else if !fcsOk d then (true, true, d, count (cPort p 4) s)
  else (true, false, d, countFrame p 0 48 d.length d s)

end Sys2Proof.Machine
end

