-- ==== Sys2Proof/Machine/GateOps.lean ====
section
/-! DEFINITION. Gate lists and their timelines (R310 to R331): what is open when, when it closes next, and the longest windows. -/
namespace Sys2Proof.Machine

/-! ### Lists -/

/-- A port's gate timeline. -/
def State.gate (s : State) (p : Nat) : GateSt := s.gates.get {} p
def State.updGate (s : State) (p : Nat) (f : GateSt → GateSt) : State := { s with gates := s.gates.upd {} p f }

/-- Entry `k` of bank `b` (R311). -/
def GateSt.entry (g : GateSt) (b k : Nat) : Nat := (if b = 0 then g.bank0 else g.bank1).get 0 k

/-- A list in force or committed: whether it runs, its cycle and start in 1/65,536 ns, the start of the cycle in progress where a
trigger aligns it, and its entries as (states, duration in 1/65,536 ns). -/
structure GateList where
  en : Bool
  cycle : Nat
  start : Nat
  aligned : Option Nat
  entries : List (Nat × Nat)
  deriving DecidableEq, Repr

/-- The first `n` entries of a bank. -/
def GateSt.list (g : GateSt) (b n : Nat) : List (Nat × Nat) :=
  (List.range n).map (fun k => (g.entry b k / 2 ^ 24, g.entry b k % 2 ^ 24 * nsU))

/-- The operating list of a port. -/
def operList (s : State) (p : Nat) : GateList :=
  let g := pPORT (portRegion p)
  let i := portCell p
  let x := s.gate p
  { en := s.rdB g F.GATE_CTRL_GATE_EN i, cycle := s.rd g F.GATE_CYCLE_CYCLE_TIME i * nsU, start := x.start
    aligned := if s.rdB g F.GATE_CTRL_TRIG_EN i then some x.cyc else none
    entries := x.list (s.rd g F.GATE_STATUS_OPER_BANK i) (s.rd g F.GATE_CTRL_LIST_LEN i) }

/-- The committed list of a port with its takeover time `t`. -/
def pendList (s : State) (p t : Nat) : GateList :=
  let g := pPORT (portRegion p)
  let i := portCell p
  let x := s.gate p
  { en := s.rdShadow g F.GATE_CTRL_GATE_EN i != 0, cycle := s.rdShadow g F.GATE_CYCLE_CYCLE_TIME i * nsU, start := t
    aligned := if s.rdShadow g F.GATE_CTRL_TRIG_EN i != 0 then some t else none
    entries := x.list (1 - s.rd g F.GATE_STATUS_OPER_BANK i) (s.rdShadow g F.GATE_CTRL_LIST_LEN i) }

/-! ### Positions in a cycle (R312) -/

/-- The place of an instant in its cycle, and the cycle's number. A list a trigger aligns holds its last entry until the next firing. -/
def GateList.pos (l : GateList) (t : Nat) : Nat :=
  match l.aligned with
  | some c => t - c
  | none => (((t : Int) - l.start) % (l.cycle : Int)).toNat
def GateList.cycleNo (l : GateList) (t : Nat) : Int := ((t : Int) - l.start) / (l.cycle : Int)

/-- The entry in force at a place of the cycle, and its states; the last one's states hold to the end. -/
def entryAt : List (Nat × Nat) → Nat → Nat → Nat × Nat
  | [], k, _ => (k - 1, 0)
  | [(st, _)], k, _ => (k, st)
  | (st, d) :: t, k, u => if u < d then (k, st) else entryAt t (k + 1) (u - d)

/-- The states of one cycle as (states, length), clipped to the cycle and filled up to it (R312). -/
def clip : Nat → List (Nat × Nat) → List (Nat × Nat)
  | _, [] => []
  | left, [(st, _)] => if left = 0 then [] else [(st, left)]
  | left, (st, d) :: t => if left = 0 then [] else (st, min d left) :: clip (left - min d left) t

/-- The gate states in force at an instant: all open while the list does not run (R313); the last entry a cycle uses holds until the next cycle
starts (R312, R318). -/
def GateList.states (l : GateList) (t : Nat) : Nat :=
  if l.en then (entryAt (clip l.cycle l.entries) 0 (l.pos t)).2 else 0xFF

/-- The entry in force at an instant. -/
def GateList.current (l : GateList) (t : Nat) : Nat :=
  if l.en then (entryAt (clip l.cycle l.entries) 0 (l.pos t)).1 else 0

/-- The distance from the start of a list of runs to the first that has bit `c` clear. -/
def untilClosed (c : Nat) : Nat → List (Nat × Nat) → Option Nat
  | _, [] => none
  | n, (st, d) :: t => if st.testBit c then untilClosed c (n + d) t else some n

/-- Drop the first `u` units of a list of runs. -/
def dropRuns : Nat → List (Nat × Nat) → List (Nat × Nat)
  | _, [] => []
  | u, (st, d) :: t => if u < d then (st, d - u) :: t else dropRuns (u - d) t

/-- The first instant at or after `t` at which the gate of class `c` is closed; none when it never is. -/
def GateList.closes (l : GateList) (c t : Nat) : Option Nat :=
  if !l.en then none
  else
    let one := clip l.cycle l.entries
    (untilClosed c 0 (dropRuns (min (l.pos t) (l.cycle - 1)) one ++ one)).map (t + ·)

/-! ### Schedules of triggers (R437) -/

/-- A schedule: its first instant in 1/65,536 ns, and its period where it repeats. -/
structure Plan where
  start : Int
  period : Option Nat
  deriving DecidableEq, Repr

/-- The schedule of cycle trigger `n`; none while it is disabled. -/
def trigPlan (s : State) (n : Nat) : Option Plan :=
  if !s.rdB pTIME F.TRIG_CFG_EN n then none
  else some ⟨timeOf (s.rd pTIME F.TRIG_START_SEC_HI_SEC_HI n * 2 ^ 32 + s.rd pTIME F.TRIG_START_SEC_LO_SEC_LO n) (s.rd pTIME F.TRIG_START_NS_NS n) 0,
    if s.rd pTIME F.TRIG_CFG_MODE n = 1 then some (s.rd pTIME F.TRIG_PERIOD_PERIOD n * nsU) else none⟩

/-- The index of the first instant of a periodic schedule after `t`. -/
def indexAfter (start : Int) (per : Nat) (t : Int) : Nat := if t < start then 0 else ((t - start) / (per : Int) + 1).toNat

/-- The instant a schedule comes to next. -/
def Plan.instant (p : Plan) (c : Sched) : Int :=
  match p.period with
  | some per => p.start + per * c.next
  | none => p.start

def State.trigS (s : State) (n : Nat) : Sched := s.time.trigS.get {} n

/-- The next instant of a schedule that is not before `t`; none where it has none to come. -/
def Plan.nextFrom (p : Plan) (c : Sched) (t : Int) : Option Int :=
  match p.period with
  | some per => if per = 0 then none else some (p.start + per * max c.next (if t ≤ p.start then 0 else ((t - p.start + per - 1) / (per : Int)).toNat))
  | none => if c.done || p.start < t then none else some p.start

/-- The takeover a port has coming: its base time, or the first firing of its cycle trigger at least 10 µs after the commit point (R317). -/
def State.takeoverAt (s : State) (p : Nat) : Option Nat :=
  match (s.gate p).takeover with
  | some (some t) => some t
  | some none =>
    let n := s.rdShadow (pPORT (portRegion p)) F.GATE_CTRL_TRIG (portCell p)
    ((trigPlan s n).bind (fun q => q.nextFrom (s.trigS n) ((s.gate p).goAt + 10 * usU))).map Int.toNat
  | none => none

/-- Whether the gate of class `c` of a port is open at an instant of the operating list, and now (R312, R313). -/
def gateOpenAt (s : State) (p c t : Nat) : Bool := p < 48 && ((operList s p).states t).testBit c
def gateOpen (s : State) (p c : Nat) : Bool := gateOpenAt s p c s.sNow

/-- Whether it is open at an instant to come: by the committed list from a takeover on (R319). -/
def gateOpenBy (s : State) (p c t : Nat) : Bool :=
  match s.takeoverAt p with
  | some T => if T ≤ t then p < 48 && ((pendList s p T).states t).testBit c else gateOpenAt s p c t
  | none => gateOpenAt s p c t

/-- C of R321: the first instant from `t` on at which the gate closes, against the operating list up to a takeover and the committed
list after it (R319). -/
def gateCloses (s : State) (p c t : Nat) : Option Nat :=
  let a := (operList s p).closes c t
  match s.takeoverAt p with
  | none => a
  | some T =>
    match (match a with | some x => if x < T then some x else none | none => none) with
    | some x => some x
    | none => (pendList s p T).closes c (max t T)

/-! ### The longest windows (R326) -/

/-- The longest run with bit `c` set in a list of runs, `cur` being the run so far. -/
def longestRun (c : Nat) : Nat → Nat → List (Nat × Nat) → Nat
  | best, cur, [] => max best cur
  | best, cur, (st, d) :: t => if st.testBit c then longestRun c best (cur + d) t else longestRun c (max best cur) 0 t

/-- W_c in ns as GATE_MAXWIN shows it. -/
def maxWindow (l : GateList) (c : Nat) : Nat :=
  if !l.en then 0x3FFFFFFF
  else
    let one := clip l.cycle l.entries
    if one.all (fun e => e.1.testBit c) then 0x3FFFFFFF
    else longestRun c 0 0 (one ++ one) / nsU

/-! ### Starting a frame (R320 to R325) -/

/-- Whether `len` bytes left to send, their FCS among them, of class `c` may start at `t` on a port (R321). -/
def mayStart (s : State) (p c t len : Nat) : Bool :=
  gateOpenBy s p c t &&
    (match gateCloses s p c t with
     | none => true
     | some x => t + wireTime (s.rate p) (len + 20) ≤ x
        || (splittable s p c len && t + wireTime (s.rate p) (fragMin s p + 24) ≤ x))

/-- Bytes of a fragment that started at `t` and whose data, mCRC and gap end by `x` (R322). -/
def bytesBy (rate t x : Nat) : Nat := (x - t) * rate / (8 * usU) - 24

/-- Where the transmission in progress of a port is preempted at a gate's close (R322): the bytes of the fragment; none when it runs to
its end. `left` is what the frame has left, or none while its length is unknown. Where the close lies behind already the earliest legal point is
taken (R331). The operating list is asked from where it begins to hold: the takeover, or the firing that began its cycle. -/
def gateCut (s : State) (p c startT startL : Nat) (left : Option Nat) : Option Nat :=
  let l := operList s p
  let from_ := max l.start (l.aligned.getD 0)
  match gateCloses s p c (if from_ ≤ s.sNow then max startT from_ else startT) with
  | none => none
  | some x =>
    let f := fragMin s p
    let at_ := bytesBy (s.rate p) startT x
    match left with
    | none => if preemptActive s p && !isExpress s p c then some (max f at_) else none
    | some n =>
      if startT + wireTime (s.rate p) (n + 20) ≤ x || !splittable s p c n then none
      else
        let sent := (s.now - startL) * s.rate p / (8 * usU) - 8
        let b := min at_ (n - 64)
        if f ≤ b && sent ≤ b then some b
        else if max f sent + 64 ≤ n then some (max f sent) else none

/-! ### What GATE_STATUS shows -/

/-- Bring CUR_STATES, CUR_ENTRY and CYCLE_CNT up to the present. -/
def syncGate (p : Nat) (s : State) : State :=
  if 48 ≤ p then s
  else
    let g := pPORT (portRegion p)
    let i := portCell p
    let l := operList s p
    let n := match l.aligned with
      | some _ => ((s.gate p).fires % 256).toNat
      | none => (l.cycleNo s.sNow % 256).toNat
    let s1 := (s.wr g F.GATE_STATUS_CUR_STATES (l.states s.sNow) i).wr g F.GATE_STATUS_CUR_ENTRY (l.current s.sNow) i
    s1.wr g F.GATE_STATUS_CYCLE_CNT (if l.en then n % 256 else 0) i

/-! ### Triggers of gate lists (R438) -/

/-- Whether an operating or committed gate list of any port is aligned to cycle trigger `n`. -/
def trigInUse (s : State) (n : Nat) : Bool :=
  (List.range 48).any (fun p =>
    let g := pPORT (portRegion p)
    let i := portCell p
    (s.rdB g F.GATE_CTRL_TRIG_EN i && s.rd g F.GATE_CTRL_TRIG i = n)
      || ((s.gate p).takeover.isSome && s.rdShadow g F.GATE_CTRL_TRIG_EN i != 0 && s.rdShadow g F.GATE_CTRL_TRIG i = n))

/-- Bring IN_USE of every trigger up to it. -/
def syncTrig (s : State) : State :=
  (List.range 8).foldl (fun s n => s.wr pTIME F.TRIG_CFG_IN_USE (b2n (trigInUse s n)) n) s

/-- The gate fields of a port. -/
def gateFields : List Field :=
  [F.GATE_CTRL_GATE_EN, F.GATE_CTRL_TRIG_EN, F.GATE_CTRL_TRIG, F.GATE_CTRL_LIST_LEN, F.GATE_CYCLE_CYCLE_TIME, F.GATE_BASE_NS_NS,
   F.GATE_BASE_SEC_LO_SEC_LO, F.GATE_BASE_SEC_HI_SEC_HI]

/-- The committed base time of a port, in 1/65,536 ns. -/
def gateBase (s : State) (p : Nat) : Nat :=
  let g := pPORT (portRegion p)
  let i := portCell p
  timeOf (s.rdShadow g F.GATE_BASE_SEC_HI_SEC_HI i * 2 ^ 32 + s.rdShadow g F.GATE_BASE_SEC_LO_SEC_LO i) (s.rdShadow g F.GATE_BASE_NS_NS i) 0

/-- A field takes its shadow value (R62, R63). -/
def applyField (pg : Nat) (f : Field) (i j : Nat) (s : State) : State :=
  match s.reg.shadow.find? (fkey pg f i j) with
  | some (v, _) => { (s.wr pg f v i j) with reg := { (s.wr pg f v i j).reg with shadow := s.reg.shadow.erase (fkey pg f i j) } }
  | none => s

end Sys2Proof.Machine
end

