-- ==== Sys2Proof/Config.lean ====
section
/-! DEFINITION. The values the spec leaves open, as constants without a body: nothing in Lean can tell what they are, so a
claim holds whatever the silicon, the board and the maker chose. Each is named in notes/assumptions. -/
namespace Sys2Proof.Config

/-- R263: the `n`-th value of region `r`'s 16-bit random source. -/
opaque wredRandom : Nat → Nat → BitVec 16
/-- R118: the ECC code of a decision-tree node's 120 data bits. -/
opaque nodeEcc : Nat → BitVec 8
/-- R227: the ECC code of a link entry's 56 data bits. -/
opaque linkEcc : Nat → BitVec 8
/-- R228: the ECC code of a cord head word's 56 data bits. -/
opaque headEcc : Nat → BitVec 8
/-- R230 and R364: what a read of data that holds an uncorrectable error returns, by draw and byte. -/
opaque badByte : Nat → Nat → BitVec 8
/-- R422: the coefficients (C0, C1, C2, A) that the recursive fit gives after the `n`-th free draw, from the sample's temperature and rate and
LEARN_TAU_H: the spec fixes the fit's kind and leaves its arithmetic to the silicon. -/
opaque modelFit : Nat → Int → Int → Nat → Int × Int × Int × Int
/-- R462: the time from step 1 to step 6 of a takeover, in 0.1 µs, by draw. -/
opaque takeoverTicks : Nat → Nat
/-- R198: the bytes of frames waiting that port `p`'s ingress FIFO holds beyond the 2 µs the spec promises. -/
opaque fifoExtra : Nat → Nat
/-- R432: whether an edge exactly half a second off counts to the second before it. -/
opaque roundHalfDown : Bool
/-- R586: the SHA-384 digest of a byte list. -/
opaque sha384 : List Byte → List Byte
/-- R588 and R598: whether a P-384 signature is good for a digest under a public key. -/
opaque ecdsaOk : List Byte → List Byte → List Byte → Bool
/-- R588: AES-256-GCM decryption, from key, nonce, additional data, ciphertext and tag; none when the tag fails. -/
opaque gcmOpen : List Byte → List Byte → List Byte → List Byte → List Byte → Option (List Byte)
/-- R585: the vendor root hash and the vendor image key in mask ROM. -/
opaque vendorHash : List Byte
opaque vendorKey : List Byte
/-- R595: how long the `n`-th boot takes: on the local counter in 15.625 ps from PLL lock, and in ms from reset release. -/
opaque bootTime : Nat → Nat × Nat
/-- R598: the `n`-th nonce of the true random source, 128 bits. -/
opaque nonce : Nat → BitVec 128
/-- R36: the power-on output of the board's VDD_CORE regulator. -/
opaque powerOnMv : Nat
/-- R32: what the board's regulator answers at the `n`-th free draw: VOUT_MODE, READ_VOUT, and which of them it acknowledges. -/
opaque regulator : Nat → Nat × Nat × Nat
/-- R32: the exponent of the board's regulator while VOUT_MODE has not been read, in five-bit two's complement. -/
opaque voutExponent : Nat
/-- R32: whether a request of `mv` that the regulator's step does not divide goes to the step above it. -/
opaque voutUp : Nat → Bool
/-- R566 and R581: byte `i` of a flash page or sector whose operation was cut short or failed, by draw. -/
opaque tornByte : Nat → Nat → BitVec 8
/-- R601: the die's unique identifier. -/
opaque dieId : BitVec 64
/-- R401: what the calibration of a port measures after its `n`-th lock: receive and transmit delay. -/
opaque calDelay : Nat → Nat → Nat × Nat

end Sys2Proof.Config
end

