-- ==== Sys2Proof/Machine/PtpOps.lean ====
section
/-! DEFINITION. PTP at the port cells (R412 to R416): recognition, the timestamp record, and the edits an egress port makes. -/
namespace Sys2Proof.Machine

/-- A recognised PTP message (R412): where it starts, and where its UDP header starts when it has one. -/
structure PtpView where
  at_ : Nat
  udp : Option (Nat × Bool)
  deriving DecidableEq, Repr

/-- The layers R412 accepts in front of a PTP message, within the first 128 bytes. -/
def ptpLayers (d0 : List Byte) (extra : Option Nat) : Option PtpView :=
  let d := d0.take 128
  let p := skipTags d extra 2 12
  let t := beAt d p 2
  let o := p + 2
  if t = 0x88F7 then some ⟨o, none⟩
  else if t = 0x0800 && o + 20 ≤ d.length && byteAt d o / 16 = 4 && byteAt d (o + 9) = 17 && beAt d (o + 6) 2 % 0x2000 = 0 then
    let u := o + 4 * (byteAt d o % 16)
    if beAt d (u + 2) 2 = 319 || beAt d (u + 2) 2 = 320 then some ⟨u + 8, some (u, true)⟩ else none
  else if t = 0x86DD && o + 40 ≤ d.length && byteAt d o / 16 = 6 && byteAt d (o + 6) = 17 then
    let u := o + 40
    if beAt d (u + 2) 2 = 319 || beAt d (u + 2) 2 = 320 then some ⟨u + 8, some (u, false)⟩ else none
  else none

/-- A PTP message of version 2 (R411) whose 34-byte common header lies in the first 128 bytes. -/
def ptpView (d : List Byte) (extra : Option Nat) : Option PtpView :=
  match ptpLayers d extra with
  | some v => if v.at_ + 34 ≤ min 128 d.length && byteAt d (v.at_ + 1) % 16 = 2 then some v else none
  | none => none

/-- messageType, majorSdoId, domainNumber, sequenceId and correctionField of a message. -/
def ptpType (d : List Byte) (v : PtpView) : Nat := byteAt d v.at_ % 16
def ptpSdo (d : List Byte) (v : PtpView) : Nat := byteAt d v.at_ / 16
def ptpDomain (d : List Byte) (v : PtpView) : Nat := byteAt d (v.at_ + 4)
def ptpSeq (d : List Byte) (v : PtpView) : Nat := beAt d (v.at_ + 30) 2
def ptpCorr (d : List Byte) (v : PtpView) : Int := toSigned 64 (beAt d (v.at_ + 8) 8)

/-- The domain a message matches, A first (R412). -/
def ptpMatch (s : State) (d : List Byte) (v : PtpView) : Option Nat :=
  [0, 1].find? (fun k => s.domState k != dOFF && s.rd pTIME F.DOM_CFG_DOMAIN_NUM k = ptpDomain d v
    && s.rd pTIME F.DOM_CFG_SDO_ID k = ptpSdo d v)

/-- The timestamp record of R413, in little-endian bytes. -/
def tsRecord (x : Stamp) (d : List Byte) (extra : Option Nat) (tx : Bool) (port : Nat) : List Byte :=
  let v := ptpView d extra
  let m := match v with
    | some v => ptpSeq d v * 2 ^ 48 + ptpType d v * 2 ^ 44 + ptpDomain d v * 2 ^ 36 + 2 ^ 35
    | none => 0
  let times := if x.valid then
      time96 x.a * 2 ^ 160 + time96 x.b * 2 ^ 64 + b2n x.uncal * 2 ^ 34 + b2n x.aOn * 2 ^ 33 + b2n x.bOn * 2 ^ 32 + 2 ^ 23
    else 0
  leBytes 32 (times + m + b2n tx * 2 ^ 31 + (if port < 48 then port else port - 48) * 2 ^ 25 + b2n (48 ≤ port) * 2 ^ 24)

/-- The UDP checksum after 16-bit words of the message changed (R416): `old` and `new` are the bytes changed, at an even offset. -/
def udpFix (sum : Nat) (old new : List Byte) : Nat :=
  let t := (0xFFFF - sum) + (0xFFFF - ipSum old) + ipSum new
  let t := t % 65536 + t / 65536
  let r := 0xFFFF - (t % 65536 + t / 65536)
  if r = 0 then 0xFFFF else r

/-- Put bytes over a message and bring its UDP checksum along (R416); an IPv4 UDP checksum of 0 is left at 0. -/
def ptpPut (d : List Byte) (v : PtpView) (o : Nat) (b : List Byte) : List (Nat × List Byte) :=
  match v.udp with
  | none => [(o, b)]
  | some (u, v4) =>
    let c := beAt d (u + 6) 2
    if v4 && c = 0 then [(o, b)] else [(o, b), (u + 6, beBytes 2 (udpFix c (slice d o b.length) b))]

/-- Apply the overwrites of a list. -/
def putAll (d : List Byte) (l : List (Nat × List Byte)) : List Byte := l.foldl (fun d e => overwrite d e.1 e.2) d

/-- A correctionField after an amount is added; a sum that overflows is the largest value (R414). -/
def addCorr (c x : Int) : Nat :=
  if 2 ^ 63 ≤ c + x || c + x < -(2 ^ 63) then 2 ^ 63 - 1 else ofSigned 64 (c + x)

/-- A stamp read in the scale of a domain, or of the local counter. -/
def Stamp.scale (x : Stamp) (k : Option Nat) : Nat :=
  match k with
  | some 0 => x.a
  | some _ => x.b
  | none => x.l

/-- PTP_MODE of a port (R414). -/
def State.ptpMode (s : State) (p : Nat) : Nat := s.rd pTIME F.TS_PTP_PTP_MODE p

/-- The residence edit of R414 on the bytes `d` a port transmits: the overwrites, and the counts. -/
def ptpResidence (p : Nat) (x : Frame) (d : List Byte) (v : PtpView) (tx : Stamp) (s : State) : List (Nat × List Byte) × State :=
  let t := ptpType d v
  let mode := s.ptpMode p
  if (mode = 2 && t ≤ 1) || (mode = 3 && t = 0) then
    if !x.stamp.valid then ([], count (cPort p 37) s)
    else
      let k := ptpMatch s d v
      let s1 := if k.isNone then count (cPort p 36) s else s
      let peer := if mode = 3 then s.rd pTIME F.TS_PEER_PEER_DELAY x.port else 0
      (ptpPut d v (v.at_ + 8) (beBytes 8 (addCorr (ptpCorr d v) ((tx.scale k : Int) - x.stamp.scale k + peer))), s1)
  else ([], s)

/-- The one-step edit of R415. -/
def ptpOneStep (p : Nat) (x : Frame) (d : List Byte) (v : Option PtpView) (tx : Stamp) (s : State) : List (Nat × List Byte) × State :=
  if !x.oneStep || s.ptpMode p = 0 then ([], s)
  else match v.bind (fun v => if ptpType d v = 0 && v.at_ + 44 ≤ d.length then (ptpMatch s d v).map (fun k => (v, k)) else none) with
    | none => ([], count (cPort p 38) s)
    | some (v, k) =>
      let t := tx.scale (some k)
      let e1 := ptpPut d v (v.at_ + 34) (beBytes 6 (tSec t) ++ beBytes 4 (tNs t))
      let d1 := putAll d e1
      (e1 ++ ptpPut d1 v (v.at_ + 8) (beBytes 8 (addCorr (ptpCorr d1 v) (tFrac t))), s)

/-- Every edit an egress port makes to the bytes `d` of a frame at its start (R414 to R416); none while the time unit does not run, each frame that
would have been edited being counted (R417). -/
def ptpEdits (p : Nat) (x : Frame) (d : List Byte) (extra : Option Nat) (tx : Stamp) (s : State) : List (Nat × List Byte) × State :=
  if x.bad then ([], s)
  else
    let v := ptpView d extra
    let q := match v with
      | some v => ptpResidence p x d v tx s
      | none => ([], s)
    let o := ptpOneStep p x (putAll d q.1) v tx q.2
    let l := q.1 ++ o.1
    if s.inState pTIME .run || l.isEmpty then (l, o.2) else ([], count (cPort p 37) s)

end Sys2Proof.Machine
end

