-- ==== Sys2Proof/Machine/PoliceOps.lean ====
section
/-! DEFINITION. What a frame meets before its copies are admitted: policers and stream filters (R295 to R301), and the early drop of
WRED (R263, R264). -/
namespace Sys2Proof.Machine

/-! ### Policers (R296, R297) -/

/-- What 1/1,024 B of a bucket takes: in these units a rate of n kb/s adds n per unit of the local counter. -/
def tokU : Nat := 512000000

def State.policer (s : State) (n : Nat) : Policer := s.policers.get {} n
def State.setPolicer (s : State) (n : Nat) (x : Policer) : State := { s with policers := s.policers.put {} n x }

/-- A policer brought up to the present: buckets fill at their rates up to their sizes. -/
def Policer.fill (x : Policer) (now : Nat) : Policer :=
  let dt := now - x.at_
  let c := fillBucket tokU (x.cbs * 1024) (x.tc, x.rc) (dt * x.cir)
  let p := fillBucket tokU (x.pbs * 1024) (x.tp, x.rp) (dt * x.pir)
  { x with tc := c.1, rc := c.2, tp := p.1, rp := p.2, at_ := now }

/-- The colour of a frame of `len` bytes, the buckets it took tokens from (1 Tc, 2 Tp, 3 both), and the policer after it (R296). -/
def Policer.meter (x : Policer) (len : Nat) : Colour × Nat × Policer :=
  let l := len * 1024
  match x.mode with
  | 2 =>
    if x.tp < l then (.red, 0, x)
    else if x.tc < l then (.yellow, 2, { x with tp := x.tp - l })
    else (.green, 3, { x with tp := x.tp - l, tc := x.tc - l })
  | 1 => if x.tc < l then (.red, 0, x) else (.green, 1, { x with tc := x.tc - l })
  | _ => (.green, 0, x)

/-- The place of a colour among a policer's counters. -/
def Colour.idx : Colour → Nat
  | .green => 0 | .yellow => 1 | .red => 2

/-- Meter a frame of `len` bytes with policer `n`: its colour, and what the frame has to answer for when its tail comes. DEDUCED (log entry 65). -/
def meterWith (n len : Nat) (s : State) : Colour × Option (Nat × Nat × Nat) × State :=
  let m := ((s.policer n).fill s.now).meter len
  (m.1, some (n, len, m.2.1), count (cPol n m.1.idx) (s.setPolicer n m.2.2))

/-- The buckets a frame took tokens from, corrected when its true length is known (R295). -/
def meterFix (m : Option (Nat × Nat × Nat)) (len : Nat) (s : State) : State :=
  match m with
  | none => s
  | some (n, old, b) =>
    let x := (s.policer n).fill s.now
    let fix := fun (t size : Nat) => min (size * 1024) (t + old * 1024 - len * 1024)
    s.setPolicer n { x with
      tc := if b % 2 = 1 then fix x.tc x.cbs else x.tc
      tp := if 2 ≤ b then fix x.tp x.pbs else x.tp }

/-- L of R295: the frame's length as received; before its tail has come, the length its outer IP header declares, or MAX_LEN. -/
def meterLen (s : State) (x : Frame) : Nat :=
  if x.complete then x.bytes.length
  else
    let o := bitsOf x.prec 79 72
    match bitsOf x.prec 113 111 with
    | 1 => o + beAt x.bytes (o + 2) 2 + 4
    | 2 => o + 40 + beAt x.bytes (o + 4) 2 + 4
    | _ => s.rd (pPORT (portRegion x.port)) F.PORT_CFG_MAX_LEN (portCell x.port)

/-! ### Stream filters (R298 to R300) -/

def State.filter (s : State) (h : Nat) : Filter := s.filters.get {} h
def State.setFilter (s : State) (h : Nat) (x : Filter) : State := { s with filters := s.filters.put {} h x }

/-- The verdict's policer, when it names one. -/
def verdictMeter (x : Frame) (len : Nat) (s : State) : Colour × Option (Nat × Nat × Nat) × State :=
  match x.verdict.policer with
  | some n => meterWith n len s
  | none => (.green, none, s)

/-- A filter acts on a frame (R299): red when it drops it. -/
def filterFrame (h : Nat) (x : Frame) (len : Nat) (s : State) : Colour × Option (Nat × Nat × Nat) × State :=
  let f := s.filter h
  if f.blocked then (.red, none, count (cStream h 5) s)
  else if f.maxSdu < len then
    let s1 := count (cStream h 6) s
    (.red, none, if f.blockEn then srcEvent (regSource (h / 1024) 6) (s1.setFilter h { f with blocked := true }) else s1)
  else
    let s1 := count (cStream h 4) s
    if f.meterEn then meterWith f.meter len s1 else verdictMeter x len s1

/-- Record the outcome of a sequence number; the 64 latest are kept (R300). -/
def noteOutcome (h seq : Nat) (c : Colour) (s : State) : State :=
  let f := s.filter h
  s.setFilter h { f with hist := ((⟨seq, c⟩ : Outcome) :: f.hist.filter (fun o => o.seq != seq)).take 64 }

/-- Filter and meter a frame, once per cord and once per sequence number of a protected stream (R295, R299, R300). -/
def policeFrame (x : Frame) (s : State) : Colour × Option (Nat × Nat × Nat) × State :=
  let len := meterLen s x
  match x.src with
  | .host _ => (.green, none, s)
  | _ =>
    match (match x.verdict.stream with | some h => some h | none => x.handle) with
    | none => verdictMeter x len s
    | some h =>
      if !(s.filter h).en then verdictMeter x len s
      else match x.seq with
        | none => filterFrame h x len s
        | some q =>
          match (s.filter h).hist.find? (fun o => o.seq = q) with
          | some o => (o.colour, none, s)
          | none =>
            let r := filterFrame h x len s
            (r.1, r.2.1, noteOutcome h q r.1 r.2.2)

/-! ### WRED (R262 to R264) -/

/-- The average after a decision, in 1/256 billet, for a queue that counts `billets` of `frames` copies (R264). -/
def wredAvg (s : State) (q billets frames : Nat) : Nat :=
  let w := wQUEUE q
  if frames = 0 then 0
  else
    let a : Int := s.rd w F.Q_W9_AVG
    let b : Int := billets
    (a + (b * 256 - a) / 2 ^ s.rd w F.Q_LIMIT_WRED_W).toNat

/-- P16 of a profile's colour set at an average (R263). -/
def wredP16 (minTh maxTh maxP avg : Nat) : Nat :=
  if avg < 256 * minTh then 0
  else if 256 * maxTh ≤ avg then 65536
  else maxP * (avg - 256 * minTh) / (maxTh - minTh)

/-- The next value of a region's random source. DESIGN CHOICE (log entry 24). -/
def wredDraw (r : Nat) (s : State) : Nat × State :=
  let n := s.wred.get 0 r
  ((Config.wredRandom r n).toNat, { s with wred := s.wred.put 0 r (n + 1) })

/-- Step 6 of R260 on a copy for queue `q`, whose average stands: whether it is dropped. `set` is the colour set, `exempt` R262. -/
def wredDrops (q set : Nat) (exempt : Bool) (s : State) : Bool × State :=
  if exempt then (false, s)
  else
    let g := pQSC (s.qRegion q)
    let p := s.rd (wQUEUE q) F.Q_CFG_WRED_PROFILE
    let d := wredDraw (s.qRegion q) s
    (d.1 < wredP16 (s.rd g F.QSC_WRED_TH_MIN_TH p set) (s.rd g F.QSC_WRED_TH_MAX_TH p set) (s.rd g F.QSC_WRED_P_MAX_P p set)
      (s.rd (wQUEUE q) F.Q_W9_AVG), d.2)

end Sys2Proof.Machine
end

