-- ==== Sys2Proof/Machine/SchedOps.lean ====
section
/-! DEFINITION. Scheduling (R281 to R294): shapers, which queue requests, the two-level arbiter, and what goes on the wire. -/
namespace Sys2Proof.Machine

/-! ### Shapers (R289 to R294) -/

/-- One bit of credit: in these units a slope of n Mb/s adds 25 n per 1/65,536 ns, and every frame costs a whole number at every rate. -/
def bitU : Nat := 1638400000

def State.shaper (s : State) (j : Nat) : Shaper := s.shapers.get {} j
def State.setShaper (s : State) (j : Nat) (x : Shaper) : State := { s with shapers := s.shapers.put {} j x }

/-- The port a shaper is attached to. -/
def shaperPort (j : Nat) (x : Shaper) : Nat := 12 * (j / 2048) + x.cell

/-- The shaper of a queue, when it uses one. -/
def shaperOf (s : State) (q : Nat) : Option Nat :=
  if s.rdB (wQUEUE q) F.Q_SCHED_SHAPED then some (2048 * s.qRegion q + s.rd (wQUEUE q) F.Q_SCHED_SHAPER) else none

/-- The queues that use a shaper. -/
def shaperQueues (s : State) (j : Nat) : List Nat :=
  (listedEntries s 0x10000 65536 F.Q_SCHED_SHAPED).filter (fun q => shaperOf s q = some j)

/-- The credit held within its limits. -/
def Shaper.limit (x : Shaper) (c : Int) : Int := clampInt (-((x.lo * bitU : Nat) : Int)) (x.hi * bitU : Nat) c

/-- Whether a queue of a shaper is being transmitted, on its port or over the mate link. -/
def shaperBusy (s : State) (j : Nat) : Bool :=
  let uses := fun (q : Nat) => decide (shaperOf s q = some j)
  (match (s.port (shaperPort j (s.shaper j))).cur with
    | some t => t.queue.any uses
    | none => false)
  || (match s.mate.cur with
    | some (q, _, _) => uses q
    | none => false)

/-- Whether a copy waits in a queue: in its FRONT part, or as the remainder its port holds (R290). -/
def copyWaits (s : State) (q : Nat) : Bool :=
  !(s.queue q).front.isEmpty || (match (s.port (s.qPort q)).held with | some t => decide (t.queue = some q) | none => false)

/-- The credit of a shaper at the present instant (R290, R291). Its gates stood since the last update as they stood then, every change of them
being an update. -/
def creditNow (s : State) (j : Nat) (x : Shaper) : Int :=
  let p := shaperPort j x
  let qs := shaperQueues s j
  let dt := s.sNow - x.at_
  let rise : Int := 25 * x.slope * dt
  if s.link_ p != lUP then 0
  else if stateIn s (pQSC (j / 2048)) [.fenced, .reinit] then x.credit
  else if shaperBusy s j then x.limit (x.credit + rise - 25 * (s.rate p * dt : Nat))
  else if !qs.isEmpty && qs.all (fun q => !gateOpenAt s p (s.qClass q) x.at_) then x.credit
  else if qs.any (copyWaits s) then x.limit (x.credit + rise)
  else if 0 ≤ x.credit then 0
  else min 0 (x.limit (x.credit + rise))

/-- Show the present credit of a shaper in QSC_SHP_CREDIT while it is the selected one (R306). -/
def showCredit (j : Nat) (s : State) : State :=
  let g := pQSC (j / 2048)
  if s.rd g F.QSC_SHP_SEL_SEL = j % 2048 then
    s.wrS g F.QSC_SHP_CREDIT_CREDIT (creditNow s j (s.shaper j) / (bitU : Int)) else s

/-- Take a shaper's present credit for the stored one. -/
def storeCredit (j : Nat) (s : State) : State :=
  let x := s.shaper j
  showCredit j (s.setShaper j { x with credit := creditNow s j x, at_ := s.sNow })

/-- Bring a shaper's stored credit up to the present, while none of its queues transmits (R292). -/
def refreshShaper (j : Nat) (s : State) : State := if shaperBusy s j then showCredit j s else storeCredit j s

/-- Bring up to date the shaper of a queue, before what its queue holds changes. -/
def refreshOf (q : Nat) (s : State) : State :=
  match shaperOf s q with
  | some j => refreshShaper j s
  | none => s

/-- Bring up to date the shapers of a port, before its gates or its state change. -/
def refreshPort (p : Nat) (s : State) : State :=
  (s.shapers.entries.filterMap (fun (e : Nat × Shaper) => if shaperPort e.1 e.2 = p then some e.1 else none)).foldl
    (fun s j => refreshShaper j s) s

/-- Change what a queue holds, its shaper's credit being exact up to now. -/
def onQueue (q : Nat) (f : State → State) (s : State) : State := refreshOf q (f (refreshOf q s))

/-- What a transmission of `bytes` on the wire costs its queue's shaper: the credit moves at IDLE_SLOPE − R for as long (R290); that of a fenced
block does not change (R304). DEDUCED (log entry 64). -/
def chargeShaper (q bytes : Nat) (s : State) : State :=
  match shaperOf s q with
  | none => s
  | some j =>
    let x := s.shaper j
    let p := shaperPort j x
    let r := s.rate p
    if r = 0 || stateIn s (pQSC (j / 2048)) [.fenced, .reinit] then s
    else
      let cost : Int := (bytes * 8 : Nat) * ((r : Int) - x.slope) * (bitU / r : Nat)
      showCredit j (s.setShaper j { x with credit := if s.link_ p = lUP then x.limit (x.credit - cost) else 0, at_ := s.sNow })

/-! ### Which queue requests (R282) -/

/-- Whether a copy at a queue's head has what it needs to start: its tail, or 128 bytes of a frame that may leave cut-through (R88). -/
def headReady (s : State) (q : Nat) (c : Copy) : Bool :=
  match s.frames.find? c.frame with
  | none => false
  | some x => x.complete || (!forwarded s q && c.cut && !(s.queue q).spill && 128 ≤ x.bytes.length && s.rate (s.qPort q) ≤ s.rate x.port)

/-- Whether the eliminator withholds a head (R381). -/
def withheld (s : State) (q : Nat) (c : Copy) : Bool :=
  match s.frames.find? c.frame with
  | none => false
  | some x => c.ofStream && match x.handle, x.seq with
    | some h, some _ => (recovOf s h q).isSome && c.recov.isNone
    | _, _ => false

/-- Whether a queue requests. -/
def requests (s : State) (q : Nat) : Bool :=
  match (s.queue q).front with
  | [] => false
  | c :: _ =>
    drainUp s q && headReady s q c && !withheld s q c
      && (match shaperOf s q with
          | some j => 0 ≤ creditNow s j (s.shaper j)
          | none => true)

/-- The queues of a class group that request, by rising number. -/
def groupRequests (s : State) (p c : Nat) : List Nat :=
  ((portQueues s p).filter (fun q => s.qClass q = c && !forwarded s q && requests s q)).mergeSort (· ≤ ·)

/-! ### The two-level arbiter (R285) -/

/-- A class's pointer. -/
def Arb.pointer (a : Arb) (c : Nat) : Nat := (a.ptr[c]?).getD 0

/-- The order of one round: by class, highest first; within a class, upward from the class's pointer and round again. -/
def Arb.order (a : Arb) (l : List Want) : List Want :=
  (List.range 8).reverse.flatMap (fun c =>
    let m := (l.filter (fun w => w.cls = c)).mergeSort (fun x y => x.req ≤ y.req)
    m.filter (fun w => a.pointer c ≤ w.req) ++ m.filter (fun w => w.req < a.pointer c))

/-- The pointer moves past a requester that was granted. -/
def Arb.moved (a : Arb) (w : Want) : Arb :=
  { a with ptr := (a.ptr ++ List.replicate (8 - a.ptr.length) 0).set w.cls (w.req + 1) }

/-! ### What a copy puts on the wire -/

/-- Put an R-TAG after the outer VLAN tags (R385). -/
def addTag (seq : Nat) (d : List Byte) (extra : Option Nat) : List Byte :=
  let o := skipTags d extra 2 12
  d.take o ++ beBytes 2 0xF1C1 ++ [0, 0] ++ beBytes 2 seq ++ d.drop o

/-- The bytes of a frame before its FCS after the edits of its routine, as far as they have come (R176). -/
def Frame.editedSoFar (x : Frame) : List Byte :=
  if x.complete then x.edited else applyFixups x.fixups x.prec x.edits (applyEdits x.edits x.bytes)

/-- What the egress port cell of queue `q` sends of a copy before its FCS and before the edits of PTP. -/
def wireBytes (s : State) (p : Nat) (q : Option Nat) (c : Copy) : List Byte :=
  match s.frames.find? c.frame with
  | none => []
  | some x =>
    let b := if x.complete then copyBytes s x c
      else match c.mirror with
        | some k => if s.rdB (pRPL 0) F.RPL_MIR_A_DIR k then x.editedSoFar else x.bytes
        | none => x.editedSoFar
    match q with
    | some q => if tagOut s q c x then addTag (x.seq.getD 0) b (extraTpid s (portRegion p)) else b
    | none => b

/-- The bytes a transmission sends before its FCS. -/
def txBytes (s : State) (p : Nat) (t : Tx) : List Byte :=
  match t.bytes with
  | some b => b
  | none => putAll (wireBytes s p t.queue t.copy) t.ptp

/-- Whether a transmission's length is known by now: its frame's tail has come. -/
def txKnown (s : State) (t : Tx) : Bool :=
  t.bytes.isSome || (match s.frames.find? t.copy.frame with | some x => x.complete | none => true)

/-- Whether a transmission ends stomped (R89). -/
def txBad (s : State) (t : Tx) : Bool :=
  t.stomp || (match s.frames.find? t.copy.frame with | some x => x.bad && !t.copy.late | none => true)

/-- Bytes a transmission has left, its FCS among them, by Lmax while its length is unknown (R324). -/
def txLeft (s : State) (p : Nat) (t : Tx) : Nat :=
  if txKnown s t then (txBytes s p t).length + 4 - t.sent
  else match s.frames.find? t.copy.frame with
    | some x => lmaxOf s x + (match t.queue with | some q => if tagOut s q t.copy x then 6 else 0 | none => 0) - t.sent
    | none => 64

/-! ### Candidates of the port stage (R281 to R284, R321, R322) -/

/-- The requester class of a class group at its port (R284). -/
def portClass (s : State) (p c : Nat) : Nat :=
  if c = 7 then 7
  else s.rd (pQSC (portRegion p)) F.QSC_PORT_ARB_TC_CLASS (portCell p) / 2 ^ (3 * c) % 8

/-- The queue a class group puts forward (R283). -/
def groupPick (s : State) (p c : Nat) : Option Nat :=
  let l := (groupRequests s p c).map (fun q => (⟨s.rd (wQUEUE q) F.Q_SCHED_ARB_CLASS, q, q⟩ : Want))
  ((((s.port p).groups[c]?).getD {}).order l).head?.map (·.queue)

/-- The length the head of a queue is tested with: its own, or Lmax while its tail is not stored (R324). -/
def testLen (s : State) (q : Nat) (c : Copy) : Nat :=
  match copyLen s q c with
  | some n => n
  | none => match s.frames.find? c.frame with
    | some x => lmaxOf s x + (if tagOut s q c x then 6 else 0)
    | none => 64

/-- The point at which an express grant preempts the transmission on a port: the earliest that leaves a fragment of F bytes and a remainder of
64; none where there is no such point (R323). -/
def expressPoint (s : State) (p : Nat) (t : Tx) : Option Nat :=
  let left := (txBytes s p t).length + 4 - t.sent
  let gone := (s.now - t.startL) * s.rate p / (8 * usU) - 8
  let at_ := max (fragMin s p) gone
  if preemptActive s p && !isExpress s p t.cls && (!txKnown s t || at_ + 64 ≤ left) then some at_ else none

/-- The start the arbiter plans for a frame of class `c`: now on an idle wire, else where the transmission in progress will leave it: its end, its
planned cut, or where an express frame preempts it (R321). -/
def plannedStart (s : State) (p c : Nat) : Nat :=
  match (s.port p).cur with
  | none => s.sNow
  | some t =>
    let cut := match (if isExpress s p c then expressPoint s p t else none), t.cutAt with
      | some a, some b => some (min a b)
      | some a, none => some a
      | none, b => b
    max s.sNow (t.startT + wireTime (s.rate p) (match cut with | some n => n + 24 | none => txLeft s p t + 20))

/-- Whether a remainder leaves room for class `c` to start a frame: not for its own class, nor for another preemptible one, one preempted frame at a
time being held (R240, R322). DEDUCED (log entry 129). -/
def heldLets (s : State) (p c : Nat) : Bool :=
  match (s.port p).held with
  | some t => t.cls != c && (isExpress s p c || !preemptActive s p)
  | none => true

/-- Whether the start rule admits what a request of a port stands for, at the start planned for it: queue 65,536 is the remainder held. -/
def startFits (s : State) (p c q : Nat) : Bool :=
  if q = 65536 then (match (s.port p).held with
    | some t => t.cls = c && mayStart s p c (plannedStart s p c) (txLeft s p t)
    | none => false)
  else heldLets s p c && (match (s.queue q).front with
    | k :: _ => mayStart s p c (plannedStart s p c) (testLen s q k)
    | [] => false)

/-- What class group `c` asks of its port: to resume the remainder it holds, or to start the head of one of its queues. -/
def groupWant (s : State) (p c : Nat) : Option Want :=
  let q := match (s.port p).held with
    | some t => if t.cls = c then some 65536 else groupPick s p c
    | none => groupPick s p c
  q.bind (fun q => if startFits s p c q then some ⟨portClass s p c, c, q⟩ else none)

/-- Whether a port's arbiters grant: its QSC block is not fenced (R304), nor its port block. -/
def portGrants (s : State) (p : Nat) : Bool :=
  s.link_ p = lUP && stateIn s (pQSC (portRegion p)) [.ready, .run] && s.inState (pPORT (portRegion p)) .run
    && stateIn s pXBAR [.ready, .run] && !(s.port p).disabling && !pinsTested s

/-- The standing requests of a port's arbiter. -/
def portWants (s : State) (p : Nat) : List Want :=
  if portGrants s p then (List.range 8).filterMap (fun c => groupWant s p c) else []

/-! ### Preemption (R322, R323) -/

/-- Plan the end of the transmission in progress against the gates (R322). -/
def planCut (p : Nat) (s : State) : State :=
  match (s.port p).cur with
  | none => s
  | some t =>
    s.updPort p (fun x => { x with cur := some { t with
      cutAt := gateCut s p t.cls t.startT t.startL (if txKnown s t then some ((txBytes s p t).length + 4 - t.sent) else none) } })

/-- An express grant during a splittable frame preempts it (R323). -/
def expressCut (p : Nat) (s : State) : State :=
  match (s.port p).cur with
  | none => s
  | some t => match expressPoint s p t with
    | some n => s.updPort p (fun x => { x with cur := some { t with cutAt := some (match t.cutAt with | some c => min c n | none => n) } })
    | none => s

/-! ### Waiting (R288) -/

/-- Whether a queue asks for its port: its head does, or a remainder of one of its copies is held. -/
def asks (s : State) (p q : Nat) : Bool :=
  (!forwarded s q && requests s q) || (match (s.port p).held with | some t => t.queue = some q | none => false)

/-- The queue a port's grant is for, that of the remainder where it resumes one. -/
def grantee (s : State) (p : Nat) (w : Want) : Option Nat :=
  if w.queue = 65536 then (s.port p).held.bind (·.queue) else some w.queue

/-- Count a round in which the queues of a port that requested were not granted, but for `granted`; a queue that does not request ends its
run of rounds. DEDUCED (log entry 63). -/
def countWaits (p : Nat) (granted : Option Nat) (s : State) : State :=
  if !portGrants s p then s
  else (portQueues s p).foldl (fun s q =>
    if !asks s p q then s.wr (wQUEUE q) F.Q_STARVE_WAIT_ROUNDS 0
    else if granted != some q then s.addSat (wQUEUE q) F.Q_STARVE_WAIT_ROUNDS else s) s

/-! ### The end of a transmission -/

/-- Put a fragment on the wire: `n` bytes of the frame, or all that is left. -/
def sendPart (p : Nat) (t : Tx) (n : Option Nat) (s : State) : State :=
  let d := (txBytes s p t).drop t.sent
  match n with
  | some n => emit (.wire p (d.take n) false true) s
  | none => emit (.wire p d true (!txBad s t)) s

/-- What a port counts of a transmitted frame (R556). -/
def countSent (p : Nat) (t : Tx) (s : State) : State :=
  let d := txBytes s p t
  let s1 := countFrame p 16 64 (d.length + 4) d s
  let s2 := if txBad s t then count (cPort p 20) s1 else s1
  if t.frags = 0 then s2 else countBy (cPort p 21) (t.frags + 1) s2

/-- A transmission ends with its frame (R290): the shaper pays, the copy is released. -/
def endFrame (p : Nat) (t : Tx) (s : State) : State :=
  let d := txBytes s p t
  let s1 := (sendPart p t none (countSent p t s)).updPort p (fun x => { x with cur := none })
  let s2 := match t.queue with
    | some q => chargeShaper q (d.length + 4 - t.sent + 20) s1
    | none => s1
  releaseCopy t.copy s2

/-- A transmission is preempted after `n` bytes: what is left resumes later (R322). -/
def endFragment (p n : Nat) (t : Tx) (s : State) : State :=
  let s1 := count (cPort p 22) (sendPart p t (some n) s)
  let s2 := s1.updPort p (fun x => { x with cur := none
                                            held := some { t with sent := t.sent + n, frags := t.frags + 1, cutAt := none } })
  match t.queue with
  | some q => chargeShaper q n s2
  | none => s2

/-! ### The delay histogram (R303) -/

/-- The bin of a residence in 1/65,536 ns. -/
def delayBin (shift d : Nat) : Nat :=
  let u := nsU * 2 ^ shift
  if d < u then 0 else min 31 ((d / u).log2 + 1)

end Sys2Proof.Machine
end

