-- ==== Sys2Proof/Machine/AdmitOps.lean ====
section
/-! DEFINITION. Admission (R259 to R272, R343, R379): which copies a frame has, the ordered checks on each, the handover of the cord, and
where an admitted copy goes. -/
namespace Sys2Proof.Machine

/-! ### The copies of a frame -/

/-- Where a copy goes: to a queue, to a host ring with its REASON and CODE, or to the capture area. -/
inductive Dest where
  | queue (q : Nat)
  | ring (n reason code : Nat)
  | capture (session : Nat)
  deriving DecidableEq, Repr

/-- A copy that admission made: its destination, the mirror session it is of, and whether it is the further copy of R630. -/
structure Made where
  dest : Dest
  mirror : Option Nat
  late : Bool
  deriving DecidableEq, Repr

/-- A hamper as cords of a region see it (R265, R276): COUNT 0 until its RPL block runs. -/
def hamperOf (s : State) (r h : Nat) : Hamper :=
  if s.inState (pRPL r) .run then s.hampers.get {} h else {}

/-- The queues of a hamper's members in use. -/
def Hamper.queues (h : Hamper) : List Nat := (List.range h.count).map (fun k => (h.members[k]?).getD 0)

/-- The queues a frame's verdict names, less knocked-out members (R192, R266, R267). -/
def targetQueues (s : State) (x : Frame) : List Nat :=
  match x.verdict.kind with
  | .queue q => [q]
  | .hamper h =>
    let m := hamperOf s x.region h
    let knock := m.knockout && (x.src = .front || x.src = .twin)
    m.queues.filter (fun q => !(knock && s.qPort q = x.port))
  | _ => []

/-- Where a mirror session sends its copies (R271). -/
def mirrorDest (s : State) (m : Nat) : Dest :=
  let d := s.rd (pRPL 0) F.RPL_MIR_A_DEST m
  match s.rd (pRPL 0) F.RPL_MIR_A_DEST_KIND m with
  | 0 => .queue d
  | 1 => .ring (d % 4096) 4 m
  | _ => .capture m

/-- Whether a session is enabled and an ingress session (R268, R269). -/
def ingressSession (s : State) (m : Nat) : Bool := s.rdB (pRPL 0) F.RPL_MIR_A_EN m && !s.rdB (pRPL 0) F.RPL_MIR_A_DIR m

/-- Whether a region's QSC block admits copies now: it runs and is not stopping (R276). -/
def qscTakes (s : State) (r : Nat) : Bool := s.inState (pQSC r) .run && !(s.page (pQSC r)).cmd.any (fun c => c.op = 0x41)

/-- Whether a session takes this eligible frame (R268), and the count of those it has met. -/
def sessionTakes (m : Nat) (s : State) : Bool × State :=
  let n := s.mirrorCount.get 0 m
  (n % s.rd (pRPL 0) F.RPL_MIR_B_N m = 0, { s with mirrorCount := s.mirrorCount.put 0 m (n + 1) })

/-- A mirror copy of session `m` towards its destination; one whose queue's QSC block does not admit is dropped, since the original is never
delayed for it (R271). -/
def mirrorMade (m : Nat) (late : Bool) (s : State) : List Made × State :=
  let d := mirrorDest s m
  let runs := match d with
    | .queue q => qscTakes s (s.qRegion q)
    | _ => true
  if runs then ([⟨d, some m, late⟩], s) else ([], count (cChip (16 + m)) s)

/-- The ingress mirror copy of a frame (R269). -/
def ingressMirror (x : Frame) (s : State) : List Made × State :=
  match x.verdict.mirror with
  | some m =>
    if ingressSession s m then
      let t := sessionTakes m s
      if t.1 then mirrorMade m false t.2 else ([], t.2)
    else ([], s)
  | none => ([], s)

/-- The further copy that a failed deferred check owes a frame not yet admitted (R630). -/
def lateCopy (x : Frame) (act : Option (Nat × Nat)) (s : State) : List Made × State :=
  match act with
  | some (1, k) => ([⟨.ring (s.rd (pPRS x.region) F.PRS_RINGS_MAL_RING) 2 k, none, true⟩], s)
  | some (3, _) =>
    let m := s.rd (pPRS x.region) F.PRS_MAL_MIRROR_SESSION
    if ingressSession s m then mirrorMade m true s else ([], s)
  | _ => ([], s)

/-- The queue a copy of a protected stream is placed in (R379); none where its twin copy is bound to no entry. -/
def placeCopy (s : State) (x : Frame) (q : Nat) : Option Nat :=
  match x.handle, x.seq with
  | some h, some _ =>
    if x.src = .twin then
      ((validRecov s).find? (fun k => s.rd (wRECOV k) F.REC_STREAM = h && s.rd (wRECOV k) F.REC_QUEUE = q)).map
        (fun k => s.rd (wRECOV k) F.REC_TWIN_Q)
    else some q
  | _, _ => some q

/-- The queues the copies of a frame's verdict are placed in. -/
def placedQueues (s : State) (x : Frame) : List Nat := (targetQueues s x).filterMap (placeCopy s x)

/-! ### When a frame may be admitted (R88, R259, R276) -/

/-- Whether the copy of a frame for queue `q` may leave cut-through (R88). -/
def cutOk (s : State) (x : Frame) (q : Nat) : Bool :=
  let p := s.qPort q
  (x.src = .front || x.src = .twin) && !x.verdict.ctDis && !(s.queue q).spill
    && (s.rd (pPORT (portRegion p)) F.PORT_CFG_CT_MASK (portCell p)).testBit (s.qClass q)
    && 0 < s.rate p && s.rate p ≤ s.rate x.port

/-- A place at which the copies of one input port are ordered: a region, a host ring, the capture area. -/
def Dest.place (s : State) : Dest → Nat
  | .queue q => s.qRegion q
  | .ring n _ _ => 8 + n
  | .capture _ => 8 + 4096

/-- The places a frame's copies are ordered at, that of its ingress mirror copy among them where it is eligible for one (R259, R271). DEDUCED
(log entry 59). -/
def orderedAt (s : State) (x : Frame) : List Nat :=
  (match x.verdict.kind with
    | .ring n => [8 + n]
    | _ => (placedQueues s x).map (fun q => s.qRegion q))
  ++ (match x.verdict.mirror with
    | some m => if ingressSession s m then [(mirrorDest s m).place s] else []
    | none => [])

/-- Whether no earlier frame of the same input still stands before this one (R115, R259). -/
def admitTurn (s : State) (f : Nat) (x : Frame) : Bool :=
  x.why.1 = 6 || !s.frames.entries.any (fun (e : Nat × Frame) => e.1 < f && sameTurn e.2 x
    && (match e.2.stage with
        | .admitted => false
        | .retired => e.2.why.1 != 6 && (orderedAt s e.2).any (fun r => (orderedAt s x).contains r)
        | _ => true))

/-- Whether the blocks concerned take the frame now: the QSC of every queue is RUN and not stopping, the RPL block can read its hamper, and
the buffer block can charge it; else it waits at step 6. -/
def blocksTake (s : State) (x : Frame) : Bool :=
  (placedQueues s x).all (fun q => qscTakes s (s.qRegion q))
    && (match x.verdict.kind with | .hamper _ => stateIn s (pRPL x.region) [.ready, .run] | _ => true)
    && stateIn s (pBUF x.region) [.ready, .run]

/-- Whether enough of the frame has come (R88): all of it, 128 bytes where every copy of its verdict may leave cut-through, since they are admitted
in one step (R258), any part for a ring, which waits for the rest itself (R503). DEDUCED (log entry 59). -/
def headStored (s : State) (x : Frame) : Bool :=
  x.complete
    || (match x.verdict.kind with
        | .ring _ => true
        | _ => 128 ≤ x.bytes.length && !(placedQueues s x).isEmpty && (placedQueues s x).all (cutOk s x))

/-! ### The checks of one copy (R260) -/

/-- Step 4: whether the queue's port state admits a copy (R273). -/
def portAdmits (s : State) (q : Nat) : Bool :=
  wayUp s q || (s.queue q).dstate = .holding || (s.queue q).dstate = .spilled

/-- The billets a copy of a frame counts in its queue's depth (R256). -/
def copyCount (s : State) (x : Frame) : Nat :=
  if x.complete then (s.headW (x.head.getD 0)).billets else (lmaxOf s x + 255) / 256 + 1

/-- Steps 1 and 2, which need no queue: the step that fails, 0 when neither does. -/
def frameChecks (x : Frame) (colour : Colour) (m : Made) : Nat :=
  if m.late then 0 else if x.bad then 1 else if colour = .red && m.mirror.isNone then 2 else 0

/-- Steps 1 to 6 on a copy for queue `q`, in which `k` copies of the same admission are placed already: the step that fails, 0 when none does.
The decision updates the queue's average first (R264). -/
def copyChecks (x : Frame) (colour : Colour) (m : Made) (q k : Nat) (s0 : State) : Nat × State :=
  let w := wQUEUE q
  let depth := s0.rd w F.Q_W8_BILLETS + k * copyCount s0 x
  let s := s0.wr w F.Q_W9_AVG (wredAvg s0 q depth (s0.rd w F.Q_W11_FRAMES + k))
  let c := frameChecks x colour m
  if c != 0 then (c, s)
  else if !s.rdB w F.Q_CFG_EN then (3, s)
  else if !portAdmits s q then (4, s)
  else if s.rd w F.Q_LIMIT_MAX_DEPTH ≤ depth then (5, s)
  else
    let r := x.region
    let a := accountOf x
    let n := match x.head with | some b => (s.headW b).billets | none => 0
    let d := wredDrops q (if m.mirror.isSome then 2 else colour.idx) (useOf s r a + n ≤ gminOf s r a) s
    (if d.1 then 6 else 0, d.2)

/-- Count a refused mirror copy (R271). -/
def mirrorRefused (m : Made) (s : State) : State :=
  match m.mirror with
  | some n => count (cChip (16 + n)) s
  | none => s

/-- Count a copy that step `k` refused (R261, R271): one for a ring or the capture area has no queue to be counted for. DEDUCED (log entry 60). -/
def countRefused (m : Made) (k : Nat) (s : State) : State :=
  mirrorRefused m (match m.dest with
    | .queue q => countDrop q (k - 1) s
    | _ => s)

/-- The verdict of steps 1 to 6 over a list of copies, `acc` having passed: those that pass, and the first step that failed. -/
def checkAll (x : Frame) (colour : Colour) (acc : List Made) : List Made → State → List Made × Nat × State
  | [], s => (acc, 0, s)
  | m :: t, s =>
    let refused := fun (c : Nat) (m : Made) (s : State) =>
      let r := checkAll x colour acc t (countRefused m c s)
      (r.1, if c = 0 then r.2.1 else c, r.2.2)
    match m.dest with
    | .queue q =>
      match (if m.mirror.isSome || m.late then some q else placeCopy s x q) with
      | none => checkAll x colour acc t (count (cStream (x.handle.getD 0) 1) s)
      | some q' =>
        let y := { m with dest := .queue q' }
        let c := copyChecks x colour m q' (acc.filter (fun n => n.dest = .queue q')).length s
        if c.1 = 0 then checkAll x colour (acc ++ [y]) t c.2 else refused c.1 y c.2
    | _ =>
      let c := frameChecks x colour m
      if c = 0 then checkAll x colour (acc ++ [m]) t s else refused c m s

/-! ### Handover (R232, R239) -/

/-- Charge a cord to its account and hand it over with `n` copies; none when the charge is refused. -/
def handover (x : Frame) (n : Nat) (s : State) : Option State :=
  match x.head with
  | none => none
  | some b =>
    let r := billetRegion b
    let a := accountOf x
    let l := cordBillets s 40 b
    if s.inState (pBUF r) .run && l.all (fun k => (s.link k).alloc && (s.link k).owner = ownerTag x) && chargeOk s r a l.length then
      let s1 := l.foldl (fun s k => s.setLink k { s.link k with owner := 0xFE, account := a }) s
      let s2 := charge r a l.length (held r (ownerClass x) (· - l.length) s1)
      some (s2.setHead b { s2.headW b with refcnt := n })
    else none

/-! ### Where an admitted copy goes -/

/-- The copy of a frame that admission made. -/
def mkCopy (s : State) (f : Nat) (x : Frame) (m : Made) (q : Option Nat) : Copy :=
  let b := match x.head with | some b => b | none => 0
  { frame := f, gen := (s.pool (billetRegion b)).gen, at_ := s.sNow
    billets := copyCount s x
    cut := !x.complete && !m.late && (match q with
      | some q => cutOk s x q && (match m.mirror with | some k => s.rd (pRPL 0) F.RPL_MIR_B_TRUNC k = 0 | none => true)
      | none => false)
    mirror := m.mirror, marked := false, recov := none, late := m.late }

/-- A copy enters its queue: behind a spilling queue's PEAT part, in BACK; or as the first of BACK where it makes the queue spill (R343),
or comes under the spill policy (R273); else in FRONT. -/
def enqueue (q : Nat) (c : Copy) (s : State) : State :=
  let w := wQUEUE q
  settle q (onQueue q (fun s =>
    let x := s.queue q
    let above := s.rdB w F.Q_SPILL_CFG_SPILL_EN && s.rd w F.Q_SPILL_CFG_SPILL_TH * 16 < s.rd w F.Q_W8_BILLETS + c.billets
    if x.spill then s.updQueue q (fun x => { x with back := x.back ++ [{ c with cut := false }] })
    else if (above || x.dstate = .spilled) && peatTakes s then
      s.updQueue q (fun x => { x with spill := true, back := [{ c with cut := false }] })
    else s.updQueue q (fun x => { x with front := x.front ++ [c] })) (count (cQueue q 0) s))

/-- An admitted copy goes on. -/
def sendOn (f : Nat) (x : Frame) (port : Nat) (time : Nat) (egress : Bool) (m : Made) (s : State) : State :=
  match m.dest with
  | .queue q => enqueue q (mkCopy s f x m (some q)) s
  | .ring n reason code =>
    { s with hif := { s.hif with waiting := s.hif.waiting ++ [(⟨n, mkCopy s f x m none, reason, code⟩ : RingCopy)] } }
  | .capture k =>
    { s with peat := { s.peat with captures := s.peat.captures ++ [(⟨mkCopy s f x m none, egress, k, port, time⟩ : CapCopy)] } }

/-! ### Admission -/

/-- The copies a frame's verdict makes, but for mirrors: those for its queues, or the one for its ring. DEDUCED (log entry 58). -/
def verdictCopies (s : State) (x : Frame) : List Made :=
  match x.verdict.kind with
  | .ring n => [⟨.ring n x.why.1 x.why.2, none, false⟩]
  | _ => (targetQueues s x).map (fun q => ⟨.queue q, none, false⟩)

/-- Whether a frame's verdict names queues. -/
def namesQueues (x : Frame) : Bool :=
  match x.verdict.kind with
  | .queue _ | .hamper _ => true
  | _ => false

/-- Step 6 of R37 for a frame whose turn it is. DEDUCED (log entry 59). -/
def admitNow (f : Nat) (x : Frame) (s : State) : State :=
  let mir := ingressMirror x s
  let late := lateCopy x x.lateAct mir.2
  let vc := verdictCopies late.2 x
  let pol := policeFrame x late.2
  let s1 := pol.2.2.updFrame f (fun y => { y with colour := pol.1, metered := pol.2.1 })
  let noMember := namesQueues x && vc.isEmpty
  let s2 := if noMember && x.port < 48 && (x.src = .front || x.src = .twin) then
      count (cPC x.port x.verdict.tc 7) s1 else s1
  let ch := checkAll x pol.1 [] (vc ++ mir.1 ++ late.1) s2
  let acc := ch.1
  let s3 := chargeRound x.region ch.2.2
  let step := if noMember then 0x0B else ch.2.1
  let host := fun (st re : Nat) (s : State) => if x.ring.isSome then txReport f st re none s else s
  if acc.isEmpty then dropEarly f (host 1 step s3)
  else match handover x acc.length s3 with
    | none =>
      let s4 := acc.foldl (fun s m => countRefused m 7 s) s3
      dropEarly f (host 1 7 s4)
    | some s4 =>
      let s5 := s4.updFrame f (fun y => { y with stage := .admitted })
      let s6 := if !x.tsReq then host 0 0 s5
        else if acc.any (fun m => m.mirror.isNone) then s5 else host 1 step s5
      acc.foldl (fun s m => sendOn f x x.port x.stamp.s false m s) s6

/-- Step 6 of R37. -/
def admission (f : Nat) (s : State) : State :=
  match s.frames.find? f with
  | none => s
  | some x =>
    if x.stage = .retired && admitTurn s f x && blocksTake s x && headStored s x then admitNow f x s else s

/-! ### Egress mirroring (R270) -/

/-- The mirror copy of a copy that starts transmission from queue `q`. -/
def egressMirror (q : Nat) (c : Copy) (s : State) : State :=
  let m := s.rd (wQUEUE q) F.Q_MIRROR_EMIR_SESSION
  if !(s.rdB (wQUEUE q) F.Q_MIRROR_EMIR_EN && s.rdB (pRPL 0) F.RPL_MIR_A_EN m && s.rdB (pRPL 0) F.RPL_MIR_A_DIR m) then s
  else
    let t := sessionTakes m s
    if !t.1 then t.2
    else match t.2.frames.find? c.frame with
      | none => count (cChip (16 + m)) t.2
      | some x =>
        let i := incCord c.frame t.2
        if !i.1 then count (cChip (16 + m)) i.2
        else
          let k := mirrorMade m false i.2
          let ch := checkAll x .green [] k.1 k.2
          match ch.1 with
          | [] => decCord c.frame c.gen ch.2.2
          | y :: _ => sendOn c.frame x (s.qPort q) s.sNow true y ch.2.2

end Sys2Proof.Machine
end

