-- ==== Sys2Proof/Machine/HifOps.lean ====
section
/-! DEFINITION. Host rings (R500 to R510), the time snapshot (R515), and the ports the host interface serves itself: the management ports, and
the keep ports of the smoulder state (R511, R541). -/
namespace Sys2Proof.Machine

/-! ### Rings -/

/-- A field of a ring's entry. -/
def State.ringRd (s : State) (n : Nat) (f : Field) : Nat := s.rd (wRING n) f

/-- A: the posted slots the device has not used (R500). -/
def ringPosted (s : State) (n : Nat) : Nat := (s.ringRd n F.RING_HOST_IDX + 65536 - s.ringRd n F.RING_DEV_IDX) % 65536

/-- Whether the host interface moves frames: RUN, and not stopping (R519). -/
def hifServes (s : State) : Bool := s.inState pHIF .run && !(s.page pHIF).cmd.any (fun c => c.op = 0x41)

/-- Whether a ring takes a copy or a descriptor of its kind (R503, R504, R506). -/
def ringOpen (s : State) (n kind : Nat) : Bool :=
  hifServes s && s.rdB (wRING n) F.RING_EN && s.ringRd n F.RING_KIND = kind && 0 < ringPosted s n

/-- The host address of the slot of device index `i`. -/
def slotAddr (s : State) (n i : Nat) : Nat :=
  s.ringRd n F.RING_BASE_HI * 2 ^ 32 + s.ringRd n F.RING_BASE_LO * 64 + 64 * (i % 2 ^ s.ringRd n F.RING_SIZE_LOG2)

/-- The completion word (R501). -/
def cmplWord (s : State) (n i status reason len : Nat) : List Byte :=
  leBytes 4 ((i / 2 ^ s.ringRd n F.RING_SIZE_LOG2 + 1) % 2 * 2 ^ 31 + status * 2 ^ 28 + reason * 2 ^ 20 + len)

/-- The rings that are enabled. -/
def openRings (s : State) : List Nat := listedEntries s 0x40000 4096 F.RING_EN

/-- Whether something of a ring is still in flight (R507). -/
def ringBusy (s : State) (n : Nat) : Bool :=
  s.hif.slots.any (fun x => x.ring = n) || s.hif.dones.any (fun x => x.ring = n)
    || s.hif.lines.any (fun x => x.ring = n && !x.data.isEmpty)
    || s.frames.entries.any (fun (e : Nat × Frame) => match e.2.ring with
        | some (r, _) => r = n && (e.2.tsReq || e.2.stage != .admitted)
        | none => false)

/-- RSTATE returns to STOPPED once nothing of a disabled ring is in flight. -/
def ringSync (n : Nat) (s : State) : State :=
  if s.ringRd n F.RING_RSTATE = 1 && !s.rdB (wRING n) F.RING_EN && !ringBusy s n then s.wr (wRING n) F.RING_RSTATE 0 else s

/-- DEV_IDX increments: the slot at it is taken. -/
def takeSlot (n : Nat) (s : State) : State := s.wr (wRING n) F.RING_DEV_IDX ((s.ringRd n F.RING_DEV_IDX + 1) % 65536)

/-! ### Cached descriptor lines (R509) -/

/-- Change the held lines, and LINES_USED with them. -/
def setLines (l : List HeldLine) (s : State) : State :=
  ({ s with hif := { s.hif with lines := l } }).wr pHIF F.HIF_LINK_LINES_USED l.length

/-- Whether a ring's lines are cached: function 0's, over CXL with CXL.cache enabled. -/
def ringCaches (s : State) (n : Nat) : Bool :=
  s.rdB (wRING n) F.RING_CACHE_EN && s.rd pHIF F.HIF_LINK_LINK_MODE = 1 && s.rdB pHIF F.HIF_LINK_CACHE_ON

/-- Whether a line is held. -/
def lineHeld (s : State) (n i : Nat) : Bool := s.hif.lines.any (fun x => x.ring = n && x.idx = i)

/-- A line is read with RdOwn, unless 256 are held. -/
def holdLine (n i : Nat) (s : State) : State :=
  if ringCaches s n && !lineHeld s n i && s.hif.lines.length < 256 then setLines (s.hif.lines ++ [(⟨n, i, []⟩ : HeldLine)]) s else s

/-- Up to PREFETCH posted lines ahead are held. -/
def prefetch (n : Nat) (s : State) : State :=
  if s.rdB (wRING n) F.RING_EN then
    (List.range (min (s.ringRd n F.RING_PREFETCH) (ringPosted s n))).foldl
      (fun s k => holdLine n ((s.ringRd n F.RING_DEV_IDX + k) % 65536) s) s
  else s

/-- A ring raises its event source (R510). -/
def ringEvent (n : Nat) (s : State) : State := srcEvent (s.ringRd n F.RING_EVT_SRC) s

/-- What a held line was completed with becomes visible to the host; the line is given up. DEDUCED (log entry 95). -/
def releaseLine (x : HeldLine) (s : State) : State :=
  let s1 := setLines (s.hif.lines.filter (fun y => y != x)) s
  if x.data.isEmpty then s1
  else ringSync x.ring (ringEvent x.ring (x.data.foldl (fun s e => emit (.dma e.1 e.2) s) s1))

/-- A slot is completed: its line's bytes are written, into the held line where there is one; else to the host, with its event. -/
def completeSlot (n i : Nat) (line : List (Nat × List Byte)) (s : State) : State :=
  if lineHeld s n i then
    ringSync n (setLines (s.hif.lines.map (fun x => if x.ring = n && x.idx = i then { x with data := line } else x)) s)
  else ringSync n (ringEvent n (line.foldl (fun s e => emit (.dma e.1 e.2) s) s))

/-- Stop a ring (R507): no further slot is used, and the clean lines it holds are evicted. -/
def stopRing (n rstate : Nat) (s : State) : State :=
  let s1 := (s.wr (wRING n) F.RING_EN 0).wr (wRING n) F.RING_RSTATE rstate
  ringSync n (setLines (s1.hif.lines.filter (fun x => x.ring != n || !x.data.isEmpty
    || s1.hif.slots.any (fun y => y.ring = n && y.idx = x.idx))) s1)

/-! ### The time snapshot (R515) -/

/-- A scale as the snapshot lays it out. -/
def scaleBytes (t : Nat) : List Byte := leBytes 6 (tSec t) ++ leBytes 2 (tFrac t) ++ leBytes 4 (tNs t) ++ leBytes 4 0

/-- The snapshot at the present instant: SEQ increments with each. -/
def timeSnapshot (s : State) : List Byte × State :=
  let x := s.stampAt s.now
  let q := (s.hif.snapSeq + 1) % 2 ^ 32
  let flags := b2n (s.selDom = 1) + 2 * b2n (s.phase s.now != 0) + 4 * s.rd pTIME F.TIME_STATUS_BANKED
    + 8 * s.rd pTIME F.TIME_STATUS_PLL_LOCK + 16 * s.domState 0 + 128 * s.domState 1
  (leBytes 8 (x.l / 65536) ++ leBytes 2 (x.l % 65536) ++ leBytes 2 flags ++ leBytes 4 q ++ scaleBytes x.s ++ scaleBytes x.a ++ scaleBytes x.b,
   { s with hif := { s.hif with snapSeq := q } })

/-! ### Ports the host interface serves itself (R511, R541) -/

/-- A new frame at step 1. -/
def frameOf (p : Nat) (d : List Byte) (complete bad : Bool) (tc : Nat) (st : Stamp) : Frame :=
  { port := p, src := .front, region := portRegion p, bytes := d, complete := complete, bad := bad, tc := tc, stamp := st
    handle := none, seq := none, prec := 0, stage := .received, verdict := {}, edits := [], fixups := 0, head := none
    deferred := [], lateAct := none, rtag := none, colour := .green, metered := none, ring := none, oneStep := false
    tsReq := false, why := (1, 0), edit := none }

/-- Whether a front-panel port is a keep port of the present smoulder state. -/
def keepPort (s : State) (p : Nat) : Bool := s.emb.asleep && s.emb.keeps.contains p

/-- The bytes each of these ports buffers in a direction. -/
def servedBuffer : Nat := 262144

/-- Whether a frame is one of the host interface's own buffers. -/
def Frame.served (x : Frame) : Bool := x.src = .front && x.head.isNone && x.stage = .admitted

/-- The bytes of a port's receive buffer in use. -/
def servedBytes (s : State) (p : Nat) : Nat :=
  s.frames.entries.foldl (fun n (e : Nat × Frame) => if e.2.served && e.2.port = p then n + e.2.bytes.length else n) 0

/-- The class of a frame received on a port (R90). A management port has neither PORT_PCP_MAP nor DEFAULT_TC: it takes their reset values.
DESIGN CHOICE (log entry 126). -/
def servedClass (s : State) (p : Nat) (d : List Byte) : Nat :=
  if p < 48 then classOf s p d
  else if beAt d 12 2 = 0x8100 || beAt d 12 2 = 0x88A8 then byteAt d 14 / 32 else 0

/-- A whole frame at such a port, received at `st`: MAC control frames are dropped (R75); one that passes R87 goes to its ring with REASON 0x05; one
that finds the buffer full is dropped. DESIGN CHOICE (log entry 127). -/
def servedFrame (p : Nat) (d : List Byte) (st : Stamp) (s : State) : State :=
  if beAt d 12 2 = 0x8808 then count (cPort p 8) s
  else
    let t := checkTail p d s
    if !t.1 || t.2.1 then t.2.2.2
    else
      let s2 := t.2.2.2
      let x := t.2.2.1
      if servedBuffer < servedBytes s2 p + x.length then (if 48 ≤ p then count (cChip (100 + (p - 48))) s2 else count (cPort p 33) s2)
      else
        let ring := if 48 ≤ p then s2.rd pHIF F.HIF_MGMT_CFG_RX_RING (p - 48) else s2.rd pEMB F.EMB_KEEP_KEEP_RING
        let a := s2.newFrame { frameOf p x true false (servedClass s p x) st with stage := .admitted, why := (5, 0) }
        let c : Copy := { frame := a.1, gen := 0, at_ := s2.sNow, billets := 0, cut := false, mirror := none, marked := false, recov := none, late := false }
        { a.2 with hif := { a.2.hif with waiting := a.2.hif.waiting ++ [(⟨ring, c, 5, 0⟩ : RingCopy)] } }

/-- The stamp of a frame whose first byte comes now on a port, and its count while the port is not calibrated (R401). -/
def stampRx (p : Nat) (s : State) : Stamp × State :=
  let st := s.rxStamp p
  (st, if st.uncal then count (cPort p 35) s else s)

/-- A frame received on a management port; one cut short by a raw link failure is dropped and counted in RX_ABORTED (R83, R98). -/
def servedReceive (p : Nat) (d : List Byte) (stopped : Bool) (s : State) : State :=
  let q := stampRx p s
  if stopped then count (cPort p 7) q.2 else servedFrame p d q.1 q.2

/-- A frame leaves by such a port, when it is UP and its transmit buffer has room: the STATUS and REASON of its slot, and the record of its
transmission. DEDUCED (log entry 94). -/
def servedSend (p : Nat) (x : Frame) (s : State) : Nat × Nat × Option (List Byte) × State :=
  let d := x.edited
  let room := (s.hif.txFree.get 0 p - s.now) * s.rate p / (8 * usU)
  if s.link_ p != lUP || pinsTested s then (1, 4, none, s)
  else if servedBuffer < room + d.length then (1, 8, none, if 48 ≤ p then count (cChip (102 + (p - 48))) s else s)
  else
    let tx := s.txStamp p
    let e := ptpEdits p x (padFrame d) none tx s
    let b := putAll (padFrame d) e.1
    let s1 := countFrame p 16 64 (b.length + 4) b (emit (.wire p b true true) e.2)
    let free := max (s1.hif.txFree.get 0 p) s1.now + wireTime (s1.rate p) (b.length + 24)
    (0, 0, if x.tsReq then some (tsRecord tx b none true p) else none,
      { s1 with hif := { s1.hif with txFree := s1.hif.txFree.put 0 p free } })

end Sys2Proof.Machine
end

