-- ==== Sys2Proof/Machine/Ports.lean ====
section
/-! DEFINITION. The meanings of the steps of ports, lanes and the frame MAC: quad layouts, link states, reception, preemption
verification and the port commands. -/
namespace Sys2Proof.Machine

/-! ### Quads -/

/-- The layout a QUAD_MODE write would leave is one of R76 and holds only values R74 allows. -/
def quadModeRange (s : State) (r q : Nat) (l : List NewVal) : Bool :=
  let g := pPORT r
  let m := nv s g l F.QUAD_MODE_MODE q
  [0, 1, 2, 3, 4, 5, 15].contains m
    && layoutOk m (fun k => s.rd g (laneSpeedF k) q) (fun k => s.rd g (laneFecF k) q) (fun k => s.rd g (laneAnF k) q)

/-- Every port of a quad is DISABLED. -/
def quadIdle (s : State) (r q : Nat) : Bool := (List.range 4).all (fun k => s.link_ (12 * r + 4 * q + k) = lDISABLED)

/-- R76, R78, R100: the layout a QUAD_MODE write would leave must be one of R76 and hold only values R74 allows, and every port
of the quad must be DISABLED. -/
def quadModeWrite (r q : Nat) (w : View) (ag v : Nat) (s : State) : State :=
  regWrite (pPORT r) (0x380 + 0x20 * q) w ag v (quadModeRange s r q) (fun _ => quadIdle s r q) noBusy noEff s

def execQuadModeWrite (r q : Nat) (w : View) (ag v : Nat) (s : State) : Res := .next (quadModeWrite r q w ag v s)

/-- The values a QUAD_LANE write would leave are allowed in the quad's layout. -/
def quadLaneRange (s : State) (r q : Nat) (l : List NewVal) : Bool :=
  let g := pPORT r
  (List.range 4).all (fun k => nv s g l (laneFecF k) q != 3)
    && layoutOk (s.rd g F.QUAD_MODE_MODE q) (fun k => nv s g l (laneSpeedF k) q) (fun k => nv s g l (laneFecF k) q) (fun k => nv s g l (laneAnF k) q)

/-- No bit of a lane of a port that is not DISABLED would change. -/
def quadLaneState (s : State) (r q : Nat) (l : List NewVal) : Bool :=
  let g := pPORT r
  (List.range 4).all (fun k =>
    match layoutPort (s.rd g F.QUAD_MODE_MODE q) k with
    | some lo => s.link_ (12 * r + 4 * q + lo) = lDISABLED
        || l.all (fun x => x.f.lo / 8 != k || x.v = s.rd g x.f x.i x.j)
    | none => true)

/-- R78, R100: the values a QUAD_LANE write would leave must be allowed in the layout, and no bit of a lane of a port that is not
DISABLED may change. -/
def quadLaneWrite (r q : Nat) (w : View) (ag v : Nat) (s : State) : State :=
  regWrite (pPORT r) (0x384 + 0x20 * q) w ag v (quadLaneRange s r q) (quadLaneState s r q) noBusy noEff s

def execQuadLaneWrite (r q : Nat) (w : View) (ag v : Nat) (s : State) : Res := .next (quadLaneWrite r q w ag v s)

/-! ### The link -/

def execRawLinkFail (p cause : Nat) (s : State) : Res := .next (rawFail p cause s)
def execRawLinkGood (p : Nat) (s : State) : Res := .next (rawGood p s)

/-- R81: D has passed with the raw link still failed. -/
def execDownFilterExpiry (p : Nat) (s : State) : Res :=
  .next (if s.link_ p = lDOWN_FILTER && !portFrozen s p then goDown p lDOWN s else s)

/-- R81, R82: the raw link has been good for U. -/
def execUpFilterExpiry (p : Nat) (s : State) : Res :=
  .next (if s.link_ p = lUP_FILTER && !portFrozen s p then goUp p s else s)

/-- R81: training is complete and the PCS locks; DOWN with raw link good passes at once to UP_FILTER. -/
def trainingComplete (p : Nat) (good : Bool) (s : State) : State :=
  if s.link_ p = lTRAINING && !portFrozen s p then
    let an := p < 48 && s.rdB (pPORT (portRegion p)) (laneAnF (p % 4)) (portCell p / 4)
    let s2 := setLink_ p lDOWN (setRaw p (b2n good) (setAnDone p (b2n (an || 48 ≤ p)) s))
    verifyIdle p (if good then fromDown p s2 else s2)
  else s

def execTrainingComplete (p : Nat) (good : Bool) (s : State) : Res := .next (trainingComplete p good s)

/-- R79: negotiation fails and restarts; the port stays in TRAINING. -/
def execAnFail (p : Nat) (s : State) : Res :=
  .next (if p < 48 && s.link_ p = lTRAINING && s.rdB (pPORT (portRegion p)) (laneAnF (p % 4)) (portCell p / 4) then
      portEvent p F.PORT_EVENT_AN_FAIL F.PORT_EVENT_AN_FAIL s
    else s)

/-- R84: a filter that runs ends as soon as its time since entry reaches the new value. -/
def filterNow (p : Nat) (s : State) : State :=
  let t := s.now - (s.port p).filterAt
  if portFrozen s p then s
  else if s.link_ p = lDOWN_FILTER && s.downFilt p * 100 * usU ≤ t then goDown p lDOWN s
  else if s.link_ p = lUP_FILTER && s.upFilt p * 100 * usU ≤ t then goUp p s
  else s

def execLinkFilterWrite (p : Nat) (w : View) (ag v : Nat) (s : State) : Res :=
  .next (if p < 48 then
      regWrite (pPORT (portRegion p)) (0x088 + 0x40 * portCell p) w ag v noCheck noCheck noBusy (fun _ => filterNow p) s
    else regWrite pHIF (F.HIF_MGMT_FILT_DOWN_FILT.at (p - 48) 0) w ag v noCheck noCheck noBusy noEff s)

/-! ### Reception -/

/-- What identification makes of a frame (R373, R374): its handle and sequence number, the bytes without their R-TAG, and whether it
passes individual recovery. DEDUCED (log entry 74). -/
def identifyFrame (p : Nat) (d : List Byte) (s : State) : Bool × Option (Nat × Nat) × List Byte × State :=
  match identify s p d with
  | none => (true, none, d, s)
  | some h =>
    let e := wIDENT h
    let rt := (portView d (extraTpid s (portRegion p))).rtag
    let d1 := match rt with | some (o, _) => d.take o ++ d.drop (o + 6) | none => d
    if s.rd e F.ID_SEQ_SRC = 0 then
      let n := s.rd e F.ID_GEN_SEQ
      (true, some (h, n), d1, s.wr e F.ID_GEN_SEQ ((n + 1) % 65536))
    else match rt with
      | none => (true, none, d1, count (cStream h 3) s)
      | some (_, n) =>
        if s.rdB e F.ID_INDIV_EN then
          if s.rd e F.ID_LAST_SEQ = n then (false, some (h, n), d1, count (cStream h 2) s)
          else (true, some (h, n), d1, s.wr e F.ID_LAST_SEQ n)
        else (true, some (h, n), d1, s)

/-- The frame goes on: a slow-protocol frame unchanged to its ring (R91), every other identified, with its twin copy on the crossbar (R376).
`noRoom` is a frame that found the ingress FIFO full: it is dropped behind the split (R198). -/
def startWalk (p : Nat) (d : List Byte) (complete bad : Bool) (st : Stamp) (noRoom : Bool) (s : State) : State :=
  let x := frameOf p d complete bad (classOf s p d) st
  let enter := fun (y : Frame) (s : State) => if noRoom then count (cPort p 33) s else (s.newFrame y).2
  if beAt d 12 2 = 0x8809 then
    let ring := s.rd pHIF F.HIF_SPROTO_SP_RING
    if noRoom then count (cPort p 33) s
    else if s.rdB pHIF F.HIF_SPROTO_EN then
      let a := s.newFrame { x with stage := .retired, verdict := { kind := .ring ring, tc := x.tc }, why := (6, 0) }
      storeFrame a.1 a.2
    else count (cRing ring 0) s
  else
    let q := identifyFrame p d s
    if !q.1 then q.2.2.2
    else
      let x1 := { x with bytes := q.2.2.1, handle := q.2.1.map (·.1), seq := q.2.1.map (·.2)
                         rtag := if q.2.2.1 = d then none
                           else (portView d (extraTpid s (portRegion p))).rtag.map (fun e => (e.1, slice d e.1 6)) }
      let s1 := enter x1 q.2.2.2
      match q.2.1 with
      | some (h, _) =>
        if s.rdB (wIDENT h) F.ID_TWIN_EN then
          (s1.newFrame { x1 with src := .twin, region := s.rd (wIDENT h) F.ID_TWIN_REGION, stage := .crossing }).2
        else s1
      | none => s1

/-- PREEMPT_EN of a port. -/
def preemptOn (s : State) (p : Nat) : Bool := s.rdB (pPORT (portRegion p)) F.PORT_PREEMPT_PREEMPT_EN (portCell p)

/-- Fragments of a preemptible frame: while PREEMPT_EN is 0 each is discarded, and a failed reassembly discards the frame (R95, R556). -/
def takeFragments (p frags : Nat) (broken : Bool) (s : State) : Bool × State :=
  if frags = 0 then (true, s)
  else if !preemptOn s p then (false, countBy (cPort p 9) frags s)
  else if broken then (false, count (cPort p 9) (countBy (cPort p 11) frags s))
  else (true, countBy (cPort p 11) frags s)

/-- A frame received whole; `frags` where it came in fragments. -/
def wholeFrame (p : Nat) (d : List Byte) (frags noRoom : Bool) (st : Stamp) (s : State) : State :=
  let s1 := if frags then count (cPort p 10) s else s
  if keepPort s p then servedFrame p d st s1
  else if beAt d 12 2 = 0x8808 then count (cPort p 8) s1
  else
    let t := checkTail p d s1
    if !t.1 then t.2.2.2 else startWalk p t.2.2.1 true t.2.1 st noRoom t.2.2.2

/-- A frame is in reception until its tail comes. -/
def openRx (p : Nat) (x : Rx) (s : State) : State := s.updPort p (fun y => { y with rx := some x })

/-- Step 1 of R37 for a frame on a port that is up (R75, R82, R87): `noRoom` where the ingress FIFO is full. A MAC control frame is dropped by its type
alone. DESIGN CHOICE (log entry 37). DESIGN CHOICE (log entry 127). -/
def receive (p : Nat) (d : List Byte) (complete : Bool) (frags : Nat) (broken stopped noRoom : Bool) (s : State) : State :=
  let f := takeFragments p frags broken s
  let q := stampRx p f.2
  let begin_ := fun (k : RxKind) (s : State) => openRx p ⟨d, q.1, k, frags != 0, noRoom⟩ s
  if !f.1 then (if complete || stopped then f.2 else begin_ .lost f.2)
  else if stopped then
    let s1 := count (cPort p 7) q.2
    if d.length < 64 || keepPort s p || beAt d 12 2 = 0x8808 then s1 else startWalk p (d ++ [0, 0, 0, 0]) true true q.1 noRoom s1
  else if complete then wholeFrame p d (frags != 0) noRoom q.1 q.2
  else if beAt d 12 2 = 0x8808 then begin_ .control (count (cPort p 8) q.2)
  else if d.length < 64 || keepPort s p then begin_ .hold q.2
  else begin_ .walked (startWalk p d false false q.1 noRoom q.2)

/-- Bytes of port `p`'s frames that wait in its ingress FIFO, and whether `n` more find it full (R198): it holds 2 µs of the port's rate and
what this silicon gives beyond. DESIGN CHOICE (log entry 27). -/
def fifoBytes (s : State) (p : Nat) : Nat :=
  s.frames.entries.foldl (fun n (e : Nat × Frame) =>
    if e.2.port = p && e.2.src = .front && (e.2.stage = .received || e.2.stage = .parsed) then n + e.2.bytes.length else n) 0
def fifoFull (s : State) (p n : Nat) : Bool :=
  let w := fifoBytes s p
  w != 0 && s.rate p * 2 / 8 + Config.fifoExtra p < w + n

/-- The RS-FEC codewords a port corrected and could not correct, while it runs an FEC (R556). -/
def fecCount (p : Nat) (fec : Nat × Nat) (s : State) : State :=
  if s.rd (pPORT (portRegion p)) F.PORT_STATUS_FEC_ACTIVE (portCell p) = 0 then s
  else countBy (cPort p 25) fec.2 (countBy (cPort p 24) fec.1 s)

/-- A frame on a port: dropped and counted while the block is fenced or the port is not up; dropped uncounted while the block is READY. DEDUCED (log
entry 38). DESIGN CHOICE (log entry 128). -/
def execFrameReceive (p : Nat) (d : List Byte) (complete : Bool) (frags : Nat) (broken stopped : Bool) (fec : Nat × Nat) (s0 : State) : Res :=
  .next (
    let s := if pinsTested s0 then s0 else fecCount p fec s0
    if s.link_ p = lDISABLED || pinsTested s then s
    else if stateIn s (pPORT (portRegion p)) [.fenced, .reinit] then count (cPort p 7) s
    else if !s.inState (pPORT (portRegion p)) .run then s
    else if !s.portUp p then count (cPort p 12) s
    else if (s.port p).rx.isSome then s
    else receive p d complete frags broken stopped (fifoFull s p d.length) s)

/-! ### Verification -/

/-- R94: no response came; another verify mPacket, at most three. While the block is fenced the MAC sends none (R101). -/
def execVerifyTimeout (p : Nat) (s : State) : Res :=
  .next (
    let g := pPORT (portRegion p)
    let i := portCell p
    if s.rd g F.PORT_STATUS_VERIFY_STATUS i != 2 || portFrozen s p then s
    else if (s.port p).verSent < 3 then emit (.verify p) (s.updPort p (fun x => { x with verSent := x.verSent + 1 }))
    else portEvent p F.PORT_EVENT_VERIFY_FAILED F.PORT_EVENT_VERIFY_FAILED (s.wr g F.PORT_STATUS_VERIFY_STATUS 4 i))

/-- An mPacket of verification: while PREEMPT_EN is 0 it is discarded and counted in RX_FRAG_ERR (R95); a DISABLED port receives nothing. -/
def verifyPacket (p : Nat) (act : State → State) (s : State) : State :=
  if s.link_ p = lDISABLED then s else if preemptOn s p then act s else count (cPort p 9) s

/-- R94: verification succeeds. -/
def verifyAnswered (p : Nat) (s : State) : State :=
  let g := pPORT (portRegion p)
  let i := portCell p
  if s.rd g F.PORT_STATUS_VERIFY_STATUS i = 2 then syncPreempt p (s.wr g F.PORT_STATUS_VERIFY_STATUS 3 i) else s

def execVerifyResponseRx (p : Nat) (s : State) : Res := .next (verifyPacket p (verifyAnswered p) s)

/-- R94: a verify mPacket is always answered while PREEMPT_EN is 1. -/
def execVerifyMpacketRx (p : Nat) (s : State) : Res := .next (verifyPacket p (emit (.verifyResponse p)) s)

/-- The source port of a recovered clock output exists and its divider suits the port's speed. -/
def rclkRange (s : State) (k : Nat) (l : List NewVal) : Bool :=
  nv s pTIME l F.RCLK_CTRL_SRC_PORT k < 48
    && divOk s (nv s pTIME l F.RCLK_CTRL_SRC_PORT k) (nv s pTIME l F.RCLK_CTRL_DIV k)

/-- R96: the output may not exceed 200 MHz from the source port's present symbol rate. -/
def execRclkCtrlWrite (k : Nat) (w : View) (ag v : Nat) (s : State) : Res :=
  .next (regWrite pTIME (0x200 + 4 * k) w ag v (rclkRange s k) noCheck noBusy noEff s)

/-! ### Port commands (R99) -/

/-- A port command's ARG names a formed port's lowest lane. -/
def portArg (s : State) (pg arg : Nat) : Bool := isBlk pg .port && arg < 12 && s.formed (12 * pageRegion pg + arg)

def execPortEnable (pg ag arg : Nat) (s : State) : Res :=
  .next (
    let p := 12 * pageRegion pg + arg
    command pg ag 0x40 (portArg s pg arg) (stateIn s pg [.run] && s.link_ p = lDISABLED)
      (fun s => (syncGuards (syncSub (pageRegion pg) (verifyIdle p ((startsOver p lTRAINING (setLink_ p lTRAINING s)).updPort p (fun x => { x with filterAt := s.now })))), rDONE)) s)

def execPortDisable (pg ag arg : Nat) (s : State) : Res :=
  .next (
    let p := 12 * pageRegion pg + arg
    commandLong pg ag 0x41 arg (portArg s pg arg) (stateIn s pg [.run] && s.link_ p != lDISABLED) []
      (fun s => s.updPort p (fun x => { x with disabling := true })) s)

/-- A port being disabled enters DISABLED, and a PORT_DISABLE of it completes. -/
def portDisabled (p : Nat) (s : State) : State :=
  let g := pPORT (portRegion p)
  let s1 := goDown p lDISABLED (abortReceptions p (s.updPort p (fun x => { x with disabling := false })))
  if (s1.page g).cmd.any (fun c => c.op = 0x41 && c.arg = portCell p) then finishCmd g rDONE s1 else s1

/-- R99: the frame on the wire has ended. -/
def execPortDisableDone (p : Nat) (s : State) : Res :=
  .next (if (s.port p).disabling && (s.port p).cur.isNone then portDisabled p s else s)

def execPortRetrain (pg ag arg : Nat) (s : State) : Res :=
  .next (
    let p := 12 * pageRegion pg + arg
    command pg ag 0x42 (portArg s pg arg) (stateIn s pg [.run] && s.link_ p != lDISABLED)
      (fun s => (goDown p lTRAINING (abortReceptions p s), rDONE)) s)

end Sys2Proof.Machine
end

