-- ==== Sys2Proof/Machine/Tables.lean ====
section
/-! DEFINITION. The meanings of the steps of parsing, trees, forwarding tables and dispatch (R104 to R172, R195). -/
namespace Sys2Proof.Machine

/-! ### The parser (R104 to R116) -/

/-- The parser settings of a region (R128). -/
def parserIn (s : State) (r : Nat) (x : Frame) : PIn :=
  let p := pPRS r
  { d := x.bytes, complete := x.complete, csumEn := s.rdB p F.PRS_CTRL_CSUM_EN
    extra := if s.rdB p F.PRS_TPID_EXTRA_EN then some (s.rd p F.PRS_TPID_EXTRA_TPID) else none
    vxlan := s.rd p F.PRS_UDP_A_VXLAN_PORT, gtpu := s.rd p F.PRS_UDP_A_GTPU_PORT
    ecpri := if s.rdB p F.PRS_CTRL_ECPRI_UDP_EN then some (s.rd p F.PRS_UDP_B_ECPRI_PORT) else none }

/-- Whether a tree swap, or a BLOCK_STOP, keeps a frame waiting in its ingress FIFO (R123, R127). -/
def parserHolds (s : State) (x : Frame) : Bool :=
  match (s.page (pPRS x.region)).cmd with
  | some c => c.op = 0x41
      || (c.op = 0x42 && x.src = .front && portRegion x.port = x.region && ((c.ops[2]?).getD 0).testBit (portCell x.port))
  | none => false

/-- Whether an earlier frame of the same turn has not been parsed yet. -/
def parsedBefore (s : State) (f : Nat) (x : Frame) : Bool :=
  !s.frames.entries.any (fun (e : Nat × Frame) => e.1 < f && sameTurn e.2 x && e.2.stage = .received)

/-- An action of R111 on a frame whose record is made: 0 DROP, 1 SLOW to a ring, 2 CONTINUE, 3 DROP_MIRROR. -/
def parseAction (f act ring session : Nat) (why : Nat × Nat) (s : State) : State :=
  match act with
  | 0 => dropTurn f s
  | 1 => frameDone f (fun x => { x with verdict := { kind := .ring ring, tc := x.tc }, why := why }) s
  | 2 => s.updFrame f (fun x => { x with stage := .parsed })
  | _ => frameDone f (fun x => { x with verdict := { tc := x.tc, mirror := some session } }) s

/-- Step 2 of R37 for a frame that waits for it. -/
def parseStep (f : Nat) (s : State) : State :=
  match s.frames.find? f with
  | none => s
  | some x =>
    let r := x.region
    let p := pPRS r
    if x.stage != .received || !s.inState p .run || parserHolds s x || !parsedBefore s f x then s
    else
      let q := parseFrame (parserIn s r x)
      if q.more then s
      else
        let s1 := s.updFrame f (fun x => { x with prec := q.word, deferred := q.late })
        let s2 := match q.mal with | some k => count (cRegion r k) s1 | none => s1
        let s3 := match q.slow with | some k => count (cRegion r (15 + k)) s2 | none => s2
        match q.mal, q.slow with
        | some k, _ => parseAction f (s.rd p F.PRS_MAL_ACT_ACT / 4 ^ k % 4) (s.rd p F.PRS_RINGS_MAL_RING)
            (s.rd p F.PRS_MAL_MIRROR_SESSION) (2, k) s3
        | none, some k => parseAction f (s.rd p F.PRS_SLOW_ACT_ACT / 4 ^ (k - 1) % 4) (s.rd p F.PRS_RINGS_SLOW_RING)
            (s.rd p F.PRS_MAL_MIRROR_SESSION) (3, k) s3
        | none, none => parseAction f 2 0 0 (1, 0) s3

def execParseFrame (f : Nat) (s : State) : Res := .next (parseStep f s)

/-! ### Node memory and trees (R117 to R126) -/

/-- The 120 data bits staged in PRS_NODE_DATA. -/
def stagedNode (s : State) (pg : Nat) : Nat :=
  s.rd pg F.PRS_NODE_DATA_DATA 0 + s.rd pg F.PRS_NODE_DATA_DATA 1 * 2 ^ 32 + s.rd pg F.PRS_NODE_DATA_DATA 2 * 2 ^ 64
    + s.rd pg F.PRS_NODE_DATA_3_DATA * 2 ^ 96

def execNodeWrite (pg ag arg : Nat) (s : State) : Res :=
  .next (
    let b := stagedNode s pg
    command pg ag 0x43 (isBlk pg .prs && arg = 0 && nodeOk b) (stateIn s pg [.ready, .run])
      (fun s => ({ s with tab := { s.tab with
        nodes := s.tab.nodes.put ⟨holeBits, false⟩ (s.rd pg F.PRS_NODE_IDX_INDEX) ⟨b, false⟩ } }, rDONE)) s)

/-- What a stored word reads as once it holds an uncorrectable error: free bits. -/
def badBits (w : Nat) (s : State) : Nat × State :=
  let d := nextFree s
  ((List.range ((w + 7) / 8)).foldl (fun a i => a * 256 + (Config.badByte d.1 i).toNat) 0 % 2 ^ w, d.2)

/-- NODE_READ (R127): the ECC is the silicon's own code, free in this model. DESIGN CHOICE (log entry 22). -/
def nodeRead (pg : Nat) (s : State) : State :=
  let x := s.node (s.rd pg F.PRS_NODE_IDX_INDEX)
  let q := if x.bad then badBits 120 s else (x.bits, s)
  let s1 := (List.range 3).foldl (fun s i => s.wr pg F.PRS_NODE_DATA_DATA (q.1 / 2 ^ (32 * i)) i) q.2
  (s1.wr pg F.PRS_NODE_DATA_3_DATA (q.1 / 2 ^ 96)).wr pg F.PRS_NODE_DATA_3_ECC (Config.nodeEcc x.bits).toNat

def execNodeRead (pg ag arg : Nat) (s : State) : Res :=
  .next (command pg ag 0x44 (isBlk pg .prs && arg = 0) (stateIn s pg [.ready, .run]) (fun s => (nodeRead pg s, rDONE)) s)

/-- The root of a tree becomes another (R123 step 3). -/
def switchRoot (pg t root valid : Nat) (s : State) : State :=
  (s.wr pg F.PRS_TREE_ROOT_ROOT root t).wr pg F.PRS_TREE_ROOT_VALID valid t

/-- R123, R126: in READY the root switches at once; in RUN the swap starts, with its operands taken now. -/
def execTreeSwap (pg ag arg : Nat) (s : State) : Res :=
  .next (
    let root := s.rd pg F.PRS_SWAP_CFG_NEW_ROOT
    let valid := s.rd pg F.PRS_SWAP_CFG_NEW_VALID
    let range := isBlk pg .prs && arg < 64
    if s.inState pg .run then
      commandLong pg ag 0x42 arg range true [root, valid, s.rd pg F.PRS_SWAP_CFG_PORT_MASK, s.now]
        (fun s => s.updPage pg (fun h => { h with substate := 1 })) s
    else command pg ag 0x42 range (stateIn s pg [.ready]) (fun s => (switchRoot pg arg root valid s, rDONE)) s)

/-- The contexts of a region whose routine runs for a frame of a masked port cell. -/
def maskedRoutines (s : State) (r mask : Nat) : List Nat :=
  s.eng.ctx.entries.filterMap (fun (e : Nat × Ctx) =>
    if e.1 / 128 = r && e.2.busy then
      match e.2.theFrame s with
      | some x => if x.src = .front && mask.testBit (portCell x.port) then some e.1 else none
      | none => none
    else none)

/-- R123 steps 2 to 4: stragglers are abandoned and run again, the root switches, the parser resumes. -/
def treeSwitch (r : Nat) (s : State) : State :=
  let p := pPRS r
  match (s.page p).cmd with
  | some c =>
    if c.op != 0x42 then s
    else
      let l := maskedRoutines s r ((c.ops[2]?).getD 0)
      let s1 := l.foldl (fun s i => (abandon (i / 8) (i % 8) s).addSat p F.PRS_SWAP_STATUS_RERUN_CNT) s
      let s2 := switchRoot p c.arg ((c.ops[0]?).getD 0) ((c.ops[1]?).getD 0) s1
      let s3 := s2.wr p F.PRS_SWAP_STATUS_LAST_PAUSE_NS ((s.now - (c.ops[3]?).getD 0) / nsU)
      finishCmd p rDONE (s3.updPage p (fun h => { h with substate := 0 }))
  | none => s

def execTreeSwapRootSwitch (r : Nat) (s : State) : Res := .next (treeSwitch r s)

/-! ### Lookup completion (R119, R138, R144, R168 to R172) -/

/-- Complete the lookup on tag `n` of a context, or the released lookup `n - 8` of the engine, when it is of the kind `sel` accepts:
`look` performs it for the port it stands for. While block `pg`, which performs it, does not pass traffic, it waits (R59). DEDUCED
(log entry 137). -/
def completeLookup (pg e c n : Nat) (sel : LookKind → Bool) (look : LookKind → Nat → Option Nat → State → LookAns × State) (s : State) : State :=
  if !s.inState pg .run then s
  else if n < 8 then
    match outstanding s e c n with
    | some t =>
      if sel t.kind then
        let a := look t.kind t.key (((s.ctx e c).theFrame s).map (·.port)) s
        answerTag e c n a.1 a.2
      else s
    | none => s
  else match (s.eng.orphans.get [] e)[n - 8]? with
    | some o => if sel o.kind then dropOrphan e (n - 8) (look o.kind o.key o.port s).2 else s
    | none => s

/-- The bits of the key register a lookup of a width takes. -/
def keyOf (w key : Nat) : Nat := key % 2 ^ (32 * keyWords w)

def execEmLookupComplete (e c n : Nat) (upsets : List (Nat × Bool)) (s : State) : Res :=
  .next (completeLookup (pLKP (engRegion e)) e c n (fun k => match k with | .em _ _ => true | _ => false)
    (fun k key port s => match k with
      | .em w mode => emLookup (engRegion e) port w (keyOf w key) mode upsets s
      | _ => (.miss, s)) s)

def execLpmLookupComplete (e c n : Nat) (upsets : List (Nat × Bool)) (s : State) : Res :=
  .next (completeLookup (pLKP (engRegion e)) e c n (fun k => k = .lpm) (fun _ key _ s => lpmLookup (engRegion e) key upsets s) s)

def execTreeWalkComplete (e c n : Nat) (upsets : List (Nat × Bool)) (s : State) : Res :=
  .next (completeLookup (pPRS (engRegion e)) e c n (fun k => match k with | .tree _ => true | _ => false)
    (fun k key _ s => match k with
      | .tree t => treeLookup (engRegion e) t key upsets s
      | _ => (.miss, s)) s)

/-! ### The insert sequencer, the tick and the ager -/

/-- The request at the front of the sequencer's queue, when it is an insert, or a delete. -/
def seqFront (ins : Bool) (upsets : List (Nat × Bool)) (s : State) : State :=
  match s.tab.seqQ with
  | q :: t => if q.insert = ins then seqStep q upsets { s with tab := { s.tab with seqQ := t } } else s
  | [] => s

def execSequencerInsert (upsets : List (Nat × Bool)) (s : State) : Res := .next (seqFront true upsets s)
def execSequencerDelete (upsets : List (Nat × Bool)) (s : State) : Res := .next (seqFront false upsets s)

/-- R147; NOW starts at 0 when boot completes (R158). -/
def execTick (s : State) : Res :=
  .next (if s.rdB pBOOT F.BOOT_STATUS_DONE then s.wr (pLKP 0) F.LKP_AGE_NOW_NOW ((s.tick + 1) % 65536) else s)

/-- R148, R149: what the last visit left to compare is compared first; then the next place is read, and its compare-and-remove follows in
this step or, with `later`, at the start of the next visit. DEDUCED (log entry 45). -/
def agerVisit (later : Bool) (upsets : List (Nat × Bool)) (s : State) : State :=
  let s0 := s.tab.agerReads.foldl (fun s a => agerCompare a s) { s with tab := { s.tab with agerReads := [] } }
  if !s0.rdB (pLKP 0) F.LKP_AGE_CFG_AGER_EN then s0
  else
    let place := s0.tab.agerPlace
    let s1 := readSlots 0 (agerReadsSlot place) upsets s0
    let l := (agerGroups s1 place).filterMap (fun e => if agerTakes s1 e.1 e.2 then some (⟨e.1, e.2.ts⟩ : AgerRead) else none)
    let s1 := { s1 with tab := { s1.tab with agerPlace := (place + 1) % agerPlaces } }
    if later then { s1 with tab := { s1.tab with agerReads := l } } else l.foldl (fun s a => agerCompare a s) s1

def execAgerVisit (later : Bool) (upsets : List (Nat × Bool)) (s : State) : Res := .next (agerVisit later upsets s)

/-! ### Table commands (R156) -/

/-- The staged key of a page, and its width. -/
def stagedWidth (s : State) (pg : Nat) : Nat := s.rd pg F.LKP_CMD_ARG_WIDTH
def stagedKey (s : State) (pg : Nat) : Nat :=
  (List.range (keyWords (stagedWidth s pg))).foldl (fun a i => a + s.rd pg F.LKP_KEY_DATA i * 2 ^ (32 * i)) 0
def stagedAction (s : State) (pg : Nat) : Nat := s.rd pg F.LKP_ACT_LO_ACTION + s.rd pg F.LKP_ACT_HI_ACTION * 2 ^ 32

/-- Fill LKP_CMD_OUT. -/
def cmdOut (pg : Nat) (found : Bool) (wh loc : Nat) (s : State) : State :=
  ((s.wr pg F.LKP_CMD_OUT_FOUND (b2n found)).wr pg F.LKP_CMD_OUT_WHERE wh).wr pg F.LKP_CMD_OUT_LOCATION loc

/-- Fill the staging registers of a group's result. -/
def stageResult (pg : Nat) (g : Group) (s : State) : State :=
  ((((s.wr pg F.LKP_ACT_LO_ACTION g.action).wr pg F.LKP_ACT_HI_ACTION (g.action / 2 ^ 32)).wr pg F.LKP_ACT_HI_STATIC (b2n g.static)).wr
    pg F.LKP_ACT_HI_MATE (b2n g.mate)).wr pg F.LKP_CMD_TS_TS g.ts

/-- Whether the device may not make a command's change, being the standby of a pair and the group concerned a MATE group. -/
def mateBlocks (s : State) (pg : Nat) (ins : Bool) : Bool :=
  isStandby s && ((match emFind s (stagedWidth s pg) (stagedKey s pg) with | some (_, _, g) => g.mate | none => false)
    || (ins && s.rdB pg F.LKP_ACT_HI_MATE))

/-- What a table command finds: every earlier request done, and its own search made (R140, R141). -/
def searched (pg : Nat) (upsets : List (Nat × Bool)) (s : State) : State :=
  meetSlots (pageRegion pg) (stagedWidth s pg) (stagedKey s pg) upsets (seqDrain s)

def execEmInsert (pg ag arg : Nat) (upsets : List (Nat × Bool)) (s : State) : Res :=
  .next (command pg ag 0x42 (isBlk pg .lkp && arg = 0 && !mateBlocks (seqDrain s) pg true) (stateIn s pg [.ready, .run])
    (fun s =>
      let s0 := searched pg upsets s
      match emInsert (stagedWidth s pg) (stagedKey s pg) (stagedAction s pg) (s.rdB pg F.LKP_ACT_HI_STATIC) (s.rdB pg F.LKP_ACT_HI_MATE) s0 with
      | (some (found, l, wh), s1) => (cmdOut pg found wh l s1, rDONE)
      | (none, s1) => (cmdOut pg false 0 0 s1, rEMPTY)) s)

def execEmDelete (pg ag arg : Nat) (upsets : List (Nat × Bool)) (s : State) : Res :=
  .next (command pg ag 0x43 (isBlk pg .lkp && arg = 0 && !mateBlocks (seqDrain s) pg false) (stateIn s pg [.ready, .run])
    (fun s =>
      match emDelete (stagedWidth s pg) (stagedKey s pg) (searched pg upsets s) with
      | (some (l, wh), s1) => (cmdOut pg true wh l s1, rDONE)
      | (none, s1) => (cmdOut pg false 0 0 s1, rDONE)) s)

/-- EM_SEARCH (R140, R156). -/
def emSearch (pg : Nat) (upsets : List (Nat × Bool)) (s : State) : State × Nat :=
  let w := stagedWidth s pg
  let k := stagedKey s pg
  let s1 := meetSlots (pageRegion pg) w k upsets s
  if emBad s1 w k then (s1.wr pg F.LKP_CMD_OUT_FOUND 0, rPARITY)
  else match emFind s1 w k with
    | some (l, wh, g) => (cmdOut pg true wh l (stageResult pg g s1), rDONE)
    | none => (cmdOut pg false 0 0 s1, rDONE)

def execEmSearch (pg ag arg : Nat) (upsets : List (Nat × Bool)) (s : State) : Res :=
  .next (command pg ag 0x44 (isBlk pg .lkp && arg = 0) (stateIn s pg [.ready, .run]) (emSearch pg upsets) s)

/-- EM_READ (R156): the key, its width and the result of the group at LOCATION. -/
def emRead (pg : Nat) (upsets : List (Nat × Bool)) (s : State) : State × Nat :=
  let l := s.rd pg F.LKP_CMD_ARG_LOCATION
  match s.tab.groups.find? l with
  | none => (s, rRANGE)
  | some g =>
    let s := readSlots (pageRegion pg) (g.covers l) upsets s
    if s.tab.badSlots.any (g.covers l) then (s, rPARITY)
    else
      let s1 := (List.range (keyWords g.width)).foldl (fun s i => s.wr pg F.LKP_KEY_DATA (g.key / 2 ^ (32 * i)) i) s
      (stageResult pg g (s1.wr pg F.LKP_CMD_ARG_WIDTH g.width), rDONE)

def execEmRead (pg ag arg : Nat) (upsets : List (Nat × Bool)) (s : State) : Res :=
  .next (command pg ag 0x45 (isBlk pg .lkp && arg = 0 && s.tab.groups.has (s.rd pg F.LKP_CMD_ARG_LOCATION))
    (stateIn s pg [.ready, .run]) (emRead pg upsets) s)

/-- The staged prefix entry. -/
def stagedPrefix (s : State) (pg : Nat) : Prefix :=
  { plen := s.rd pg F.LKP_LPM_META_PLEN, fam := s.rd pg F.LKP_LPM_META_FAM, vrf := s.rd pg F.LKP_LPM_META_VRF
    action := s.rd pg F.LKP_LPM_META_ACTION
    key := (List.range 4).foldl (fun a i => a + s.rd pg F.LKP_LPM_KEY_DATA i * 2 ^ (32 * i)) 0 }

/-- Bring LPM_VALID up to the array. -/
def syncLpm (s : State) : State := s.wr (pLKP 0) F.LKP_LPM_FILL_LPM_VALID (validPrefixes s).length

def execLpmWrite (pg ag arg : Nat) (s : State) : Res :=
  .next (
    let i := s.rd pg F.LKP_LPM_IDX_INDEX
    let e := stagedPrefix s pg
    command pg ag 0x46 (isBlk pg .lkp && arg = 0 && lpmOk s i e.plen e.fam e.key) (stateIn s pg [.ready, .run])
      (fun s => (syncLpm { s with tab := { s.tab with
        lpm := s.tab.lpm.put noPrefix i e
        lpmBad := s.tab.lpmBad.filter (· != i) } }, rDONE)) s)

/-- LPM_READ: all 160 bits of an entry; one that holds an uncorrectable error reads free bits and is reported (R140). -/
def lpmRead (pg : Nat) (upsets : List (Nat × Bool)) (s : State) : State :=
  let i := s.rd pg F.LKP_LPM_IDX_INDEX
  let s := match upsets.find? (fun u => u.1 = i), s.tab.lpmBad.contains i with
    | some u, _ => readPrefix (pageRegion pg) i u.2 s
    | none, true => readPrefix (pageRegion pg) i true s
    | none, false => s
  let e := s.tab.lpm.get noPrefix i
  let q := if s.tab.lpmBad.contains i then badBits 160 s
    else (e.plen * 2 ^ 152 + e.fam * 2 ^ 151 + e.vrf * 2 ^ 144 + e.action * 2 ^ 128 + e.key, s)
  let s1 := (List.range 4).foldl (fun s k => s.wr pg F.LKP_LPM_KEY_DATA (q.1 / 2 ^ (32 * k)) k) q.2
  (((s1.wr pg F.LKP_LPM_META_PLEN (q.1 / 2 ^ 152)).wr pg F.LKP_LPM_META_FAM (q.1 / 2 ^ 151)).wr pg F.LKP_LPM_META_VRF (q.1 / 2 ^ 144)).wr
    pg F.LKP_LPM_META_ACTION (q.1 / 2 ^ 128)

def execLpmRead (pg ag arg : Nat) (upsets : List (Nat × Bool)) (s : State) : Res :=
  .next (command pg ag 0x47 (isBlk pg .lkp && arg = 0) (stateIn s pg [.ready, .run]) (fun s => (lpmRead pg upsets s, rDONE)) s)

/-- Empty the exact-match table and the overflow store (ARG bit 0) and the prefix array (ARG bit 1). -/
def tableClear (arg : Nat) (s : State) : State :=
  let s1 := if arg.testBit 0 then
      (({ s with tab := { s.tab with groups := ⟨[]⟩, badSlots := [] } }.wr (pLKP 0) F.LKP_TBL_FILL_EM_USED 0).wr
        (pLKP 0) F.LKP_OVF_FILL_OVF_USED 0) else s
  if arg.testBit 1 then syncLpm { s1 with tab := { s1.tab with lpm := ⟨[]⟩, lpmBad := [] } } else s1

def execTableClear (pg ag arg : Nat) (s : State) : Res :=
  .next (commandLong pg ag 0x48 arg
    (pg = pLKP 0 && arg < 4
      && !(isStandby s && arg.testBit 0 && s.tab.groups.entries.any (fun (e : Nat × Group) => e.2.mate)))
    (stateIn s pg [.ready, .run]) []
    (fun s => (tableClear arg s).updPage pg (fun h => { h with substate := 1 })) s)

/-! ### Dispatch (R162, R163, R195) -/

/-- The engine of a region a routine is dispatched to, and its lowest-numbered free context (R162). DEDUCED (log entry 50). -/
def pickEngine (s : State) (r : Nat) : Option (Nat × Nat) :=
  let l := (List.range 16).filterMap (fun k => let n := busyCtx s (16 * r + k); if n < 8 then some (n, 16 * r + k) else none)
  match l.foldl (fun (m : Option (Nat × Nat)) e => match m with
      | none => some e
      | some b => if e.1 < b.1 then some e else some b) none with
  | none => none
  | some (_, e) => ((List.range 8).find? (fun c => !(s.ctx e c).busy)).map (fun c => (e, c))

/-- Whether an engine block dispatches: RUN, not stopping (R222), and no entry to the smoulder state begun (R542). -/
def dispatching (s : State) (r : Nat) : Bool :=
  s.inState (pENG r) .run && !(s.page (pENG r)).cmd.any (fun c => c.op = 0x41) && !s.rdB pEMB F.EMB_STATUS_SM_STATE

/-- The dispatch index of a frame (R162). -/
def dispatchIdx (x : Frame) : Nat :=
  if x.prec.testBit 127 then 15
  else match bitsOf x.prec 107 105 with
    | 1 => 9
    | 2 => 10
    | _ => bitsOf x.prec 104 102

/-- The next frame of each input port that waits for dispatch in a region, with the port's key (port, and front panel before twin). -/
def waitingFrames (s : State) (r : Nat) : List (Nat × Nat × Frame) :=
  s.frames.entries.filterMap (fun (e : Nat × Frame) =>
    if e.2.region = r && e.2.stage = .parsed
        && !s.frames.entries.any (fun (d : Nat × Frame) => d.1 < e.1 && sameTurn d.2 e.2 && (d.2.stage = .parsed || d.2.stage = .received))
    then some (2 * e.2.port + b2n (e.2.src = .twin), e.1, e.2) else none)

/-- The port served first after key `last`, in rising order and round again. -/
def nextAfter (last : Nat) (l : List (Nat × Nat × Frame)) : Option (Nat × Nat × Frame) :=
  let least := fun (q : List (Nat × Nat × Frame)) => q.foldl (fun (m : Option (Nat × Nat × Frame)) e => match m with
    | none => some e
    | some b => if e.1 < b.1 then some e else some b) none
  match least (l.filter (fun e => last < e.1)) with
  | some e => some e
  | none => least l

/-- The frame the dispatcher takes: a port whose next frame carries TC7 first, then round robin (R163). -/
def pickFrame (s : State) (r : Nat) : Option (Nat × Nat × Frame) :=
  let l := waitingFrames s r
  let urgent := l.filter (fun e => e.2.2.tc = 7)
  nextAfter (s.eng.rrPort.get 0 r) (if urgent.isEmpty then l else urgent)

/-- Dispatch the next frame of a region (R162 to R164). -/
def dispatch (r : Nat) (s : State) : State :=
  if !dispatching s r || s.eng.due.entries.any (fun (e : Nat × Nat × Nat) => e.1 / 8 = r) then s
  else match pickEngine s r, pickFrame s r with
    | some (e, c), some (k, f, x) =>
      let s0 := { s with eng := { s.eng with rrPort := s.eng.rrPort.put 0 r k } }
      let idx := dispatchIdx x
      if s.rdB (pENG r) F.ENG_DISPATCH_VALID idx then
        let u := [BitVec.ofNat 64 x.prec, BitVec.ofNat 64 (x.prec / 2 ^ 64), BitVec.ofNat 64 (frameWord x idx), BitVec.ofNat 64 (u3Of x.stamp.s)]
        let y := Ctx.start (some f) (s.rd (pENG r) F.ENG_DISPATCH_PC idx) u (x.src = .twin) x.handle.isSome (x.prec.testBit 127)
          (entryVerdict x) 0
        pcnt e 0x09 ((s0.setCtx e c y).updFrame f (fun x => { x with stage := .running }))
          |> fun s => { s with eng := { s.eng with lastTime := s.eng.lastTime.erase (ctxIdx e c) } }
      else dropTurn f (count (cRegion r 42) s0)
    | _, _ => s

def execDispatch (r : Nat) (s : State) : Res := .next (dispatch r s)

/-- Dispatch the due event routine of the lowest-numbered trigger of a region (R195). DEDUCED (log entry 82). -/
def eventDispatch (r : Nat) (s : State) : State :=
  if !dispatching s r then s
  else match s.eng.due.entries.find? (fun (e : Nat × Nat × Nat) => e.1 / 8 = r), pickEngine s r with
    | some (i, n, t), some (e, c) =>
      let s0 := { s with eng := { s.eng with due := s.eng.due.erase i } }
      if s.rdB (pENG r) F.ENG_DISPATCH_VALID 12 then
        let u := [0, 0, BitVec.ofNat 64 (12 * 2 ^ 48 + min n 65535 * 2 ^ 16 + i % 8), BitVec.ofNat 64 (u3Of t)]
        pcnt e 0x0A (s0.setCtx e c
          (Ctx.start none (s.rd (pENG r) F.ENG_DISPATCH_PC 12) u false false false {} 0))
          |> fun s => { s with eng := { s.eng with lastTime := s.eng.lastTime.erase (ctxIdx e c) } }
      else count (cRegion r 42) s0
    | _, _ => s

def execEventRoutineDispatch (r : Nat) (s : State) : Res := .next (eventDispatch r s)

end Sys2Proof.Machine
end

