-- ==== Sys2Proof/Machine/Admit.lean ====
section
/-! DEFINITION. The meanings of the steps of the billet buffer and of admission: reference counts, free walks, sweeps, admission, queue entries,
hampers, policers and stream filters, sampling, and the arrival of a frame's tail. -/
namespace Sys2Proof.Machine

/-! ### The tail of a frame (R87 to R89, R237, R240, R295, R630) -/

/-- The lowest egress port on which a copy of a frame is being transmitted (R240). -/
def drainPort (s : State) (f : Nat) : Option Nat :=
  (List.range 48).find? (fun p => (match (s.port p).cur with | some t => t.copy.frame = f | none => false)
    || (match (s.port p).held with | some t => t.copy.frame = f | none => false))

/-- One billet for a handed-over cut-through cord: charged to its account, else to a drain reserve (R240). -/
def allocAfter (f : Nat) (x : Frame) (s0 : State) : Option Nat × State :=
  let r := x.region
  let a := accountOf x
  let s := chargeRound r s0
  if chargeOk s r a 1 then
    match alloc r .pc 0xFE a s with
    | (some b, s1) => (some b, charge r a 1 s1)
    | (none, s1) => (none, s1)
  else match drainPort s f with
    | none => (none, count (cRegion r 65) s)
    | some p =>
      if s.rd (pBUF r) (drainUseF p) (p / 4) < s.rd (pBUF r) (drainResF p) (p / 4) then
        match alloc r .pc 0xFE (0x70 + p) s with
        | (some b, s1) => (some b, s1.wr (pBUF r) (drainUseF p) (s1.rd (pBUF r) (drainUseF p) (p / 4) + 1) (p / 4))
        | (none, s1) => (none, s1)
      else (none, count (cRegion r 65) s)

/-- Store the rest of a handed-over frame (R237). -/
def storeRest (f : Nat) (s : State) : State :=
  match s.frames.find? f with
  | none => s
  | some x =>
    match x.head with
    | none => s
    | some b =>
      let h := s.headW b
      let have_ := h.billets - b2n h.edited
      let q := growCord (allocAfter f x) (dataBillets x.bytes.length - have_) (some b) have_ s
      let h1 := q.2.2.headW b
      if q.2.1 then q.2.2.setHead b { h1 with complete := true, bad := x.bad, length := x.bytes.length }
      else
        let n := 256 * (h1.billets - b2n h1.edited)
        (count (cPort x.port 32) (q.2.2.setHead b { h1 with complete := true, bad := true, length := min x.bytes.length n })).updFrame f
          (fun x => { x with bad := true, bytes := x.bytes.take n })

/-- The billets a cord's copies count in their queues, once its tail is stored (R256). -/
def settleBillets (f : Nat) (s : State) : State :=
  match (s.frames.find? f).bind (·.head) with
  | none => s
  | some b =>
    let n := (s.headW b).billets
    let fix := fun (l : List Copy) => l.map (fun c => if c.frame = f then { c with billets := n } else c)
    let qs := s.queues.entries.filterMap (fun (e : Nat × Queue) =>
      if e.2.front.any (fun c => c.frame = f) || e.2.back.any (fun c => c.frame = f) then some e.1 else none)
    qs.foldl (fun s q => s.updQueue q (fun x => { x with front := fix x.front, back := fix x.back })) s

/-- The further copy a failed deferred check makes of a frame already admitted, by INC (R630). -/
def lateIncs (f : Nat) (act : Option (Nat × Nat)) (s : State) : State :=
  match s.frames.find? f with
  | none => s
  | some x =>
    let l := lateCopy x act s
    l.1.foldl (fun s m =>
      let i := incCord f s
      if i.1 then
        let ch := checkAll x .green [] [m] i.2
        match ch.1 with
        | [] => decCord f ((s.pool (billetRegion (x.head.getD 0))).gen) ch.2.2
        | y :: _ => sendOn f x x.port x.stamp.s false y ch.2.2
      else mirrorRefused m i.2) l.2

/-- The checks left to the tail (R630): each that fails is counted; the state, and the action owed, the
first of several (actions are read at the tail). DEDUCED (log entry 41). DEDUCED (log entry 134). -/
def deferredChecks (x : Frame) (len : Nat) (s : State) : Bool × Option (Nat × Nat) × State :=
  x.deferred.foldl (fun (q : Bool × Option (Nat × Nat) × State) e =>
    if len < e.2 + 4 then
      let act := s.rd (pPRS x.region) F.PRS_MAL_ACT_ACT / 4 ^ e.1 % 4
      (q.1 || act != 2, (if q.2.1.isSome then q.2.1 else if act = 1 || act = 3 then some (act, e.1) else none), count (cRegion x.region e.1) q.2.2)
    else q) (false, none, s)

/-- The whole of a frame stands: its record, its cord, the buckets it took from, its copies' counts. -/
def completeFrame (f : Nat) (d : List Byte) (bad : Bool) (s : State) : State :=
  match s.frames.find? f with
  | none => s
  | some x =>
    let c := deferredChecks x d.length s
    let s1 := c.2.2.updFrame f (fun x => { x with bytes := d, complete := true, bad := x.bad || bad || c.1, deferred := [] })
    match x.stage with
    | .admitted =>
      let s2 := settleBillets f (meterFix x.metered d.length (storeRest f s1))
      let s3 := lateIncs f c.2.1 (if c.1 || bad || x.bad then markBad f s2 else s2)
      (s3.queues.entries.filterMap (fun (e : Nat × Queue) => if e.2.front.any (fun k => k.frame = f) then some e.1 else none)).foldl
        (fun s q => settle q s) s3
    | .retired => storeFrame f (s1.updFrame f (fun x => { x with lateAct := c.2.1 }))
    | _ => s1.updFrame f (fun x => { x with lateAct := c.2.1 })

/-- A frame's bytes as received, its R-TAG among them. -/
def asReceived (x : Frame) (rest : List Byte) : List Byte :=
  let d := x.bytes ++ rest
  match x.rtag with
  | some (o, t) => d.take o ++ t ++ d.drop o
  | none => d

/-- The bytes of a frame for every later step. -/
def untagged (x : Frame) (d : List Byte) : List Byte :=
  match x.rtag with
  | some (o, _) => d.take o ++ d.drop (o + 6)
  | none => d

/-- The rest of the frame in reception on a port comes, and of its twin copy (R75, R87, R88, R95). -/
def tailArrival (p : Nat) (rest : List Byte) (frags : Nat) (broken : Bool) (s : State) : State :=
  match (s.port p).rx with
  | none => s
  | some x =>
    let d := x.bytes ++ rest
    let inFrags := x.frags || frags != 0
    let q := takeFragments p frags broken (s.updPort p (fun y => { y with rx := none }))
    match x.kind with
    | .lost => q.2
    | .control => if q.1 && inFrags then count (cPort p 10) q.2 else q.2
    | .hold => if q.1 then wholeFrame p d inFrags x.noRoom x.stamp q.2 else q.2
    | .walked =>
      let t := if q.1 then checkTail p d (if inFrags then count (cPort p 10) q.2 else q.2) else (true, true, d, q.2)
      (receiving s p).foldl (fun s g => match s.frames.find? g with
        | some y => completeFrame g (untagged y t.2.2.1) t.2.1 s
        | none => s) t.2.2.2

def execTailArrival (p : Nat) (rest : List Byte) (frags : Nat) (broken : Bool) (s : State) : Res :=
  .next (tailArrival p rest frags broken s)

/-! ### Reference counts (R244) -/

/-- What an ECC check meets as a head is read (R249): 0 nothing; 1 a corrected error, 2 an uncorrectable one, in the link entry; 3 and 4 the
same in the head word. The billet of an uncorrectable one is retired; a lost head word marks the cord's copies bad. -/
def readHead (r b err : Nat) (s : State) : State :=
  let i := billetLocal b
  match err with
  | 1 => linkErr r 0 i false s
  | 2 => retireBillet b (linkErr r 0 i true s)
  | 3 => linkErr r 1 i false s
  | 4 =>
    let s1 := linkErr r 1 i true s
    let s2 := retireBillet b (s1.setHead b { s1.headW b with dead := true })
    match s2.frames.entries.find? (fun (e : Nat × Frame) => e.2.head = some b) with
    | some e => markBad e.1 s2
    | none => s2
  | _ => s

/-- INC or DEC of the cord at a pointer: the checks of R245 on the head billet only, then `act` on its frame. -/
def onHead (r ptr err : Nat) (act : Nat → State → State) (s : State) : State :=
  let b := ptr / 256
  if b / 65536 != r || ptr % 256 != 0 then walkStop r rRANGE 0xFE 0xFF (bitsOf ptr 23 8) (bitsOf ptr 23 8) s
  else
    let i := billetLocal b
    let s1 := readHead r b err s
    if err = 2 then walkStop r rPARITY 0xFE (s1.link b).owner i i s1
    else match s1.frames.entries.find? (fun (e : Nat × Frame) => e.2.head = some b) with
      | some e => act e.1 s1
      | none => (headRefused b s1).getD s1

def execRefcntInc (r ptr err : Nat) (s : State) : Res :=
  .next (onHead r ptr err (fun f s => (incCord f s).2) s)

def execRefcntDec (r ptr err : Nat) (s : State) : Res :=
  .next (onHead r ptr err (fun f s => decCord f (s.pool r).gen s) s)

/-! ### Free walks and sweeps (R245 to R250) -/

/-- A free walk with a party's tag; `errs` lists the billets whose link entry meets an error, true for an uncorrectable one. -/
def walkFrom (r ptr tag : Nat) (errs : List (Nat × Bool)) (s : State) : Nat × Nat × State :=
  let q := freeCord r ptr tag errs s
  (q.1, q.2.1, cordLost q.2.2)

def execCordFreeWalk (r ptr tag : Nat) (errs : List (Nat × Bool)) (s : State) : Res :=
  .next (if stateIn s (pBUF r) [.ready, .run] then (walkFrom r ptr tag errs s).2.2 else s)

/-- The 64 bits of a link entry and of a head word as they are stored (R227, R228); their ECC is the silicon's own. -/
def linkBits (l : Link) : Nat :=
  let d := b2n l.alloc * 2 ^ 55 + b2n l.head * 2 ^ 54 + b2n l.last * 2 ^ 53 + l.owner * 2 ^ 45 + l.account * 2 ^ 37 + l.next
  (Config.linkEcc d).toNat * 2 ^ 56 + d
def headBits (h : HeadWord) : Nat :=
  let d := h.refcnt * 2 ^ 48 + b2n h.complete * 2 ^ 47 + b2n h.bad * 2 ^ 46 + b2n h.edited * 2 ^ 45 + h.billets * 2 ^ 39 + h.length * 2 ^ 25 + h.tail
  (Config.headEcc d).toNat * 2 ^ 56 + d

/-- LINK_READ (R250): the entry of the billet at BUF_CMD_PTR, and its head word when it is a head. -/
def linkRead (r err : Nat) (s : State) : State × Nat :=
  let ptr := s.rd (pBUF r) F.BUF_CMD_PTR_PTR
  let b := ptr / 256
  if b / 65536 != r || ptr % 256 != 0 then (s, rRANGE)
  else
    let s1 := readHead r b err s
    if err = 2 || err = 4 then (s1, rPARITY)
    else
      let l := s1.link b
      let v := linkBits l
      let w := if l.head then headBits (s1.headW b) else 0
      let put := fun (i n : Nat) (s : State) => s.wr (pBUF r) F.BUF_LINK_HEAD_DATA_DATA n i
      (put 3 (w / 2 ^ 32) (put 2 w (put 1 (v / 2 ^ 32) (put 0 v s1))), rDONE)

def execLinkRead (pg ag arg err : Nat) (s : State) : Res :=
  .next (command pg ag 0x42 (isBlk pg .buf && arg = 0) (stateIn s pg [.ready, .run, .fenced]) (linkRead (pageRegion pg) err) s)

/-- Fill BUF_CMD_OUT. -/
def bufOut (pg code n : Nat) (s : State) : State := (s.wr pg F.BUF_CMD_OUT_CODE code).wr pg F.BUF_CMD_OUT_FREED n

def execCordFree (pg ag arg : Nat) (errs : List (Nat × Bool)) (s : State) : Res :=
  .next (command pg ag 0x43 (isBlk pg .buf && arg = 0) (s.inState pg .run)
    (fun s =>
      if 8 ≤ ag then (bufOut pg rOWNER 0 s, rOWNER)
      else
        let q := walkFrom (pageRegion pg) (s.rd pg F.BUF_CMD_PTR_PTR) (0x90 + ag) errs s
        (bufOut pg q.1 q.2.1 q.2.2, q.1)) s)

/-- Free every allocated billet of a region with an owner tag (R247): how many. -/
def sweepOwner (r tag : Nat) (s : State) : Nat × State :=
  let l := s.buf.link.entries.filterMap (fun (e : Nat × Link) =>
    if billetRegion e.1 = r && e.2.alloc && e.2.owner = tag then some e.1 else none)
  (l.length, exchange (cordLost (l.foldl (fun s b => freeBillet b s) s)))

/-- R247, R250: the sweep is made as the command completes; SUBSTATE is 1 until then. -/
def execOwnerSweep (pg ag arg : Nat) (s : State) : Res :=
  .next (
    let tag := s.rd pg F.BUF_CMD_TAG_TAG
    let range := isBlk pg .buf && arg = 0 && tag < 0xFE
    let state := stateIn s pg [.ready, .run, .fenced]
    let t := commandLong pg ag 0x44 arg range state [tag] (fun s => s.updPage pg (fun h => { h with substate := 1 })) s
    if isBlk pg .buf && cmdCode s pg ag range state = rRANGE then t.wr pg F.BUF_CMD_OUT_CODE rRANGE else t)

/-- The sweep with its outcome. -/
def ownerSwept (pg tag : Nat) (s : State) : State :=
  let q := sweepOwner (pageRegion pg) tag s
  (bufOut pg rDONE q.1 q.2).updPage pg (fun h => { h with substate := 0 })

/-! ### Admission and queues -/

def execAdmission (f : Nat) (s : State) : Res := .next (admission f s)

/-- Whether a queue holds any copy (R255, R342). -/
def queueHolds (s : State) (q : Nat) : Bool :=
  let x := s.queue q
  !(x.front.isEmpty && x.back.isEmpty && x.peat.isEmpty)

/-- Whether the shaper a queue entry would name is enabled and attached to the queue's port (R289). -/
def shaperFits (s : State) (l : List NewVal) (q : Nat) : Bool :=
  let w := wQUEUE q
  let p := nv s w l F.Q_CFG_PORT
  nv s w l F.Q_SCHED_SHAPED = 0
    || (let x := s.shaper (2048 * portRegion p + nv s w l F.Q_SCHED_SHAPER)
        x.en && x.cell = portCell p)

/-- The checks of a queue entry's values: the port exists, the policy is defined, and the queue may have the shaper it names. -/
def queueRange (s : State) (q word : Nat) (l : List NewVal) : Bool :=
  let w := wQUEUE q
  nv s w l F.Q_CFG_PORT < 48 && nv s w l F.Q_CFG_DOWN_POLICY != 3 && ((word != 0 && word != 6) || shaperFits s l q)

/-- PORT and CLASS change only while the queue is disabled, stays so, and holds nothing. -/
def queueFree (s : State) (q : Nat) (l : List NewVal) : Bool :=
  let w := wQUEUE q
  !(changes s w l F.Q_CFG_PORT || changes s w l F.Q_CFG_CLASS)
    || (!s.rdB w F.Q_CFG_EN && nv s w l F.Q_CFG_EN = 0 && !queueHolds s q)

/-- The window number a queue without a listed entry shows: that of region 0, whose block owns it by the reset PORT (R302). -/
def unlistedSeq (s : State) (q : Nat) : Option Nat := if (knownQueues s).contains q then none else some (s.qscWin.get (0, 0) 0).2

/-- A queue's entry as its words 13 and 15 stand. -/
def listQueue (q : Nat) (s : State) : State :=
  match unlistedSeq s q with
  | some n => (s.wr (wQUEUE q) F.Q_W13_WIN_SEQ n).wr (wQUEUE q) F.Q_W15_WIN_SEQ n
  | none => s

/-- A write to a queue entry (R255, R277, R289). -/
def queueWrite (q word ag v : Nat) (s0 : State) : State :=
  let s := listQueue q s0
  settle q (refreshOf q (syncQueue q (entryWrite (pQSC (s.qRegion q)) (wQUEUE q) .queue (4 * word) (0xC00000 + 64 * q + 4 * word) ag v
    (queueRange s q word) (queueFree s q) noEff (refreshOf q s))))

def execQueueEntryWrite (q word ag v : Nat) (s : State) : Res := .next (queueWrite q word ag v s)

def execHoldExpiry (q : Nat) (s : State) : Res := .next (onQueue q (holdExpire q) s)


/-! ### Hampers and the capture area -/

/-- The staged members. -/
def stagedMembers (s : State) (pg : Nat) : List Nat :=
  (List.range 32).flatMap (fun k => [s.rd pg F.RPL_HMP_MEM_QUEUE_LO k, s.rd pg F.RPL_HMP_MEM_QUEUE_HI k])

def execHamperWrite (pg ag arg : Nat) (s : State) : Res :=
  .next (command pg ag 0x42 (isBlk pg .rpl && arg < 16384 && s.rd pg F.RPL_HMP_HDR_COUNT ≤ 64) (stateIn s pg [.ready, .run])
    (fun s =>
      let x : Hamper := { knockout := s.rdB pg F.RPL_HMP_HDR_KNOCKOUT, count := s.rd pg F.RPL_HMP_HDR_COUNT, members := stagedMembers s pg }
      ({ s with hampers := s.hampers.put {} arg x }, rDONE)) s)

/-- HAMPER_READ: a hamper into the staging registers. -/
def hamperRead (pg h : Nat) (s : State) : State :=
  let x := s.hampers.get {} h
  let s1 := (s.wr pg F.RPL_HMP_HDR_KNOCKOUT (b2n x.knockout)).wr pg F.RPL_HMP_HDR_COUNT x.count
  (List.range 32).foldl (fun s k =>
    (s.wr pg F.RPL_HMP_MEM_QUEUE_LO ((x.members[2 * k]?).getD 0) k).wr pg F.RPL_HMP_MEM_QUEUE_HI ((x.members[2 * k + 1]?).getD 0) k) s1

def execHamperRead (pg ag arg : Nat) (s : State) : Res :=
  .next (command pg ag 0x43 (isBlk pg .rpl && arg < 16384) (stateIn s pg [.ready, .run]) (fun s => (hamperRead pg arg s, rDONE)) s)

def execCapReset (pg ag arg : Nat) (s : State) : Res :=
  .next (command pg ag 0x44 (pg = pRPL 0 && arg = 0) (stateIn s pg [.ready, .run])
    (fun s => ((s.wr pg F.RPL_CAP_WPTR_WPTR 0).wr pg F.RPL_CAP_CTRL_FULL 0, rDONE)) s)

/-! ### Depth and delay sampling (R302) -/

/-- One sample of a queue: its depth in billets and its head's residence in 100 ns. -/
def sampleQueue (first : Bool) (q : Nat) (s : State) : State :=
  let x := s.queue q
  let d := s.rd (wQUEUE q) F.Q_W8_BILLETS
  let t := match x.front with
    | c :: _ => (s.sNow - c.at_) / (100 * nsU)
    | [] => 0
  if first then s.updQueue q (fun x => { x with dsum := d, dmin := d, dmax := d, lsum := t, lmin := t, lmax := t })
  else s.updQueue q (fun x => { x with
    dsum := x.dsum + d, dmin := min x.dmin d, dmax := max x.dmax d, lsum := x.lsum + t, lmin := min x.lmin t, lmax := max x.lmax t })

/-- Close the window of a queue. -/
def closeWindow (seq q : Nat) (s : State) : State :=
  let x := s.queue q
  let w := wQUEUE q
  let top := fun (n : Nat) => min 65535 n
  let s1 := (s.wr w F.Q_W12_DMAX (top x.dmax)).wr w F.Q_W12_DMIN (top x.dmin)
  let s2 := (s1.wr w F.Q_W13_DMEAN (top (x.dsum / 1000))).wr w F.Q_W13_WIN_SEQ seq
  let s3 := (s2.wr w F.Q_W14_LMAX (top x.lmax)).wr w F.Q_W14_LMIN (top x.lmin)
  let s4 := (s3.wr w F.Q_W15_LMEAN (top (x.lsum / 1000))).wr w F.Q_W15_WIN_SEQ seq
  s4.updQueue q (fun x => { x with dsum := 0, dmin := 0, dmax := 0, lsum := 0, lmin := 0, lmax := 0 })

/-- A QSC block samples its queues; 1,000 samples close a window. DEDUCED (log entry 66). -/
def sampleRegion (r : Nat) (s : State) : State :=
  if !s.rdB (pQSC r) F.QSC_SAMPLE_CFG_SAMPLE_EN || !stateIn s (pQSC r) [.ready, .run] then s
  else
    let w := s.qscWin.get (0, 0) r
    let qs := (knownQueues s).filter (fun q => s.qRegion q = r)
    let s1 := qs.foldl (fun s q => sampleQueue (w.1 = 0) q s) s
    if w.1 + 1 = 1000 then
      let n := (w.2 + 1) % 256
      qs.foldl (fun s q => closeWindow n q s) { s1 with qscWin := s1.qscWin.put (0, 0) r (0, n) }
    else { s1 with qscWin := s1.qscWin.put (0, 0) r (w.1 + 1, w.2) }

def execQueueSample (r : Nat) (s : State) : Res := .next (sampleRegion r s)

/-! ### Policers and stream filters (R297, R304) -/

/-- The staged policer, its buckets full. -/
def stagedPolicer (s : State) (pg : Nat) : Policer :=
  { mode := s.rd pg F.QSC_POL_MODE_MODE, cir := s.rd pg F.QSC_POL_CIR_CIR, pir := s.rd pg F.QSC_POL_PIR_PIR
    cbs := s.rd pg F.QSC_POL_CBS_CBS, pbs := s.rd pg F.QSC_POL_PBS_PBS
    tc := s.rd pg F.QSC_POL_CBS_CBS * 1024, tp := s.rd pg F.QSC_POL_PBS_PBS * 1024, at_ := s.now }

def execPolWrite (pg ag arg : Nat) (s : State) : Res :=
  .next (
    let n := s.rd pg F.QSC_POL_IDX_IDX
    let x := stagedPolicer s pg
    command pg ag 0x43 (isBlk pg .qsc && arg = 0 && n / 4096 = pageRegion pg && x.mode < 3 && (x.mode != 2 || (x.cir ≤ x.pir && x.cbs ≤ x.pbs)))
      (stateIn s pg [.ready, .run, .fenced]) (fun s => (s.setPolicer n x, rDONE)) s)

/-- POL_READ: a policer, with its present tokens, into the staging registers. -/
def polRead (pg n : Nat) (s : State) : State :=
  let x := (s.policer n).fill s.now
  let s1 := ((s.wr pg F.QSC_POL_MODE_MODE x.mode).wr pg F.QSC_POL_CIR_CIR x.cir).wr pg F.QSC_POL_PIR_PIR x.pir
  let s2 := (s1.wr pg F.QSC_POL_CBS_CBS x.cbs).wr pg F.QSC_POL_PBS_PBS x.pbs
  (s2.wr pg F.QSC_POL_TOK_C_TC (x.tc / 1024)).wr pg F.QSC_POL_TOK_P_TP (x.tp / 1024)

def execPolRead (pg ag arg : Nat) (s : State) : Res :=
  .next (
    let n := s.rd pg F.QSC_POL_IDX_IDX
    command pg ag 0x44 (isBlk pg .qsc && arg = 0 && n / 4096 = pageRegion pg) (stateIn s pg [.ready, .run, .fenced])
      (fun s => (polRead pg n s, rDONE)) s)

/-- A stream filter command on a filter of the page's region (R301). -/
def filterCmd (pg ag op arg : Nat) (body : Nat → State → State) (s : State) : State :=
  let h := s.rd pg F.QSC_SF_IDX_IDX
  command pg ag op (isBlk pg .qsc && arg = 0 && h / 1024 = pageRegion pg) (stateIn s pg [.ready, .run, .fenced])
    (fun s => (body h s, rDONE)) s

def execSfWrite (pg ag arg : Nat) (s : State) : Res :=
  .next (filterCmd pg ag 0x45 arg (fun h s => s.setFilter h { s.filter h with
    en := s.rdB pg F.QSC_SF_CFG_EN, blockEn := s.rdB pg F.QSC_SF_CFG_BLOCK_EN, meterEn := s.rdB pg F.QSC_SF_CFG_METER_EN
    meter := s.rd pg F.QSC_SF_CFG_METER, maxSdu := s.rd pg F.QSC_SF_SDU_MAX_SDU }) s)

def execSfRead (pg ag arg : Nat) (s : State) : Res :=
  .next (filterCmd pg ag 0x46 arg (fun h s =>
    let x := s.filter h
    let s1 := ((s.wr pg F.QSC_SF_CFG_EN (b2n x.en)).wr pg F.QSC_SF_CFG_BLOCK_EN (b2n x.blockEn)).wr pg F.QSC_SF_CFG_BLOCKED (b2n x.blocked)
    ((s1.wr pg F.QSC_SF_CFG_METER_EN (b2n x.meterEn)).wr pg F.QSC_SF_CFG_METER x.meter).wr pg F.QSC_SF_SDU_MAX_SDU x.maxSdu) s)

def execSfUnblock (pg ag arg : Nat) (s : State) : Res :=
  .next (filterCmd pg ag 0x47 arg (fun h s => s.setFilter h { s.filter h with blocked := false }) s)

end Sys2Proof.Machine
end

