-- ==== Sys2Proof/Machine/IntOps.lean ====
section
/-! DEFINITION. The interrupt controller's operations (R525 to R537): targets and their owners, what is deliverable, the priority stacks, and the
stack fault. -/
namespace Sys2Proof.Machine

/-! ### Targets (R518, R525) -/

/-- Whether a host function is present. -/
def fnPresent (s : State) (f : Nat) : Bool := s.hif.present.testBit f

/-- The function whose partition contains a vector. -/
def vecOwner (s : State) (v : Nat) : Option Nat :=
  (List.range 8).find? (fun f => fnPresent s f && s.rd pHIF F.HIF_MSIX_VEC_BASE f ≤ v
    && v < s.rd pHIF F.HIF_MSIX_VEC_BASE f + s.rd pHIF F.HIF_MSIX_VEC_COUNT f)

/-- Whether a target is masked (R528). -/
def targetMasked (s : State) (t : Nat) : Bool :=
  if t < 256 then
    match vecOwner s t with
    | some f => (s.hif.msix.get {} t).mask || s.hif.fnMask.get false f || !s.hif.msixEn.get false f
    | none => true
  else (s.rd pINT F.INT_PIN_CFG_PIN_MASK).testBit (t - 256)

/-- Whether an agent may claim and complete at a target (R530, R533). -/
def mayClaim (s : State) (t ag : Nat) : Bool := ag < 8 && (256 ≤ t || vecOwner s t = some ag)

/-! ### Stacks (R526) -/

/-- A target's stack, from the top, and its running priority plus one. -/
def State.stack (s : State) (t : Nat) : List StkEntry := s.int.prioStacks.get [] t
def running (s : State) (t : Nat) : Nat := match s.stack t with | e :: _ => e.prio + 1 | [] => 0
def setStack (t : Nat) (l : List StkEntry) (s : State) : State := { s with int := { s.int with prioStacks := s.int.prioStacks.put [] t l } }

/-- A target's stack is emptied: its sources become inactive and keep PENDING and COUNT (R537). -/
def emptyStack (t : Nat) (s : State) : State :=
  setStack t [] ((s.stack t).foldl (fun s e => s.updSrc e.source (fun x => { x with active := false, claimed := false, retracted := false })) s)

/-- Every stack is emptied. -/
def emptyStacks (s : State) : State := s.int.prioStacks.keys.foldl (fun s t => emptyStack t s) s

/-! ### Delivery (R528, R529, R534) -/

/-- Whether a group is held off. -/
def heldOff (s : State) (g : Nat) : Bool := match s.int.holdEnd.find? g with | some t => s.now < t | none => false

/-- Whether source `n` is deliverable to its target `t`, but for the target's mask. -/
def wouldDeliver (s : State) (t n : Nat) : Bool :=
  let x := s.src n
  let w := wISRC n
  s.rdB w F.SRC_EN && s.rd w F.SRC_TARGET = t && !s.rdB w F.SRC_MASK && x.pending && !x.active
    && running s t ≤ s.rd w F.SRC_PRIO && !heldOff s (n / 32) && !s.rdB pINT F.INT_GLOBAL_HOLD_HOLD && s.inState pINT .run

/-- The bit of a vector in the pending-bit array: it has a deliverable source while it is masked, or is owed the stack fault. -/
def pendingBit (s : State) (v : Nat) : Bool :=
  (targetMasked s v && s.int.src.keys.any (wouldDeliver s v))
    || (s.int.faultOwed && s.rd pINT F.INT_FAULT_CFG_FAULT_TARGET = v)

/-- The better of the best source found so far and source `n`: the higher priority, on a tie the lower number. -/
def betterSource (s : State) (b : Option Nat) (n : Nat) : Option Nat :=
  match b with
  | some m =>
    let x := s.rd (wISRC m) F.SRC_PRIO
    let y := s.rd (wISRC n) F.SRC_PRIO
    if x < y || (x = y && n < m) then some n else b
  | none => some n

/-- The source delivered to a target next: the highest priority, then the lowest number. -/
def nextSource (s : State) (t : Nat) : Option Nat :=
  if targetMasked s t then none
  else (s.int.src.keys.filter (wouldDeliver s t)).foldl (betterSource s) none

/-- The commit point of a delivery. -/
def deliver (t n : Nat) (s : State) : State :=
  let g := n / 32
  let h := s.rd pINT F.INT_HOLDOFF_HOLDOFF g
  let s1 := s.updSrc n (fun x => { x with pending := false, active := true })
  let s2 := setStack t (⟨n, s.rd (wISRC n) F.SRC_PRIO⟩ :: s1.stack t) s1
  let s3 := if h = 0 then s2 else { s2 with int := { s2.int with holdEnd := s2.int.holdEnd.insert g (s2.now + h * 250 * nsU) } }
  if t < 256 then emit (.msix t) s3 else s3

/-- Whether the pin of a target is driven low (R529, R535). -/
def pinLow (s : State) (t : Nat) : Bool :=
  (s.stack t).any (fun e => !(s.src e.source).claimed)
    || (s.int.faultPin = some t && !s.rdB pINT F.INT_FAULT_CFG_FAULT_MASK && !targetMasked s t)

/-! ### The stack fault (R535) -/

/-- Bring what the stack fault still owes up to STACK_FAULT and the masks. DEDUCED (log entry 98). -/
def faultSync (s : State) : State :=
  if !s.rdB pINT F.INT_FAULT_STAT_STACK_FAULT then { s with int := { s.int with faultOwed := false, faultPin := none } }
  else if s.int.faultOwed && !s.rdB pINT F.INT_FAULT_CFG_FAULT_MASK && !targetMasked s (s.rd pINT F.INT_FAULT_CFG_FAULT_TARGET) then
    emit (.msix (s.rd pINT F.INT_FAULT_CFG_FAULT_TARGET)) { s with int := { s.int with faultOwed := false } }
  else s

/-- A completion was refused: it is recorded, and INT_STACK_FAULT is delivered once. -/
def stackFault (t n : Nat) (s : State) : State :=
  let first := !s.rdB pINT F.INT_FAULT_STAT_STACK_FAULT
  let ft := s.rd pINT F.INT_FAULT_CFG_FAULT_TARGET
  let s1 := (((s.addSat pINT F.INT_FAULT_STAT_FAULT_CNT).wr pINT F.INT_FAULT_STAT_SOURCE n).wr pINT F.INT_FAULT_STAT_TARGET t).setF pINT F.INT_FAULT_STAT_STACK_FAULT
  if !first then s1
  else if ft < 256 then faultSync { s1 with int := { s1.int with faultOwed := true } }
  else { s1 with int := { s1.int with faultPin := some ft } }

end Sys2Proof.Machine
end

