-- ==== Sys2Proof/Machine/Sched.lean ====
section
/-! DEFINITION. The meanings of the scheduling and gate steps: arbitration rounds, starvation, the start and the end of a transmission,
shapers, and the gate lists of a port. -/
namespace Sys2Proof.Machine

/-! ### The arbiters (R285 to R287)

Arbiters are numbered: 0 to 47 the ports; 64 + L the crossbar links, L 0 to 3 the output links of the regions and 4 to 7 the input links;
80 + r the pool managers; 96 + 2r + d the Peat links and 112 + 2r + d the host and mate links of region r, d 0 away from the region and 1
towards it; 120 the mate interface's transmitter; 121 the Peat controller. -/

def State.arb (s : State) (a : Nat) : Arb := s.arbs.get {} a
def State.setArb (s : State) (a : Nat) (x : Arb) : State := { s with arbs := s.arbs.put {} a x }

/-! #### The port arbiter -/

/-- Whether a request of a port's decision still stands: the remainder is still held, or the queue still requests. -/
def standing (s : State) (p : Nat) (w : Want) : Bool :=
  portGrants s p &&
    (if w.queue = 65536 then (match (s.port p).held with | some t => t.cls = w.req | none => false)
     else s.qPort w.queue = p && s.qClass w.queue = w.req && !forwarded s w.queue && requests s w.queue)

/-- The order of the decision of a round: the class groups with a candidate, each with its queues in its own order (R281 to R285). -/
def portDecision (s : State) (p : Nat) : List Want :=
  ((s.port p).arb.order (portWants s p)).flatMap (fun (w : Want) =>
    if w.queue = 65536 then [w]
    else
      let l := (groupRequests s p w.req).map (fun q => (⟨s.rd (wQUEUE q) F.Q_SCHED_ARB_CLASS, q, q⟩ : Want))
      ((((s.port p).groups[w.req]?).getD {}).order l).map (fun (v : Want) => ⟨w.cls, w.req, v.queue⟩))

/-- The grant delivered: the first in the decision's order that still requests; a class group whose candidate does not pass the start rule
is passed over. -/
def delivered (s : State) (p : Nat) : List Nat → List Want → Option Want
  | _, [] => none
  | bl, w :: t =>
    if bl.contains w.req || !standing s p w then delivered s p bl t
    else if startFits s p w.req w.queue then some w
    else delivered s p (w.req :: bl) t

/-- A round of a port's arbiter (R286, R288, R323). The grant stands until the transmission starts or the round ends. -/
def portRound (p : Nat) (s : State) : State :=
  let g := delivered s p [] (s.port p).arb.decided
  let busy := (s.port p).cur.isSome
  let express := busy && (match g with | some w => isExpress s p w.req | none => false)
  let s1 := if express then expressCut p s else s
  let s2 := countWaits p (if busy && !express then none else g.bind (grantee s p)) s1
  s2.updPort p (fun x => { x with arb := { x.arb with granted := g, decided := portDecision s p } })

/-! #### The other arbiters -/

/-- The class of requester kind `k` of an arbiter: of the Peat controller 0 drain, 1 spill and turf requests, 2 window, 3 capture, 4 patrol; of the crossbar links 0 transmit reads, 1 twin copies, 2 TC7 reads; of the Peat links
0 spill writes, 1 drain reads; of the host and mate links 0 window, 1 host, 2 mate data, 3 mate state. -/
def linkClass (s : State) (a k : Nat) : Nat :=
  if a = 121 then
    s.rd pPEAT (match k with | 0 => F.PEAT_ARB_DRAIN | 1 => F.PEAT_ARB_SPILL | 2 => F.PEAT_ARB_HOST | 3 => F.PEAT_ARB_CAPTURE | _ => F.PEAT_ARB_PATROL)
  else if a < 80 then
    (if k = 0 then s.rd pXBAR F.XBAR_ARB_READ else if k = 1 then s.rd pXBAR F.XBAR_ARB_TWIN else 3)
  else if a < 112 then
    (if k = 0 then s.rd pSFAB F.SFAB_ARB_PEAT_SPILL else s.rd pSFAB F.SFAB_ARB_PEAT_DRAIN)
  else
    (if k = 0 then s.rd pSFAB F.SFAB_ARB_HM_WINDOW else if k = 1 then s.rd pSFAB F.SFAB_ARB_HM_HOST
     else if k = 2 then s.rd pSFAB F.SFAB_ARB_HM_MATE_DATA else s.rd pSFAB F.SFAB_ARB_HM_MATE_STATE)

/-- The kind a starvation count is kept under: reads are counted together (R288). -/
def starveKind (a k : Nat) : Nat := if a < 80 && k = 2 then 0 else k

/-- Whether the state holds what requester `r` = 8n + k of a link asks for (R42, R44): at a crossbar link a port n's transmission of a cord
of the link's region, or by its ports, or a twin copy between the link's region and region n; at a Peat link queue n's copies to spill or records to
drain. DEDUCED (log entry 143). -/
def linkStands (s : State) (a r : Nat) : Bool :=
  let n := r / 8
  let k := r % 8
  let at_ := (a - 64) % 4
  if a < 80 then
    if k = 1 then s.frames.entries.any (fun (e : Nat × Frame) => e.2.stage = .crossing
      && (if a < 68 then e.2.region = at_ && portRegion e.2.port = n else portRegion e.2.port = at_ && e.2.region = n))
    else n < 48 && (match (s.port n).cur with
      | some t => decide ((t.cls = 7) = (k = 2)) && (if a < 68 then portRegion n = at_
          else (s.frames.find? t.copy.frame).any (fun x => x.region = at_))
      | none => false)
  else if a < 112 then
    s.qRegion n = (a - 96) / 2 && (if k = 0 then (s.queue n).spill && !(s.queue n).back.isEmpty else !(s.queue n).peat.isEmpty)
  else true

/-- The requests of a link's round; requester `n` of kind `k` is given as 8n + k. -/
def linkWants (s : State) (a : Nat) (reqs : List Nat) : List Want :=
  (reqs.eraseDups.filter (linkStands s a)).map (fun r => ⟨linkClass s a (r % 8), r, r⟩)

/-- A round of a link's arbiter: one billet moves; a fenced block grants nothing (R308). -/
def linkRound (a : Nat) (reqs : List Nat) (s : State) : State :=
  if !stateIn s (if a < 80 then pXBAR else if a = 121 then pPEAT else pSFAB) [.ready, .run] then s
  else
    let x := s.arb a
    let w := linkWants s a reqs
    let g := x.decided.find? (fun d => w.any (fun v => v.queue = d.queue))
    let x1 := match g with
      | some d => x.moved d
      | none => x
    let kinds := (w.map (fun v => starveKind a (v.queue % 8))).eraseDups
    let won := g.map (fun d => starveKind a (d.queue % 8))
    let waits := kinds.foldl (fun (m : SMap Nat) k =>
      m.put 0 k (if won = some k then 0 else satAdd 65535 (x.waits.get 0 k) 1)) ⟨[]⟩
    s.setArb a { x1 with granted := g, waits := waits, decided := x1.order w }

/-- The class of an owner tag's requester kind at a pool manager (R236). -/
def poolClass (s : State) (r tag : Nat) : Nat :=
  match tagClass tag with
  | some .pc => s.rd (pBUF r) F.BUF_ARB_PC
  | some .eng => s.rd (pBUF r) F.BUF_ARB_ENG
  | some .refill => s.rd (pBUF r) F.BUF_ARB_REFILL
  | some .hm => s.rd (pBUF r) F.BUF_ARB_HM
  | none => 0

/-- One allocation decided for a party: the billet it gets is its own cord of one. -/
def poolGrant (r tag : Nat) (s : State) : State :=
  match tagClass tag with
  | none => s
  | some c =>
    match alloc r c tag (if tag = 0x80 then 0xA0 else 0xFF) s with
    | (some b, s1) => (s1.setLink b { s1.link b with head := true, last := true }).setHead b { billets := 1, tail := billetLocal b }
    | (none, s1) => s1

/-- A round of a pool manager (R234, R236, R239): the requests decided for it are decided one after another, then the four exchange their
shared use. `reqs` are the owner tags whose parties ask for a billet, `err` what the free-ring entry read next meets (R249). DEDUCED (log entry 55). -/
def poolRound (a : Nat) (reqs : List Nat) (err : Nat) (s0 : State) : State :=
  let r := a - 80
  let s := if stateIn s0 (pBUF r) [.ready, .run] then ringError r err s0 else s0
  let x := s.arb a
  let run := stateIn s (pBUF r) [.ready, .run]
  let now := if run then x.decided.filter (fun d => reqs.contains d.queue) else []
  let x1 := now.foldl (fun (y : Arb) d => y.moved d) x
  let s1 := now.foldl (fun s d => poolGrant r d.queue s) s
  let left := reqs.filter (fun t => !now.any (fun d => d.queue = t))
  let next := x1.order (left.map (fun t => (⟨poolClass s1 r t, t, t⟩ : Want)))
  exchange (s1.setArb a { x1 with granted := now.head?, decided := next })

/-- The valid LOCAL_Q queues that request the mate link, with the class of their data frames (R449, R450). DEDUCED (log entry 85). -/
def mateWants (s : State) : List Want :=
  (((List.range 256).filterMap (fun k =>
      if s.rdB pMATE F.MATE_FWD_0_VALID k then some (s.rd pMATE F.MATE_FWD_0_LOCAL_Q k) else none)).filter (fun q => forwarded s q && requests s q)).map
    (fun q => ⟨if s.qClass q = 7 then 2 else if 4 ≤ s.qClass q then 1 else 0, q, q⟩)

/-- The data frame on the mate link's transmitter ends: it has left, addressed to PEER_Q (R447, R450). -/
def mateEnd (s : State) : State :=
  match s.mate.cur with
  | none => s
  | some (q, c, d) =>
    let peer := match fwdEntry s q with
      | some k => s.rd pMATE F.MATE_FWD_1_PEER_Q k
      | none => 0
    let s1 := mateSend 1 (s.qClass q) peer d { s with mate := { s.mate with cur := none } }
    releaseCopy c (chargeShaper q (d.length + 24) s1)

/-- The residence of a copy that starts from a queue is counted (R303). -/
def countDelay (q : Nat) (c : Copy) (s : State) : State :=
  count (cHist (s.qPort q) (s.qClass q) (delayBin (s.rd (pQSC (s.qRegion q)) F.QSC_SAMPLE_CFG_HIST_SHIFT) (s.sNow - c.at_))) s

/-- The head copy of a queue starts on the mate link, store-and-forward; one that a data error makes bad as it is read is dropped there (R89, R230).
`err` is what the read meets. DEDUCED (log entry 23). -/
def mateStart (q err : Nat) (s0 : State) : State :=
  match (s0.queue q).front with
  | [] => s0
  | c :: _ =>
    let s := readData c.frame err s0
    if readBad err then releaseCopy c (countDrop q 0 (onQueue q (popFront q) s))
    else
    let d := wireBytes s (s.qPort q) (some q) c
    let s1 := countDelay q c (egressMirror q c (popFront q (refreshOf q s)))
    let s2 := match s1.frames.find? c.frame with
      | some x => if x.tsReq && c.mirror.isNone then txReport c.frame 0 0 none s1 else s1
      | none => s1
    settle q { s2 with mate := { s2.mate with cur := some (q, c, d) } }

/-- A round of the mate interface's arbiter (R449): one frame per grant. What heartbeats and mirrored data ask is sent as it arises. -/
def mateRound (err : Nat) (s : State) : State :=
  if !s.inState pMATE .run || !fabricOpen s || pinsTested s then s
  else
    let s1 := mateEnd s
    let x := s1.arb 120
    let w := mateWants s1
    let g := x.decided.find? (fun d => w.contains d)
    let x1 := match g with
      | some d => x.moved d
      | none => x
    let s2 := s1.setArb 120 { x1 with granted := g, decided := x1.order w }
    match g with
    | some d => mateStart d.queue err s2
    | none => s2

/-- The page whose B fields an arbiter decides with (R49). -/
def arbPage (a : Nat) : Option Nat :=
  if a < 48 then some (pQSC (portRegion a))
  else if 80 ≤ a && a < 84 then some (pBUF (a - 80))
  else if 64 ≤ a && a < 72 then some pXBAR
  else if (96 ≤ a && a < 104) || (112 ≤ a && a < 120) then some pSFAB
  else none

/-- A round is counted from the commit point of the arbiter's page (R63). DESIGN CHOICE (log entry 125). -/
def countRound (a : Nat) (s : State) : State :=
  match arbPage a with
  | some p => if (s.page p).commitPending then s.updPage p (fun h => { h with rounds := min 2 (h.rounds + 1) }) else s
  | none => s

/-- A round of an arbiter (R286). -/
def arbRound (a : Nat) (reqs : List Nat) (err : Nat) (s0 : State) : State :=
  let s := countRound a s0
  if a < 48 then portRound a s
  else if 80 ≤ a && a < 84 then poolRound a reqs err s
  else if (64 ≤ a && a < 72) || (96 ≤ a && a < 104) || (112 ≤ a && a < 120) || a = 121 then linkRound a reqs s
  else if a = 120 then mateRound err s
  else s

/-! ### Starvation (R288, R307, R308) -/

/-- A wait count reaches its limit: of queue `k` of port arbiter `a`, or of requester kind `k` of link arbiter `a`. -/
def starved (a k : Nat) (s : State) : State :=
  if a < 48 then
    let g := pQSC (portRegion a)
    if s.qPort k = a && s.rd g F.QSC_STARVE_CFG_STARVE_ROUNDS ≤ s.rd (wQUEUE k) F.Q_STARVE_WAIT_ROUNDS then
      srcEvent (regSource (portRegion a) 5)
        (((s.setF (wQUEUE k) F.Q_STARVE_STARVED).setF g F.QSC_STARVE_STAT_ANY).wr g F.QSC_STARVE_STAT_LAST_QUEUE k)
    else s
  else
    let w := (s.arb a).waits.get 0 k
    if 64 ≤ a && a < 72 then
      if k < 2 && s.rd pXBAR F.XBAR_STARVE_STARVE_ROUNDS ≤ w then
        s.wr pXBAR F.XBAR_STARVE_FLAGS (setBit (s.rd pXBAR F.XBAR_STARVE_FLAGS) (2 * (a - 64) + k))
      else s
    else if (96 ≤ a && a < 104) || (112 ≤ a && a < 120) then
      let b := if a < 104 then 4 * ((a - 96) / 2) + (a - 96) % 2 else 4 * ((a - 112) / 2) + 2 + (a - 112) % 2
      if s.rd pSFAB F.SFAB_STARVE_STARVE_ROUNDS ≤ w then
        s.wr pSFAB F.SFAB_STARVE_FLAGS (setBit (s.rd pSFAB F.SFAB_STARVE_FLAGS) b)
      else s
    else s

def execStarvationFlag (a k : Nat) (s : State) : Res := .next (starved a k s)

/-! ### Transmissions (R281, R290, R303, R321, R324, R414) -/

/-- The pointers of the port's arbiter and of a class group's move past the requester that starts. DEDUCED (log entry 62). -/
def movePointers (p : Nat) (w : Want) (s : State) : State :=
  s.updPort p (fun x => { x with
    arb := { x.arb.moved w with granted := none }
    groups := if w.queue = 65536 then x.groups
      else modAt x.groups w.req (fun a => a.moved ⟨s.rd (wQUEUE w.queue) F.Q_SCHED_ARB_CLASS, w.queue, w.queue⟩) })

/-- The remainder a port holds resumes. -/
def resume (p : Nat) (t : Tx) (s : State) : State :=
  let s1 := match t.queue with
    | some q => (refreshOf q s).wr (wQUEUE q) F.Q_STARVE_WAIT_ROUNDS 0
    | none => s
  planCut p (s1.updPort p (fun x => { x with
    held := none, cur := some { t with startL := s1.now, startT := s1.sNow, cutAt := none } }))

/-- The head copy of a queue starts. -/
def startCopy (p q err : Nat) (c : Copy) (s : State) : State :=
  let cl := s.qClass q
  let tx := s.txStamp p
  let d := wireBytes s p (some q) c
  let s1 := readData c.frame err (popFront q (refreshOf q s))
  let s2 := egressMirror q c ((s1.wr (wQUEUE q) F.Q_STARVE_WAIT_ROUNDS 0))
  let s3 := countDelay q c s2
  let extra := extraTpid s (portRegion p)
  let ed := match s.frames.find? c.frame with
    | some x => ptpEdits p x d extra tx s3
    | none => ([], s3)
  let s4 := match s.frames.find? c.frame with
    | some x => if x.tsReq && c.mirror.isNone then txReport c.frame 0 0 (some (tsRecord tx (putAll d ed.1) extra true p)) ed.2 else ed.2
    | none => ed.2
  let t : Tx := { queue := some q, cls := cl, copy := c, bytes := none, ptp := ed.1, sent := 0, frags := 0
                  startL := s.now, startT := s.sNow, cutAt := none, stomp := readBad err }
  settle q (planCut p (s4.updPort p (fun x => { x with cur := some t })))

/-- A start: the MAC takes the round's grant and repeats the test; a candidate that fails stays at its queue's head (R321). -/
def transmitStart (p err : Nat) (s : State) : State :=
  match (s.port p).cur, (s.port p).arb.granted with
  | none, some w =>
    if !(standing s p w && startFits s p w.req w.queue) then s.updPort p (fun x => { x with arb := { x.arb with granted := none } })
    else
      let s1 := movePointers p w s
      if w.queue = 65536 then
        match (s.port p).held with
        | some t => resume p t s1
        | none => s1
      else match (s.queue w.queue).front with
        | c :: _ => startCopy p w.queue err c s1
        | [] => s1
  | _, _ => s

def execTransmitStart (p err : Nat) (s : State) : Res := .next (transmitStart p err s)

/-- Where a transmission ends now: the bytes of the fragment, or none at the frame's end; nothing while its tail has not come and no
preemption is due or none may be made (R325). A cut planned before the tail came is laid anew against the true length (R324). -/
def endPoint (s : State) (p : Nat) (t : Tx) : Option (Option Nat) :=
  if !(preemptActive s p && !isExpress s p t.cls) then (if txKnown s t then some none else none)
  else if !txKnown s t then t.cutAt.map some
  else
    let left := (txBytes s p t).length + 4 - t.sent
    match t.cutAt with
    | none => some none
    | some n => if n + 64 ≤ left then some (some n) else some (gateCut s p t.cls t.startT t.startL (some left))

/-- The transmission on a port's wire ends, with its frame or as a fragment. -/
def transmitEnd (p : Nat) (s : State) : State :=
  match (s.port p).cur with
  | none => s
  | some t => match endPoint s p t with
    | none => s
    | some none => endFrame p t s
    | some (some n) => endFragment p n t s

def execTransmitEnd (p : Nat) (s : State) : Res := .next (transmitEnd p s)

/-! ### Shapers (R292, R293) -/

def execShaperUpdate (j : Nat) (s : State) : Res := .next (refreshShaper j s)

/-- The B fields of the selected shaper. -/
def shaperFields : List (Field × Nat) :=
  [(F.QSC_SHP_SLOPE_RESET_FULL, 0), (F.QSC_SHP_SLOPE_IDLE_SLOPE, 0), (F.QSC_SHP_HILO_CREDIT_LIMIT, 0), (F.QSC_SHP_HILO_CREDIT_LIMIT, 1),
   (F.QSC_SHP_CFG_EN, 0), (F.QSC_SHP_CFG_PORT, 0)]


/-- Load the operating values of a shaper into the selection registers, whose shadows are discarded. -/
def loadShaper (r j : Nat) (s : State) : State :=
  let g := pQSC r
  let x := s.shaper (2048 * r + j)
  let l : List Nat := [b2n x.resetFull, x.slope, x.hi, x.lo, b2n x.en, 12 * r + x.cell]
  (shaperFields.zip l).foldl (fun s (e : (Field × Nat) × Nat) =>
    let t := s.wr g e.1.1 e.2 e.1.2
    { t with reg := { t.reg with shadow := t.reg.shadow.erase (fkey g e.1.1 e.1.2 0) } }) s

/-- What follows a write of QSC_SHP_SEL: the selected shaper is shown. -/
def shaperLoaded (r : Nat) (l : List NewVal) (s : State) : State :=
  let j := nv s (pQSC r) l F.QSC_SHP_SEL_SEL
  refreshShaper (2048 * r + j) (loadShaper r j s)

def execShaperSelect (r : Nat) (w : View) (ag v : Nat) (s : State) : Res :=
  .next (regWrite (pQSC r) 0x200 w ag v noCheck noCheck (fun _ => (s.page (pQSC r)).commitPending) (shaperLoaded r) s)

/-- The boundary of the shaper selected at the commit point (R292, R293): every field together, and its credit. -/
def applyShaper (r : Nat) (s : State) : State :=
  let g := pQSC r
  let j := 2048 * r + s.rd g F.QSC_SHP_SEL_SEL
  let s1 := shaperFields.foldl (fun s (e : Field × Nat) => applyField g e.1 e.2 0 s) s
  let full := s1.rdB g F.QSC_SHP_SLOPE_RESET_FULL
  let hi := s1.rd g F.QSC_SHP_HILO_CREDIT_LIMIT 0
  let x : Shaper := { resetFull := full, slope := s1.rd g F.QSC_SHP_SLOPE_IDLE_SLOPE, hi := hi
                      lo := s1.rd g F.QSC_SHP_HILO_CREDIT_LIMIT 1, en := s1.rdB g F.QSC_SHP_CFG_EN
                      cell := s1.rd g F.QSC_SHP_CFG_PORT % 12, credit := if full then ((hi * bitU : Nat) : Int) else 0, at_ := s1.sNow }
  showCredit j (s1.setShaper j (if s1.link_ (shaperPort j x) = lUP then x else { x with credit := 0 }))

/-! ### Gates (R310 to R331) -/

/-- A committed page whose last shadow has been applied: COMMIT_PENDING returns to 0 and APPLIED_SEQ increments (R62). -/
def commitDone (pg : Nat) (s : State) : State :=
  if (s.page pg).commitPending && !anyShadow s pg then
    s.updPage pg (fun h => { h with commitPending := false, appliedSeq := (h.appliedSeq + 1) % 65536 })
  else s

/-- The offset of the register a field key names. -/
def keyOff (k : Nat) : Nat := k / 32 % 1024 * 4

/-- The B fields of a page that are listed take their shadows. -/
def applyKeys (pg : Nat) (here : Nat → Bool) (s : State) : State :=
  let mine := fun (k : Nat) => keyOnPage pg k && here k
  let op := s.reg.shadow.entries.foldl (fun (m : SMap Nat) (e : Nat × (Nat × Nat)) => if mine e.1 then
      (match (regFields ((pageBlk pg).getD .sns) (keyOff e.1)).find? (fun x => x.1.lo = e.1 % 32) with
       | some x => m.put x.1.reset e.1 e.2.1
       | none => m)
    else m) s.reg.op
  { s with reg := { s.reg with op := op, shadow := s.reg.shadow.filter (fun k _ => !mine k) } }

/-- An entry or a cycle of a port's list begins: a frame whose gate has closed is preempted where it may be (R312, R322). -/
def gateChange (p : Nat) (s : State) : State :=
  if 48 ≤ p then s
  else
    let s0 := syncGate p (refreshPort p s)
    let s1 := if (s0.port p).cur.any (fun t => t.cutAt.isNone) then planCut p s0 else s0
    match (s1.port p).cur with
    | some t => match (if gateOpen s1 p t.cls then none else endPoint s1 p t) with
      | some (some n) => endFragment p n t s1
      | _ => s1
    | none => s1

def execGateEntryChange (p : Nat) (s : State) : Res := .next (gateChange p s)

/-- Show W_c of the operating list (R326). -/
def showWindows (p : Nat) (s : State) : State :=
  (List.range 8).foldl (fun s c => s.wr (pPORT (portRegion p)) F.GATE_MAXWIN_W (maxWindow (operList s p) c) (portCell p) c) s

/-- The takeover at time `t` (R317), which the transmission in progress was planned against; every head copy of the port is tested again (R328). -/
def takeover (p t : Nat) (s : State) : State :=
  let g := pPORT (portRegion p)
  let i := portCell p
  let s1 := refreshPort p s
  let s2 := (gateFields.foldl (fun s f => applyField g f i 0 s) s1).wr g F.GATE_STATUS_OPER_BANK (1 - s1.rd g F.GATE_STATUS_OPER_BANK i) i
  let s3 := s2.updGate p (fun x => { x with start := t, cyc := t, fires := 0, takeover := none })
  let s4 := ((s3.wr g F.GATE_STATUS_OPER_EN (s3.rd g F.GATE_CTRL_GATE_EN i) i).wr g F.GATE_STATUS_TAKEOVER_PENDING 0 i).setF g F.GATE_EVENT_TAKEOVER_SEEN i
  let s5 := syncTrig (gateChange p (showWindows p s4))
  commitDone g ((portQueues s5 p).foldl (fun s q => settle q s) s5)

def execGateTakeover (p : Nat) (s : State) : Res :=
  .next (match (s.gate p).takeover with
    | some (some t) => if t ≤ s.sNow then takeover p t s else s
    | _ => s)

/-- The result of the checks of a gate-list write: DURATION is not 0; the bank is not the operating one; no takeover is pending. DEDUCED (log entry 67). -/
def gateListCode (s : State) (p b ag v : Nat) : Nat :=
  let g := pPORT (portRegion p)
  firstFail (lockedBy s g ag) (v % 2 ^ 24 != 0 && v < 2 ^ 32)
    (windowState s g && b != s.rd g F.GATE_STATUS_OPER_BANK (portCell p)) (s.gate p).takeover.isSome

/-- Entry `k` of bank `b` of a port's list takes `v`. -/
def gateStore (p b k v : Nat) (s : State) : State :=
  s.updGate p (fun x => if b = 0 then { x with bank0 := x.bank0.put 0 k v } else { x with bank1 := x.bank1.put 0 k v })

/-- A write to entry `k` of bank `b` of a port's gate list (R310, R311, R315). -/
def gateListWrite (p b k ag v : Nat) (s : State) : State :=
  let c := gateListCode s p b ag v
  windowResult (pPORT (portRegion p)) ag (0x880000 + 0x800 * p + 0x400 * b + 4 * k) c
    (if c = rDONE then gateStore p b k v s else s)

def execGateListWrite (p b k ag v : Nat) (s : State) : Res := .next (gateListWrite p b k ag v s)

end Sys2Proof.Machine
end

