-- ==== Sys2Proof/Machine/Peat.lean ====
section
/-! DEFINITION. The Peat Store (R337 to R370): its memory's rows and errors, spill and drain, the turf commands, the capture area, and the
CXL.mem window. -/
namespace Sys2Proof.Machine

/-! ### Places in the memory (R338, R339) -/

/-- Column, bank and row of a unit of 32 B of a channel. -/
def unitCol (s : State) (u : Nat) : Nat := u % 2 ^ s.rd pPEAT F.PEAT_GEOM_COL_BITS
def unitBank (s : State) (u : Nat) : Nat := u / 2 ^ s.rd pPEAT F.PEAT_GEOM_COL_BITS % 2 ^ s.rd pPEAT F.PEAT_GEOM_BANK_BITS
def unitRow (s : State) (u : Nat) : Nat :=
  u / 2 ^ (s.rd pPEAT F.PEAT_GEOM_COL_BITS + s.rd pPEAT F.PEAT_GEOM_BANK_BITS) % 2 ^ s.rd pPEAT F.PEAT_GEOM_ROW_BITS

/-- The turf a unit of the Peat area belongs to. -/
def unitTurf (u : Nat) : Nat := u / 8

/-! ### Rows and refresh (R360, R361) -/

/-- One activate in a bank's table. -/
def countRow (t : ActTable) (row : Nat) : ActTable :=
  if t.any (fun e => e.1 = row) then t.map (fun e => if e.1 = row then (row, e.2 + 1) else e)
  else if t.length < 32 then t ++ [(row, 1)]
  else
    let low := t.foldl (fun m e => min m e.2) ((t.head?.map (·.2)).getD 0)
    match t.findIdx? (fun e => e.2 = low) with
    | some i => t.set i (row, low + 1)
    | none => t

/-- An access to a row of a bank activates it when another row, or none, is open there. -/
def activate (k row : Nat) (s : State) : State :=
  if s.peat.openRow.find? k = some row then s
  else { s with peat := { s.peat with openRow := s.peat.openRow.insert k row, acts := s.peat.acts.upd [] k (fun t => countRow t row) } }

/-- The bank of a channel as the tables are indexed. -/
def bankIdx (ch bank : Nat) : Nat := 32 * ch + bank

/-- An access to a unit of a channel. -/
def touch (ch u : Nat) (s : State) : State := activate (bankIdx ch (unitBank s u)) (unitRow s u) s

/-- An access to `n` bytes of a turf from byte `b`: each 256 B piece lies in one row of its channel. -/
def touchTurf (t b n : Nat) (s : State) : State :=
  if n = 0 then s
  else (List.range ((b + n - 1) / 256 - b / 256 + 1)).foldl (fun s k => touch ((b / 256 + k) % 16) (8 * t) s) s

/-- The channels are in service and not in self-refresh (R366). -/
def dramAwake (s : State) : Bool := stateIn s pPEAT [.ready, .run]

/-- Whether a channel refreshes: in service, and out of self-refresh. -/
def refreshing (s : State) (ch : Nat) : Bool := dramAwake s && s.rdB pPEAT F.PEAT_CH_STAT_UP ch

/-- Committed values reach the channels that have refreshed since the commit point, and at once those that do not refresh: the delay entries
channel by channel, the page's own fields with the last channel (R63, R369). DEDUCED (log entry 72). -/
def peatBoundary (s : State) : State :=
  let here := fun (ch : Nat) => !refreshing s ch || s.peat.refreshed.testBit ch
  let mine := s.peat.delayShadow.entries.filter (fun (e : Nat × (Nat × Nat)) => here (e.1 / 64))
  let s1 := { s with peat := { s.peat with
    delay := mine.foldl (fun (m : SMap Nat) (e : Nat × (Nat × Nat)) => m.put 0 e.1 e.2.1) s.peat.delay
    delayShadow := s.peat.delayShadow.filter (fun k _ => !here (k / 64)) } }
  if (List.range 16).all here then applyKeys pPEAT (fun _ => true) s1 else s1

/-- A refresh of the next bank of a channel: its row closes, and what a commit holds for the channel takes effect (R360, R369). -/
def bankRefresh (ch : Nat) (s : State) : State :=
  if !refreshing s ch then s
  else
    let n := 2 ^ s.rd pPEAT F.PEAT_GEOM_BANK_BITS
    let b := s.peat.refBank.get 0 ch % n
    let s1 := { s with peat := { s.peat with
      openRow := s.peat.openRow.erase (bankIdx ch b), refBank := s.peat.refBank.put 0 ch ((b + 1) % n)
      refreshed := if s.peat.refreshed.testBit ch then s.peat.refreshed else s.peat.refreshed + 2 ^ ch } }
    if (s.page pPEAT).commitPending then commitDone pPEAT (peatBoundary s1) else s1

def execPerBankRefresh (ch : Nat) (s : State) : Res := .next (if ch < 16 then bankRefresh ch s else s)

def execRefreshRatePoll (ch rate : Nat) (s : State) : Res :=
  .next (if dramAwake s && s.rdB pPEAT F.PEAT_CH_STAT_UP ch then s.wr pPEAT F.PEAT_CH_STAT_REF_RATE rate ch else s)

def execActivateTableClear (ch bank : Nat) (s : State) : Res :=
  .next { s with peat := { s.peat with acts := s.peat.acts.erase (bankIdx ch bank) } }

/-- Rows within BLAST of a row, on either side, inside the bank. -/
def neighbours (s : State) (row : Nat) : List Nat :=
  let n := s.rd pPEAT F.PEAT_RH_CFG_BLAST
  ((List.range n).flatMap (fun k => (if k + 1 ≤ row then [row - (k + 1)] else []) ++ [row + k + 1])).filter
    (fun r => r < 2 ^ s.rd pPEAT F.PEAT_GEOM_ROW_BITS)

/-- A row whose count has reached RH_TH (R361). -/
def neighbourRefresh (ch bank row : Nat) (s : State) : State :=
  let k := bankIdx ch bank
  let t := s.peat.acts.get [] k
  if t.any (fun e => e.1 = row && s.rd pPEAT F.PEAT_RH_CFG_RH_TH ≤ e.2) then
    let t1 := (neighbours s row).foldl countRow t
    let t2 := t1.map (fun e => if e.1 = row then (row, 0) else e)
    count (cChip (48 + ch)) { s with peat := { s.peat with openRow := s.peat.openRow.erase k, acts := s.peat.acts.put [] k t2 } }
  else s

def execNeighbourRefresh (ch bank row : Nat) (s : State) : Res := .next (neighbourRefresh ch bank row s)

/-! ### Errors (R364, R365) -/

/-- Write a log entry. -/
def logDram (requester kind : Nat) (e : DramErr) (s : State) : State :=
  let h := s.rd pPEAT F.PEAT_LOG_STAT_HEAD
  let full := s.rd pPEAT F.PEAT_LOG_DATA (4 * h + 2) / 2 ^ 22 % 4 != 0
  let w := e.ch % 16 * 2 ^ 124 + unitBank s e.unit * 2 ^ 119 + unitRow s e.unit * 2 ^ 101 + unitCol s e.unit * 2 ^ 91 + requester * 2 ^ 88
    + kind * 2 ^ 86 + u3Of s.sNow
  let s1 := (List.range 4).foldl (fun s k => s.wr pPEAT F.PEAT_LOG_DATA (w / 2 ^ (32 * k)) (4 * h + k)) s
  let s2 := if full then s1.addSat pPEAT F.PEAT_LOG_STAT_WRAP_CNT else s1
  s2.wr pPEAT F.PEAT_LOG_STAT_HEAD ((h + 1) % 16)

/-- An error a requester meets: a corrected one is counted; any other is logged, reported as contained and raises PEAT_UE. `writing`
tells a write that failed after its retry. -/
def dramError (requester : Nat) (writing : Bool) (e : DramErr) (s : State) : State :=
  if e.kind = 0 then report pPEAT .corrected ((s.setF pPEAT F.PEAT_ERR_CORR).addSat pPEAT F.PEAT_ERR_CORR_CNT)
  else
    let s1 := s.setF pPEAT (if e.kind = 1 then F.PEAT_ERR_UNCORR else F.PEAT_ERR_CMD_ERR)
    report pPEAT .contained (srcEvent 329 (logDram requester (if writing then 3 else e.kind) e s1))

/-- Whether an access at `site` fails. -/
def failsAt (err : Option DramErr) (site : Nat) : Bool := err.any (fun e => e.site = site && e.kind != 0)

/-- The turf of an error is to be retired when it is freed. -/
def retireTurf (t : Nat) (s : State) : State := s.setTurf t { s.turf t with retire := true }

/-- The turf of a chain that holds a byte position. -/
def chainTurf (x : Queue) (pos : Nat) : Nat := (x.turves[pos / 4096 - x.base]?).getD 0

/-- The turf of a record in which an error lies: the one the error's unit is of, where the record reaches it. -/
def errTurf (x : Queue) (pos size : Nat) (e : DramErr) : Nat :=
  let t := unitTurf e.unit
  if ((List.range ((pos + size - 1) / 4096 - pos / 4096 + 1)).map (fun k => chainTurf x (pos + 4096 * k))).contains t then t else chainTurf x pos

/-- Q_FLUSH; `err` is an error of the table entry of the chain's turf of number `site` (R355). -/
def execQFlush (pg ag arg : Nat) (err : Option DramErr) (s : State) : Res :=
  .next (command pg ag 0x42 (isBlk pg .qsc && s.qRegion arg = pageRegion pg) (stateIn s pg [.ready, .run, .fenced])
    (fun s =>
      let t := err.bind (fun e => (s.queue arg).turves[e.site]?)
      let s1 := match err with
        | some e => if t.isSome then dramError 4 false e s else s
        | none => s
      (onQueue arg (flushWith arg (if err.any (fun e => e.kind != 0) then t else none)) s1, rDONE)) s)

/-! ### Turf requests (R353, R354) -/

/-- Take one turf from the cache, refilled from the ring when it is empty; an entry whose turf is allocated already is discarded (R355), and
one whose turf is lost is passed over. -/
def takeTurf : Nat → State → Option Nat × State
  | 0, s => (none, s)
  | fuel + 1, s =>
    let s0 := if (popRun s.peat.cache).isNone then balanceTurf s else s
    match popRun s0.peat.cache with
    | none => (none, s0)
    | some (t, c) =>
      let s1 := syncTurf (balanceTurf { s0 with peat := { s0.peat with cache := c } })
      if (s1.turf t).alloc then takeTurf fuel (report pPEAT .corrected (srcEvent 331 (count (cChip 35) s1)))
      else if s1.peat.lost.contains t then takeTurf fuel s1
      else (some t, s1)

/-- Take `n` turves. -/
def takeTurves : Nat → State → List Nat × State
  | 0, s => ([], s)
  | n + 1, s => match takeTurf 4096 s with
    | (some t, s1) => let q := takeTurves n s1; (t :: q.1, q.2)
    | (none, s1) => ([], s1)

/-- The request of `n` turves for a queue, granted whole or refused: they join its chain. -/
def grantTurves (q n : Nat) (s : State) : Option State :=
  let r := s.qRegion q
  let x := s.queue q
  if x.turves.length + n ≤ s.rd (wQUEUE q) F.Q_SPILL_CFG_PEAT_MAX * 64
      && s.rd pPEAT F.PEAT_TURF_USE_VALUE r + n ≤ s.rd pPEAT F.PEAT_QUOTA_VALUE r
      && n ≤ s.rd pPEAT F.PEAT_TURF_FREE_VALUE then
    let g := takeTurves n s
    if g.1.length < n then none
    else
      let link := fun (a : State × Option Nat) (t : Nat) =>
        let b := match a.2 with
          | some l => a.1.setTurf l { a.1.turf l with next := t }
          | none => a.1
        (b.setTurf t { alloc := true, retire := (b.turf t).retire, owner := r, queue := q }, some t)
      let s1 := (g.1.foldl link (g.2, x.turves.getLast?)).1
      some (useTurf r (· + n) (s1.updQueue q (fun y => { y with turves := y.turves ++ g.1 })))
  else none

/-! ### Spill (R344, R345) -/

/-- The bytes a record takes. -/
def recSize (len : Nat) : Nat := 16 + (len + 3) / 4 * 4

/-- The accesses of a record. -/
def touchRecord (x : Queue) (pos size : Nat) (s : State) : State :=
  (List.range ((pos + size - 1) / 4096 - pos / 4096 + 1)).foldl (fun s k =>
    let a := max pos (4096 * (pos / 4096 + k))
    let e := min (pos + size) (4096 * (pos / 4096 + k + 1))
    touchTurf (chainTurf x a) (a % 4096) (e - a) s) s

/-- Take the head of BACK away. -/
def popBack (q : Nat) (s : State) : State := s.updQueue q (fun x => { x with back := x.back.drop 1 })

/-- A free-ring entry meets an error as a turf is asked for (R364): one that no longer reads takes its turf out of use. -/
def loseTurf (e : DramErr) (s : State) : State :=
  dramError 3 false e (if e.kind = 0 then s else match popRun s.peat.cache with
    | none => s
    | some (t, c) => syncTurf (turfGone t { s with peat := { s.peat with cache := c } }))

/-- CRC-8 of polynomial 0x07 over a list of bytes (R344). -/
def crc8 (l : List Byte) : Nat :=
  l.foldl (fun c b => (List.range 8).foldl (fun c _ => if 128 ≤ c then (2 * c % 256) ^^^ 7 else 2 * c) (c ^^^ b.toNat)) 0

/-- The header of the record of a copy (R344). -/
def recHead (c : Copy) (f : Frame) (len : Nat) : Nat :=
  let ps := f.handle.isSome && f.seq.isSome && c.ofStream
  let v := u3Of c.at_ * 2 ^ 64 + (if ps then f.seq.getD 0 % 65536 * 2 ^ 48 + f.handle.getD 0 % 4096 * 2 ^ 36 + 2 ^ 35 else 0)
    + len % 16384 * 2 ^ 21 + f.port % 64 * 2 ^ 15 + f.region % 4 * 2 ^ 13 + f.verdict.tc % 8 * 2 ^ 10
  v + crc8 (beBytes 15 (v / 256))

/-- What a header tells: the region, the class, the port, and the stream handle with the sequence number. -/
def PeatRec.region (r : PeatRec) : Nat := bitsOf r.head 14 13
def PeatRec.tc (r : PeatRec) : Nat := bitsOf r.head 12 10
def PeatRec.port (r : PeatRec) : Nat := bitsOf r.head 20 15
def PeatRec.stream (r : PeatRec) : Option (Nat × Nat) :=
  if r.head.testBit 35 then some (bitsOf r.head 47 36, bitsOf r.head 63 48) else none

/-- The admission time a header tells, whose seconds lack their high bits: the latest instant up to now that has its low ones. -/
def recTime (s : State) (r : PeatRec) : Nat :=
  let v := timeOf (bitsOf r.head 127 112) (bitsOf r.head 111 80) (bitsOf r.head 79 64)
  v + (s.sNow - v) / (65536 * secU) * (65536 * secU)

/-- Write the head copy of BACK as one record, its cord being complete. -/
def writeRecord (q : Nat) (c : Copy) (f : Frame) (err : Option DramErr) (s : State) : State :=
  let d := copyBytes s f c
  let size := recSize d.length
  let x := s.queue q
  let room := 4096 * (x.base + x.turves.length) - x.wofs
  let need := (size - room + 4095) / 4096
  let s0 := match err with
    | some e => if e.site = 2 then loseTurf e s else if e.kind = 0 then dramError 0 false e s else s
    | none => s
  match (if need = 0 then some s0 else grantTurves q need s0) with
  | none => releaseCopy c (countDrop q 11 (popBack q s0))
  | some s1 =>
    let y := s1.queue q
    let pos := if x.turves.isEmpty then 4096 * y.base else y.wofs
    if failsAt err 0 then
      match err with
      | some e => releaseCopy c (countDrop q 12 (popBack q (retireTurf (errTurf y pos size e) (dramError 0 true e s1))))
      | none => s1
    else
      let t := chainTurf y pos
      let s2 := if (s1.turf t).firstRec = 0xFFF then s1.setTurf t { s1.turf t with firstRec := pos % 4096 } else s1
      let mine := f.tsReq && c.mirror.isNone
      let r : PeatRec := { head := recHead c f d.length, bytes := d, pos := pos, slot := if mine then f.ring else none
                           oneStep := f.oneStep && c.mirror.isNone }
      let s3 := (touchRecord y pos size s2).updQueue q (fun x => { x with peat := x.peat ++ [r], wofs := pos + size })
      releaseCopy c (popBack q (if mine then s3.updFrame c.frame (fun x => { x with tsReq := false }) else s3))

/-- One step of the spill writer on a queue. `ecc` is what the read of the cord meets, as at TRANSMIT_START. DEDUCED (log entry 69). -/
def spillWrite (q ecc : Nat) (err : Option DramErr) (s : State) : State :=
  let x := s.queue q
  if !(s.inState pPEAT .run && stateIn s (pQSC (s.qRegion q)) [.ready, .run] && fabricOpen s && x.spill) then s
  else match x.back with
    | [] => s
    | c :: _ =>
      match s.frames.find? c.frame with
      | none => leaveSpill q (countDrop q 15 (popBack q s))
      | some f =>
        if oldGen s c then leaveSpill q (releaseCopy c (countDrop q 15 (popBack q s)))
        else if !f.complete then s
        else
          let s1 := readData c.frame ecc s
          if (f.bad && !c.late) || readBad ecc then leaveSpill q (releaseCopy c (countDrop q 0 (popBack q s1)))
          else leaveSpill q (writeRecord q c f err s1)

def execSpillWrite (q ecc : Nat) (err : Option DramErr) (s : State) : Res := .next (spillWrite q ecc err s)

/-! ### Drain (R348 to R351) -/

/-- Billets of the drained copies a queue holds on chip. -/
def drainedBillets (s : State) (q : Nat) : Nat :=
  (s.queue q).front.foldl (fun n c => match (s.frames.find? c.frame).bind (·.head) with
    | some b => if (s.link b).account = 0xA0 then n + (s.headW b).billets else n
    | none => n) 0

/-- Whether a record of a queue is discarded unread for its age (R351). -/
def agedRec (s : State) (q : Nat) (r : PeatRec) : Bool :=
  match (s.queue q).cutoff with
  | some c => recTime s r < c
  | none => false

/-- The record a region's drain has started and still asks billets for, where its queue still drains it (R349). -/
def startedRec (s : State) (r : Nat) : Option (Nat × PeatRec) :=
  match s.peat.started.find? r with
  | some (q, pos) => match (s.queue q).peat with
    | y :: _ => if y.pos = pos && (s.queue q).spill then some (q, y) else none
    | [] => none
  | none => none

/-- The committed refill billets of a region (R349). -/
def committedRefill (s : State) (g : Nat) : Nat :=
  (List.range 4).foldl (fun n r => match startedRec s r with
    | some (_, y) => if y.region = g then n + dataBillets y.bytes.length else n
    | none => n) 0

/-- Whether the refill reserve of its region covers a record (R349). -/
def refillOk (s : State) (r : PeatRec) : Bool :=
  s.inState (pBUF r.region) .run && quotaOk s r.region .refill (committedRefill s r.region + dataBillets r.bytes.length)

/-- Whether a queue may start a record (R348 to R350). -/
def mayDrain (s : State) (q : Nat) : Bool :=
  let x := s.queue q
  match x.peat with
  | [] => false
  | r :: _ =>
    x.spill && drainUp s q && drainedBillets s q < s.rd pPEAT F.PEAT_DRAIN_CFG_DRAIN_AHEAD
      && (agedRec s q r || refillOk s r)

/-- Free the turves the drain has read past, up to a byte of the chain. -/
def freeRead (q : Nat) : Nat → Nat → State → State
  | 0, _, s => s
  | n + 1, e, s =>
    let x := s.queue q
    if x.turves.isEmpty || e < 4096 * (x.base + 1) then s else freeRead q n e (freeFirstTurf q s)

/-- The head record leaves the PEAT part. -/
def advance (q : Nat) (s : State) : State :=
  let x := s.queue q
  match x.peat with
  | [] => s
  | r :: t => freeRead q x.turves.length (r.pos + recSize r.bytes.length) (s.updQueue q (fun x => { x with peat := t }))

/-- Every record whose header starts in the head record's turf is discarded, the loss counted once (R364). -/
def skipTurf (q : Nat) (r : PeatRec) (s : State) : State :=
  let x := s.queue q
  let rest := x.peat.dropWhile (fun y => y.pos / 4096 = r.pos / 4096)
  let e := match rest with
    | y :: _ => y.pos
    | [] => x.wofs
  let s1 := retireTurf (chainTurf x r.pos) (countDrop q 13 s)
  freeRead q x.turves.length e (s1.updQueue q (fun y => { y with peat := rest }))

/-- The chain is cut at its turf `k` (R364): records that reach beyond it are lost, and the turf is its last. -/
def cutChain (q k : Nat) (s : State) : State :=
  let x := s.queue q
  let e := 4096 * (x.base + k + 1)
  let keep := x.peat.filter (fun r => r.pos + recSize r.bytes.length ≤ e)
  let lost := x.peat.filter (fun r => e < r.pos + recSize r.bytes.length)
  let s1 := match x.turves[k]? with
    | some t => s.setTurf t { s.turf t with next := 0 }
    | none => s
  (lost.foldl (fun s r => dropRec q 12 r s) s1).updQueue q (fun x => { x with
    peat := keep, turves := x.turves.take (k + 1), wofs := min x.wofs e })

/-- The frame of a drained record. DEDUCED (log entry 73). -/
def drainedFrame (r : PeatRec) (hd : Nat) : Frame :=
  { port := r.port, src := .front, region := r.region, bytes := r.bytes ++ leBytes 4 (crc32 r.bytes), complete := true, bad := false, tc := r.tc
    stamp := {}, handle := r.stream.map (·.1), seq := r.stream.map (·.2), prec := 0, stage := .admitted, verdict := { tc := r.tc }, edits := [], fixups := 0
    head := some hd, deferred := [], lateAct := none, rtag := none, colour := .green, metered := none, ring := r.slot
    oneStep := r.oneStep, tsReq := r.slot.isSome, why := (0, 0), edit := none }

/-- The billets of a started record, all or none of them (R348, R349): the cord's head, owned as handed over. -/
def refillCord (r : PeatRec) (s : State) : Option (Nat × State) :=
  let n := dataBillets r.bytes.length
  let g := growCord (fun s => alloc r.region .refill 0x80 0xA0 s) n none 0 s
  match g.1 with
  | none => none
  | some b =>
    if !g.2.1 || (s.pool r.region).freeCnt < n then none
    else
      let s1 := (cordBillets g.2.2 40 b).foldl (fun s k => s.setLink k { s.link k with owner := 0xFE }) g.2.2
      some (b, s1.setHead b { s1.headW b with refcnt := 1, complete := true, length := r.bytes.length })

/-- A record becomes a cord of its region and a copy of FRONT (R348); where its billets are refused it stays started and asks again (R349). -/
def deliverRec (q : Nat) (r : PeatRec) (s : State) : State :=
  let g := s.qRegion q
  match refillCord r s with
  | none => { s with peat := { s.peat with started := s.peat.started.insert g (q, r.pos) } }
  | some (b, s1) =>
    let s2 := { s1 with peat := { s1.peat with started := s1.peat.started.erase g } }
    let f := s2.newFrame (drainedFrame r b)
    let c : Copy := { frame := f.1, gen := (s2.pool r.region).gen, at_ := recTime s r, billets := (s2.headW b).billets, cut := false
                      mirror := none, marked := false, recov := none, late := false }
    let s3 := touchRecord (s.queue q) r.pos (recSize r.bytes.length) f.2
    onQueue q (fun s => advance q (s.updQueue q (fun x => { x with front := x.front ++ [c] }))) s3

/-- A record that is too old goes unread but for its header, another is delivered. -/
def drainGood (q : Nat) (r : PeatRec) (s : State) : State :=
  if agedRec s q r then advance q (dropRec q 9 r (touchRecord (s.queue q) r.pos 16 s)) else deliverRec q r s

/-- The outcome of starting a queue's head record. The sites of an error are 0 the record's header, 1 its data, 2 a mismatch of CHK, and 4 + k
the entry of the k-th turf of the chain. -/
def drainHead (q : Nat) (r : PeatRec) (err : Option DramErr) (s : State) : State :=
  let x := s.queue q
  let header := touchRecord x r.pos 16 s
  let size := recSize r.bytes.length
  match err with
  | some e =>
    if e.kind = 0 then drainGood q r (dramError 1 false e s)
    else if 4 ≤ e.site then cutChain q (e.site - 4) (dramError 4 false e s)
    else if e.site = 2 then skipTurf q r header
    else if e.site = 0 then skipTurf q r (dramError 1 false e header)
    else if agedRec s q r then drainGood q r s
    else advance q (dropRec q 12 r (retireTurf (errTurf x r.pos size e) (dramError 1 false e (touchRecord x r.pos size s))))
  | none => drainGood q r s

/-- The drain of a region goes on with the record it has started, or starts one of the queue its arbiter chooses (R349, R350). -/
def drainRecord (r : Nat) (err : Option DramErr) (s : State) : State :=
  if !(s.inState pPEAT .run && stateIn s (pQSC r) [.ready, .run] && fabricOpen s) then s
  else
    let drain := fun (q : Nat) (x : PeatRec) (s : State) => settle q (leaveSpill q (drainHead q x err s))
    match startedRec s r with
    | some (q, x) => if drainUp s q then drain q x s else s
    | none =>
      let a := s.arb (88 + r)
      let w := ((knownQueues s).filter (fun q => s.qRegion q = r && mayDrain s q)).map (fun q => (⟨s.qClass q / 2, q, q⟩ : Want))
      match a.order w with
      | [] => s
      | d :: _ =>
        match (s.queue d.queue).peat with
        | [] => s
        | x :: _ => drain d.queue x (s.setArb (88 + r) (a.moved d))

def execDrainRecord (r : Nat) (err : Option DramErr) (s : State) : Res := .next (drainRecord r err s)

/-! ### The patrol (R362) -/

/-- Units of a channel, and those of its Peat area. -/
def channelUnits : Nat := 268435456
def peatUnits : Nat := 250000000

/-- The window line of a unit of a channel. -/
def unitLine (ch u : Nat) : Nat := (4096 * (u / 8) + 256 * ch + 32 * (u % 8)) / 64

/-- The patrol reads its next 32 B: unit by unit, channel by channel. -/
def patrolRead (err : Option DramErr) (s : State) : State :=
  if !(s.rdB pPEAT F.PEAT_CTRL_PATROL_EN && dramAwake s) then s
  else
    let ch := s.peat.patrol % 16
    let u := s.peat.patrol / 16
    let s1 := touch ch u { s with peat := { s.peat with patrol := (s.peat.patrol + 1) % (16 * channelUnits) } }
    match err with
    | none => s1
    | some e =>
      let s2 := dramError 6 false { e with ch := ch, unit := u } s1
      if e.kind = 0 || peatUnits ≤ u then s2
      else
        let t := unitTurf u
        let s3 := retireTurf t s2
        if t < firstTurf s then { s3 with peat := { s3.peat with
          poison := if s3.peat.poison.contains (unitLine ch u) then s3.peat.poison else unitLine ch u :: s3.peat.poison } }
        else s3

def execPatrolRead (err : Option DramErr) (s : State) : Res := .next (patrolRead err s)

/-! ### The window (R340, R512 to R514) -/

/-- Bytes of the window, and what the committed HDM range must hold beside them. -/
def windowBytes (gib : Nat) : Nat := gib * 2 ^ 30
def hdmFits (s : State) (gib : Nat) : Bool :=
  !s.rdB pHIF F.HIF_LINK_HDM_COMMITTED || windowBytes gib + 2 ^ 28 ≤ s.hif.hdmSize

/-- The checks of a WIN_GIB write that changes the window (R340): its size fits the committed HDM range, and the block is READY. -/
def winGibRange (s : State) (l : List NewVal) : Bool :=
  !changes s pPEAT l F.PEAT_CTRL_WIN_GIB || hdmFits s (nv s pPEAT l F.PEAT_CTRL_WIN_GIB)
def winGibState (s : State) (l : List NewVal) : Bool :=
  !changes s pPEAT l F.PEAT_CTRL_WIN_GIB || s.inState pPEAT .ready

/-- What follows the write: a window of another size starts to be zeroed. -/
def winGibTaken (s : State) (_ : List NewVal) (t : State) : State :=
  if t.rd pPEAT F.PEAT_CTRL_WIN_GIB != s.rd pPEAT F.PEAT_CTRL_WIN_GIB then
    let u := t.wr pPEAT F.PEAT_STATUS_WIN_READY 0
    { u with peat := { u.peat with zeroing := true } }
  else t

/-- A write of PEAT_CTRL; a change of WIN_GIB starts the zeroing of the new window. -/
def execWinGibWrite (w : View) (ag v : Nat) (s : State) : Res :=
  .next (regWrite pPEAT 0x040 w ag v (winGibRange s) (winGibState s) noBusy (winGibTaken s) s)

/-- The runs of turves from `a` to `top` that a rising list does not name. -/
def gapRuns (top : Nat) : Nat → List Nat → List Run
  | a, [] => if a < top then [(a, top - a)] else []
  | a, t :: l => if a < t then (a, t - a) :: gapRuns top (t + 1) l else gapRuns top (max a (t + 1)) l

/-- The free ring rebuilt in ascending order, without the window, the turves in use, and those never to be allocated again. -/
def rebuildRing (s : State) : State :=
  let out := (s.peat.turf.entries.filterMap (fun (e : Nat × Turf) => if e.2.alloc then some e.1 else none) ++ s.peat.lost).mergeSort (· ≤ ·)
  syncTurf ((List.range 4).foldl (fun s _ => balanceTurf s)
    { s with peat := { s.peat with ring := gapRuns turfCount (firstTurf s) out, cache := [] } })

/-- The device takes ownership of lines of the window before it writes them (R514). -/
def ownLines (off lines : Nat) (s : State) : State :=
  if lines = 0 || !s.rdB pHIF F.HIF_LINK_HDM_COMMITTED then s else emit (.cxlOwn off lines) s

/-- The rows of the window are written, each once. -/
def zeroRows (s : State) : State :=
  let rows := 2 ^ 21 * s.rd pPEAT F.PEAT_CTRL_WIN_GIB / 2 ^ (s.rd pPEAT F.PEAT_GEOM_COL_BITS + s.rd pPEAT F.PEAT_GEOM_BANK_BITS)
  (List.range rows).foldl (fun s row => (List.range (16 * 2 ^ s.rd pPEAT F.PEAT_GEOM_BANK_BITS)).foldl (fun s k =>
    activate (bankIdx (k % 16) (k / 16)) row s) s) s

/-- The window is zeroed and the ring rebuilt. -/
def windowReady (s0 : State) : State :=
  let s := if s0.peat.zeroing then zeroRows (ownLines 0 (windowBytes (s0.rd pPEAT F.PEAT_CTRL_WIN_GIB) / 64) s0) else s0
  if !s.peat.zeroing then s
  else rebuildRing ({ s with peat := { s.peat with zeroing := false, mem := ⟨[]⟩, poison := [] } }.setF pPEAT F.PEAT_STATUS_WIN_READY)

def execWindowReady (s : State) : Res := .next (windowReady s)

/-- The canonical form of the window's bytes: addresses rise, and no listed byte is the 0 an unlisted one reads as. -/
def Memory.wf (m : SMap Byte) : Bool := m.wf && m.entries.all (fun e => e.2 != 0)

/-- Read and write one byte of the window; `n` bytes of it. DESIGN CHOICE (log entry 19). -/
def State.winByte (s : State) (a : Nat) : Byte := s.peat.mem.get 0 a
def winBytes (s : State) (a n : Nat) : List Byte := (List.range n).map (fun k => s.winByte (a + k))
def setWin (a : Nat) (d : List Byte) (s : State) : State :=
  { s with peat := { s.peat with mem := (d.zipIdx).foldl (fun (m : SMap Byte) (e : Byte × Nat) => m.put 0 (a + e.2) e.1) s.peat.mem } }

/-- The bytes a poisoned line comes with: the spec gives none. -/
def poisonBytes (s : State) : List Byte × State :=
  let f := nextFree s
  ((List.range 64).map (fun k => Config.badByte f.1 k), f.2)

/-- The window is there. -/
def winServed (s : State) : Bool := s.rdB pPEAT F.PEAT_STATUS_WIN_READY && dramAwake s

/-- A host access to one 64 B line at an offset of the committed HDM range: a read, or a write of 64 bytes. `late` marks one the controller did
not answer within MMIO_TO_US. DEDUCED (log entry 71). -/
def windowAccess (off : Nat) (data : Option (List Byte)) (late : Bool) (err : Option DramErr) (s : State) : State :=
  let a := off / 64 * 64
  let answer := fun (d : List Byte) (poison : Bool) (s : State) => emit (.cxlData off d poison) s
  if !s.rdB pHIF F.HIF_LINK_HDM_COMMITTED || s.hif.hdmSize < a + 64 || s.hif.hdmSize < a + 4096 + 64 then s
  else if windowBytes (s.rd pPEAT F.PEAT_CTRL_WIN_GIB) ≤ a then
    match data with
    | none => answer (List.replicate 64 0) false (count (cChip 98) s)
    | some _ => count (cChip 98) s
  else if !winServed s || !fabricOpen s || late then
    match data with
    | none => let p := poisonBytes s; answer p.1 true (count (cChip 97) p.2)
    | some _ => count (cChip 97) s
  else
    let s1 := touchTurf (a / 4096) (a % 4096) 64 s
    let s2 := match err with
      | some e => dramError 2 data.isSome e s1
      | none => s1
    let bad := failsAt err 0
    match data with
    | none =>
      if bad || s.peat.poison.contains (a / 64) then let p := poisonBytes s2; answer p.1 true p.2
      else answer (winBytes s2 a 64) false s2
    | some d =>
      if bad then { s2 with peat := { s2.peat with
        poison := if s2.peat.poison.contains (a / 64) then s2.peat.poison else a / 64 :: s2.peat.poison } }
      else setWin a (d.take 64) { s2 with peat := { s2.peat with poison := s2.peat.poison.filter (· != a / 64) } }

def execWindowAccess (off : Nat) (data : Option (List Byte)) (late : Bool) (err : Option DramErr) (s : State) : Res :=
  .next (windowAccess off data late err s)

/-! ### Commands (R356, R367) -/

/-- Fill PEAT_CMD_OUT. -/
def peatOut (code n : Nat) (s : State) : State := (s.wr pPEAT F.PEAT_CMD_OUT_CODE code).wr pPEAT F.PEAT_CMD_OUT_COUNT n

/-- A turf table entry as R341 lays it out. -/
def Turf.word (t : Turf) : Nat :=
  b2n t.alloc * 2 ^ 63 + b2n t.retire * 2 ^ 62 + t.owner % 256 * 2 ^ 54 + t.queue % 65536 * 2 ^ 38 + t.firstRec % 4096 * 2 ^ 26 + t.next % 2 ^ 25

/-- Put words into PEAT_DATA from word 0. -/
def peatData (l : List Nat) (s : State) : State := l.zipIdx.foldl (fun s (e : Nat × Nat) => s.wr pPEAT F.PEAT_DATA_DATA e.1 e.2) s

def execTurfRead (pg ag arg : Nat) (s : State) : Res :=
  .next (
    let t := s.rd pPEAT F.PEAT_CMD_TURF_TURF
    command pg ag 0x42 (pg = pPEAT && arg = 0) (stateIn s pPEAT [.ready, .run, .fenced])
      (fun s =>
        if turfCount ≤ t then (s.wr pPEAT F.PEAT_CMD_OUT_CODE rRANGE, rRANGE)
        else ((peatData [(s.turf t).word % 2 ^ 32, (s.turf t).word / 2 ^ 32] s).wr pPEAT F.PEAT_CMD_OUT_CODE rDONE, rDONE)) s)

/-- The sweep (R356): by queue, whose records then count in FLUSHED, or by owner tag. -/
def turfSweep (arg tag queue : Nat) (s : State) : State :=
  let mine := fun (t : Turf) => t.alloc && (if arg = 1 then t.queue = queue else t.owner = tag)
  let l := s.peat.turf.entries.filterMap (fun (e : Nat × Turf) => if mine e.2 then some e.1 else none)
  let s1 := l.foldl (fun s t => useTurf ((s.turf t).owner) (· - 1) (pushTurf t s)) s
  let s2 := if arg = 1 then
      let x := s1.queue queue
      leaveSpill queue ((x.peat.foldl (fun s y => dropRec queue 8 y s) s1).updQueue queue (fun x => { x with peat := [], turves := [], base := 0, wofs := 0 }))
    else s1
  peatOut rDONE l.length s2

/-- DEDUCED (log entry 70). -/
def execTurfSweep (pg ag arg : Nat) (s : State) : Res :=
  .next (
    let tag := s.rd pPEAT F.PEAT_CMD_SEL_TAG
    let range := pg = pPEAT && arg < 2 && (arg = 1 || tag != 0xFF)
    let state := stateIn s pPEAT [.ready, .run, .fenced]
    let t := commandLong pg ag 0x43 arg range state [tag, s.rd pPEAT F.PEAT_CMD_SEL_QUEUE] id s
    if pg = pPEAT && cmdCode s pg ag range state = rRANGE then t.wr pPEAT F.PEAT_CMD_OUT_CODE rRANGE else t)

def execQPeatRead (pg ag arg : Nat) (s : State) : Res :=
  .next (command pg ag 0x44 (pg = pPEAT) (stateIn s pPEAT [.ready, .run, .fenced])
    (fun s =>
      let x := s.queue arg
      ((peatData [x.turves.head?.getD 0, x.turves.getLast?.getD 0, x.peat.length, x.turves.length] s).wr pPEAT F.PEAT_CMD_OUT_CODE rDONE, rDONE)) s)

/-! ### Capture records (R272) -/

/-- A capture copy ends without a record. -/
def dropCapture (c : CapCopy) (s : State) : State := releaseCopy c.copy (count (cChip (16 + c.session)) s)

/-- The bytes of a capture: an ingress copy as received, an egress one as edited, each with its FCS. -/
def captureBytes (c : CapCopy) (x : Frame) : List Byte :=
  if c.egress then let b := padFrame x.edited; b ++ leBytes 4 (crc32 b) else asReceived x []

/-- The 16 B of a record's header, in little-endian bytes. -/
def captureHeader (c : CapCopy) (orig len : Nat) : List Byte :=
  leBytes 16 (2 ^ 127 + b2n c.egress * 2 ^ 126 + c.session % 16 * 2 ^ 122 + c.port % 64 * 2 ^ 116 + orig % 16384 * 2 ^ 98 + len % 16384 * 2 ^ 84 + u3Of c.time)

/-- A capture record stored in the window at `a`: its header and data, zeros up to `units` of 64 B, and no line of it poisoned any more (R272). -/
def captureStore (c : CapCopy) (d : List Byte) (len units a : Nat) (s : State) : State :=
  let b := captureHeader c d.length len ++ d.take len
  let s1 := setWin a (b ++ List.replicate (64 * units - b.length) 0) (ownLines a units s)
  let s2 := (List.range units).foldl (fun s k => touchTurf ((a + 64 * k) / 4096) ((a + 64 * k) % 4096) 64 s) s1
  { s2 with peat := { s2.peat with poison := s2.peat.poison.filter (fun l => l < a / 64 || a / 64 + units ≤ l) } }

/-- The oldest capture copy is written as a record, once its frame is whole. `ecc` is what the read of its cord meets (R230). -/
def captureWrite (ecc : Nat) (err : Option DramErr) (s : State) : State :=
  match (if fabricOpen s then s.peat.captures else []) with
  | [] => s
  | c :: t =>
    let s0 := readData c.copy.frame ecc { s with peat := { s.peat with captures := t } }
    match s.frames.find? c.copy.frame with
    | none => count (cChip (16 + c.session)) s0
    | some x =>
      let g := pRPL 0
      if oldGen s c.copy || (x.bad && !c.copy.late) || (x.complete && readBad ecc) || !(winServed s && s.rdB g F.RPL_CAP_CTRL_EN) then dropCapture c s0
      else if !x.complete then s
      else
        let d := captureBytes c x
        let tr := s.rd g F.RPL_MIR_B_TRUNC c.session
        let len := if tr = 0 then d.length else min d.length tr
        let units := (16 + len + 63) / 64
        let area := 64 * s.rd g F.RPL_CAP_SIZE_TURVES
        let at_ := s.rd g F.RPL_CAP_WPTR_WPTR
        let wraps := area < at_ + units
        if (wraps && !s.rdB g F.RPL_CAP_CTRL_WRAP) || area < units then dropCapture c (s0.setF g F.RPL_CAP_CTRL_FULL)
        else
          let p := if wraps then 0 else at_
          let a := 4096 * s.rd g F.RPL_CAP_BASE_TURF + 64 * p
          if failsAt err 0 then
            match err with
            | some e => dropCapture c (dramError 5 true e s0)
            | none => s
          else
            releaseCopy c.copy ((captureStore c d len units a s0).wr g F.RPL_CAP_WPTR_WPTR (p + units))

def execCaptureRecordWrite (ecc : Nat) (err : Option DramErr) (s : State) : Res := .next (captureWrite ecc err s)

end Sys2Proof.Machine
end

