-- ==== Sys2Proof/Machine/Streams.lean ====
section
/-! DEFINITION. The meanings of the steps of protected streams (R371 to R393): the twin copy's arrival, the timers of a recovery entry, and the
writes of recovery and identification entries. -/
namespace Sys2Proof.Machine

/-! ### The twin copy (R376, R377) -/

/-- Whether the blocks of a twin region take a copy: its port, parser and engine blocks are not fenced, in REINIT or halted. -/
def twinTaken (s : State) (r : Nat) : Bool :=
  [pPORT r, pPRS r, pENG r].all (fun pg => !stateIn s pg [.fenced, .reinit, .halted])

/-- A twin copy comes out of the crossbar: it is received at its region, or discarded there. -/
def twinArrival (f : Nat) (s : State) : State :=
  match s.frames.find? f with
  | none => s
  | some x =>
    if x.stage != .crossing || !stateIn s pXBAR [.ready, .run] then s
    else if twinTaken s x.region then s.updFrame f (fun x => { x with stage := .received })
    else
      let s1 := count (cStream (x.handle.getD 0) 0) s
      handOn x (s1.dropFrameRec f)

def execTwinArrival (f : Nat) (s : State) : Res := .next (twinArrival f s)

/-! ### Recovery entries -/

/-- The two queues of an entry. -/
def recQueues (s : State) (k : Nat) : List Nat := [s.rd (wRECOV k) F.REC_QUEUE, s.rd (wRECOV k) F.REC_TWIN_Q]

/-- The QSC page that owns an entry (R390). -/
def recPage (k : Nat) : Nat := pQSC (k / 1024)

/-- Decide the heads of a list of queues. -/
def settleAll (l : List Nat) (s : State) : State := l.foldl (fun s q => onQueue q (settle q) s) s

/-- The distance by which the head of a queue is early for an entry, with its sequence number (R380, R381). -/
def earlyHead (s : State) (k q : Nat) : Option (Nat × Nat) :=
  match (s.queue q).front with
  | [] => none
  | c :: _ =>
    match s.frames.find? c.frame with
    | none => none
    | some x => match x.handle, x.seq with
      | some h, some seq =>
        if h = s.rd (wRECOV k) F.REC_STREAM && c.recov.isNone then
          match decide380 false (s.rd (wRECOV k) F.REC_NEXT) (recHist s k) seq with
          | .early d => some (d, seq)
          | _ => none
        else none
      | _, _ => none

/-- The early head an ended hold releases: the one with the smaller d, QUEUE's when both have the same. -/
def releasedHead (s : State) (k : Nat) : Option (Nat × Nat × Nat) :=
  ((recQueues s k).filterMap (fun q => (earlyHead s k q).map (fun e => (q, e.1, e.2)))).foldl
    (fun m e => match m with
      | some b => if e.2.1 < b.2.1 then some e else some b
      | none => some e) none

/-- The hold of an entry ends (R381). DEDUCED (log entry 75). -/
def holdEnd (k : Nat) (s : State) : State :=
  if (s.rec_ k).holdAt.isNone || !s.rdB (wRECOV k) F.REC_VALID || stateIn s (recPage k) [.fenced, .reinit] then s
  else match releasedHead s k with
    | none => s.updRec k (fun x => { x with holdAt := none })
    | some (q, d, seq) =>
      settleAll (recQueues s k) (markDelivered q k (deliver380 k seq (setHist k ((recHist s k * 2 ^ d) % 2 ^ 64) (countBy (cRecov k 3) d s))))

def execRecoveryHoldExpiry (k : Nat) (s : State) : Res := .next (holdEnd k s)

/-- No copy of the entry has been delivered for RESET_MS (R383). -/
def execRecoveryResetTimeout (k : Nat) (s : State) : Res :=
  .next (if s.rdB (wRECOV k) F.REC_VALID && !stateIn s (recPage k) [.fenced, .reinit] then
      settleAll (recQueues s k) (s.setF (wRECOV k) F.REC_TAKE_ANY)
    else s)

/-- The latent error test of a period that ends (R387). -/
def latentCheck (k : Nat) (s : State) : State :=
  let w := wRECOV k
  if !s.rdB w F.REC_VALID then s
  else
    let x := s.rec_ k
    let s1 := s.updRec k (fun x => { x with passed := 0, discarded := 0 })
    if s.rd w F.REC_LATENT_DIFF + x.discarded < x.passed * (s.rd w F.REC_PATHS - 1) then
      srcEvent (regSource (k / 1024) 7) (s1.setF w F.REC_LATENT_ERR)
    else s1

def execLatentCheck (k : Nat) (s : State) : Res := .next (latentCheck k s)

/-- Whether a write may leave an entry valid (R378). -/
def recPairOk (s : State) (k : Nat) : Bool :=
  let w := wRECOV k
  let q := s.rd w F.REC_QUEUE
  let t := s.rd w F.REC_TWIN_Q
  q != t && s.qPort q = s.qPort t && s.qClass q = s.qClass t && s.qRegion q = k / 1024
    && (validRecov s).all (fun j => j = k || (recQueues s j).all (fun x => x != q && x != t))

/-- Whether a write of word 0 changes nothing but VALID to 0 (R384). -/
def onlyClears (s : State) (w : Nat) (valid : Field) (l : List NewVal) : Bool :=
  l.all (fun x => if x.f = valid then x.v = 0 else x.v = s.rd w x.f x.i x.j)

/-- A recovery entry becomes VALID only as one of a pair that may be (R378). -/
def recRange (s : State) (k word : Nat) (l : List NewVal) : Bool :=
  s.rdB (wRECOV k) F.REC_VALID || word != 0 || nv s (wRECOV k) l F.REC_VALID = 0 || recPairOk s k

/-- While an entry is VALID its words 0 to 3 take no change but the clearing of VALID. -/
def recState (s : State) (k word : Nat) (l : List NewVal) : Bool :=
  4 ≤ word || !s.rdB (wRECOV k) F.REC_VALID || (word = 0 && onlyClears s (wRECOV k) F.REC_VALID l)

/-- What follows: an entry that becomes VALID takes any sequence number first and starts a period of R387; one that is no longer VALID holds
nothing back. -/
def recTaken (s : State) (k : Nat) (_ : List NewVal) (t : State) : State :=
  let was := s.rdB (wRECOV k) F.REC_VALID
  let now := t.rdB (wRECOV k) F.REC_VALID
  if now && !was then
    settleAll (recQueues t k) ((t.setF (wRECOV k) F.REC_TAKE_ANY).updRec k (fun x => { x with passed := 0, discarded := 0 }))
  else if was && !now then settleAll (recQueues t k) (t.updRec k (fun x => { x with holdAt := none }))
  else t

/-- A write to word `word` of recovery entry `k` (R378, R383, R384, R392). -/
def recWrite (k word ag v : Nat) (s : State) : State :=
  entryWrite (recPage k) (wRECOV k) .recov (4 * word) (0x8A0000 + 32 * k + 4 * word) ag v
    (recRange s k word) (recState s k word) (recTaken s k) s

def execRecoveryEntryWrite (k word ag v : Nat) (s : State) : Res := .next (recWrite k word ag v s)

/-! ### Identification entries (R391) -/

/-- The checks of an identification entry's values: METHOD is defined, and a VALID entry's port and twin suit its region. DEDUCED (log entry 74). -/
def idRange (s : State) (h : Nat) (l : List NewVal) : Bool :=
  let w := wIDENT h
  nv s w l F.ID_METHOD < 4
    && (nv s w l F.ID_VALID = 0 || (nv s w l F.ID_PORT < 48 && portRegion (nv s w l F.ID_PORT) = h / 1024))
    && (nv s w l F.ID_TWIN_EN = 0 || nv s w l F.ID_TWIN_REGION != h / 1024)

/-- While an entry is VALID its words 1 to 12 do not change. -/
def idState (s : State) (h word : Nat) (_ : List NewVal) : Bool := word = 0 || 12 < word || !s.rdB (wIDENT h) F.ID_VALID

/-- A write to word `word` of identification entry `h`. A METHOD of 4 to 7 is out of its range. -/
def idWrite (h word ag v : Nat) (s : State) : State :=
  entryWrite (pPORT (h / 1024)) (wIDENT h) .ident (4 * word) (0x8C0000 + 64 * h + 4 * word) ag v (idRange s h) (idState s h word) noEff s

def execIdEntryWrite (h word ag v : Nat) (s : State) : Res := .next (idWrite h word ag v s)

end Sys2Proof.Machine
end

