-- ==== Sys2Proof/Machine/TimeOps.lean ====
section
/-! DEFINITION. The time unit's shared operations (R394 to R442): segments of a scale, the servo, steps and switches of the selected time, banked
time, the oscillator model, and the schedules of outputs and triggers. -/
namespace Sys2Proof.Machine

/-! ### Segments (R397, R408) -/

/-- Start a new segment of a domain at the present instant. -/
def rebaseDom (d : Nat) (s : State) : State :=
  s.updDom d (fun x => { x with baseN := x.fine s.now, baseL := s.now, rhoAcc := x.rhoAcc + x.rho * (s.now - x.rhoAt : Nat), rhoAt := s.now })

/-- ρ as a register shows it: whole ppt, rounded towards zero (R405). DEDUCED (log entry 76). -/
def wholePpt (rho : Int) : Int := rho.tdiv 65536

/-- A domain's rate and integral change. -/
def setRate (d : Nat) (rho integ : Int) (s : State) : State :=
  ((rebaseDom d s).updDom d (fun x => { x with rho := rho, integ := integ })).wrS pTIME F.DOM_RATE_RATE (wholePpt rho) d

/-- P at the present instant becomes `v`. -/
def setPhase (v : Int) (s : State) : State :=
  ({ s with time := { s.time with pN := v, pL := s.now } }).wr pTIME F.TIME_STATUS_SLEWING (b2n (v != 0))

/-- P as it stands becomes the start of its further slew. -/
def rebasePhase (s : State) : State := setPhase (s.phase s.now) s

/-! ### Schedules on S (R434, R437 to R439) -/

/-- The schedule of timed output `n`; none while it is disabled, or its trigger is. -/
def toutPlan (s : State) (n : Nat) : Option Plan :=
  if !s.rdB pTIME F.TOUT_CFG_EN n then none
  else
    let st : Int := timeOf (s.rd pTIME F.TOUT_START_SEC_HI_SEC_HI n * 2 ^ 32 + s.rd pTIME F.TOUT_START_SEC_LO_SEC_LO n) (s.rd pTIME F.TOUT_START_NS_NS n) 0
    match s.rd pTIME F.TOUT_CFG_MODE n with
    | 0 => some ⟨st, none⟩
    | 1 => some ⟨st, some (s.rd pTIME F.TOUT_PERIOD_PERIOD n * nsU)⟩
    | _ => (trigPlan s (s.rd pTIME F.TOUT_CFG_TRIG n)).map (fun p => { p with start := p.start + s.rdS pTIME F.TOUT_OFFSET_OFFSET n * nsU })

/-- A schedule as a delivery leaves it: its next instant is the first after the present one; a once-mode instant already passed is done. -/
def Plan.fresh (p : Plan) (t : Int) : Sched :=
  match p.period with
  | some per => { next := indexAfter p.start per t }
  | none => { done := p.start ≤ t }

/-- A schedule after its instant has come. -/
def Plan.fired (p : Plan) (c : Sched) : Sched :=
  { next := c.next + 1, last := some (p.instant c).toNat, done := p.period.isNone }

/-- A schedule after S stepped from `old` to `new`: the schedule, the instants skipped, and whether a once-mode instant was passed. -/
def Plan.stepped (p : Plan) (c : Sched) (old new : Int) : Sched × Nat × Bool :=
  match p.period with
  | some per =>
    let t := match c.last with
      | some l => max new l
      | none => new
    let n := indexAfter p.start per t
    ({ c with next := n }, n - c.next, false)
  | none => if !c.done && old < p.start && p.start ≤ new then ({ c with done := true }, 0, true) else (c, 0, false)

def State.toutS (s : State) (n : Nat) : Sched := s.time.toutS.get {} n
def setToutS (n : Nat) (c : Sched) (s : State) : State := { s with time := { s.time with toutS := s.time.toutS.put {} n c } }
def setTrigS (n : Nat) (c : Sched) (s : State) : State := { s with time := { s.time with trigS := s.time.trigS.put {} n c } }
def setTout (n : Nat) (v : Bool) (s : State) : State := { s with time := { s.time with tout := s.time.tout.put false n v } }

/-- A once-mode timed output is too late (R435, R439). -/
def toutLate (n : Nat) (s : State) : State := srcEvent 327 (s.setF pTIME F.TOUT_CFG_LATE n)

/-- The schedule of a timed output starts anew. -/
def freshTout (n : Nat) (s : State) : State :=
  match toutPlan s n with
  | none => setToutS n {} s
  | some p =>
    let c := p.fresh s.sNow
    setToutS n c (if c.done && s.rd pTIME F.TOUT_CFG_MODE n = 0 then toutLate n s else s)

/-- A write to a timed output is delivered (R435): a pulse in progress completes, also where the write sets EN to 0. DEDUCED (log entry 141). -/
def toutDelivered (n : Nat) (s : State) : State := freshTout n s

/-- A write to a trigger is delivered (R438); the outputs it times follow its new schedule. -/
def trigDelivered (n : Nat) (s : State) : State :=
  let s1 := s.wr pTIME F.TRIG_COUNT_COUNT 0 n
  let s2 := match trigPlan s1 n with
    | none => setTrigS n {} s1
    | some p =>
      let c := p.fresh s1.sNow
      setTrigS n c (if c.done then s1.setF pTIME F.TRIG_COUNT_LATE n else s1)
  (List.range 8).foldl (fun s k =>
    if s.rd pTIME F.TOUT_CFG_MODE k = 2 && s.rd pTIME F.TOUT_CFG_TRIG k = n then freshTout k s else s) s2

/-- Every schedule after S stepped (R439). -/
def stepSchedules (old new : Nat) (s : State) : State :=
  let s1 := (List.range 8).foldl (fun s n => match trigPlan s n with
    | none => s
    | some p =>
      let q := p.stepped (s.trigS n) old new
      let t := (setTrigS n q.1 s).addSat pTIME F.TRIG_COUNT_SKIP q.2.1 n
      let u := t.wr pTIME F.TRIG_COUNT_COUNT ((t.rd pTIME F.TRIG_COUNT_COUNT n + q.2.1) % t.rd pTIME F.TRIG_CFG_MODULUS n) n
      if q.2.2 then u.setF pTIME F.TRIG_COUNT_LATE n else u) s
  (List.range 8).foldl (fun s n => match toutPlan s n with
    | none => s
    | some p =>
      let q := p.stepped (s.toutS n) old new
      let t := (setToutS n q.1 s).addSat pTIME F.TOUT_CFG_SKIP q.2.1 n
      if q.2.2 && t.rd pTIME F.TOUT_CFG_MODE n = 0 then toutLate n t else t) s1

/-! ### Steps of S (R331, R381, R406, R439, R576) -/

/-- Whether the transmission of a port would run past its gate's close and cannot be preempted (R331). -/
def overruns (s : State) (p : Nat) : Bool :=
  match (s.port p).cur with
  | none => false
  | some t =>
    let left := txLeft s p t
    let gone := (s.now - t.startL) * s.rate p / (8 * usU)
    t.cutAt.isNone &&
      (!gateOpen s p t.cls || (match gateCloses s p t.cls s.sNow with
        | some x => x < s.sNow + wireTime (s.rate p) (left + 20 - gone)
        | none => false))

/-- A port finds its place again after S stepped by `d`. -/
def stepPort (p : Nat) (d : Int) (s : State) : State :=
  let s1 := s.updPort p (fun x => { x with cur := x.cur.map (fun t => { t with startT := ((t.startT : Int) + d).toNat }) })
  let s2 := match s1.takeoverAt p with
    | some t => if t ≤ s1.sNow then takeover p t s1 else s1
    | none => s1
  let l := operList s2 p
  let s3 := if l.aligned.isSome then
      let n := l.cycleNo s2.sNow
      s2.updGate p (fun x => { x with fires := n, cyc := (l.start + n * l.cycle).toNat })
    else s2
  let s4 := gateChange p (planCut p s3)
  if overruns s4 p then s4.setF (pPORT (portRegion p)) F.GATE_EVENT_STEP_OVERRUN (portCell p) else s4

/-- A change that steps S, with all that a step of S does. -/
def stepS (f : State → State) (s : State) : State :=
  let s0 := (List.range 48).foldl (fun s p => refreshPort p s) s
  let old := s0.sNow
  let s1 := f s0
  let new := s1.sNow
  let shp := s1.shapers.entries.map (fun (e : Nat × Shaper) => (e.1, { e.2 with at_ := new }))
  let s2 := ({ s1 with shapers := ⟨shp⟩ }).setF pTIME F.TIME_EVENT_STEP_SEEN
  let s3 := (validRecov s2).foldl (fun s k => match (s.rec_ k).holdAt with
    | some h => if old < new && h + s.rd (wRECOV k) F.REC_HOLD * 10 * nsU ≤ new then holdEnd k s else s
    | none => s) s2
  stepSchedules old new ((List.range 48).foldl (fun s p => stepPort p ((new : Int) - old) s) s3)

/-! ### The model (R420 to R423) -/

/-- ρ_model at a temperature in 1/16 °C, in 1/65,536 ppt, rounded down. -/
def modelRho (m : Model) (theta : Int) (sec : Nat) : Int :=
  let d := theta - m.theta0
  -- over the common denominator 4,096 · 86,400 of 1/65,536 ppt
  (m.c0 * 64 * 4096 * 86400 + m.c1 * d * 256 * 86400 + m.c2 * d * d * 86400 + m.a * ((sec : Int) - m.t0) * 4096) / (4096 * 86400)

/-- LEARN_H of the model. -/
def Model.hours (m : Model) : Nat := min 65535 (m.steps / 3600)

def modelOk (s : State) : Bool := s.rd pTIME F.BANK_CFG_MIN_LEARN_H ≤ s.time.model.hours && s.time.everLocked

/-- Whether learning runs. -/
def learning (s : State) : Bool := !s.banked && s.domState s.selDom = dLOCKED && !s.rdB pTIME F.BANK_STATUS_TEMP_STALE

/-- Bring the status bits of the time unit up to its state. -/
def syncTime (s : State) : State :=
  let s1 := s.wr pTIME F.BANK_STATUS_MODEL_OK (b2n (modelOk s))
  let s2 := s1.wr pTIME F.BANK_STATUS_LEARNING (b2n (learning s))
  s2.wr pTIME F.BANK_STATUS_LEARN_H s.time.model.hours

/-! ### Banked time (R424 to R427) -/

/-- Show BANK_ELAPSED. -/
def syncElapsed (s : State) : State :=
  if s.banked then s.wr pTIME F.BANK_ELAPSED_SECONDS ((s.now - s.time.bankFrom) / secU) else s

/-- Choose ρ_bank at an evaluation; a change starts a new segment of S. -/
def chooseBank (theta : Int) (s : State) : State :=
  let use_ := s.rdB pTIME F.BANK_CFG_MODEL_USE && modelOk s
  let rho := if use_ then modelRho s.time.model theta (tSec s.sNow) else s.time.heldRho
  let s1 := s.wr pTIME F.BANK_STATUS_LAST_RATE (b2n !use_)
  if rho = s1.time.bankRho then s1
  else { s1 with time := { s1.time with bankN := s1.selFine s1.now, bankL := s1.now, bankRho := rho } }

/-- Time is banked. -/
def bankStart (s : State) : State :=
  let rho := (s.dom s.selDom).rho
  let s1 := { s with time := { s.time with bankN := s.selFine s.now, bankL := s.now, bankRho := rho, heldRho := rho, bankFrom := s.now } }
  let s2 := (s1.wr pTIME F.TIME_STATUS_BANKED 1).wr pTIME F.BANK_ELAPSED_SECONDS 0
  let s3 := chooseBank (toSigned 16 (s2.rd pTIME F.BANK_THETA_THETA)) s2
  syncTime (ledgerEvent 0x07 0 (hourEvent 5 (srcEvent 325 s3)))

/-- Banked time ends with domain `y` selected. DEDUCED (log entry 78). -/
def bankEnd (y : Nat) (s : State) : State :=
  let s0 := syncElapsed s
  let fine := s0.selFine s0.now
  let clear := fun (p : Int) (s : State) =>
    setPhase p (({ s with time := { s.time with ppsHeld := false } }.wr pTIME F.TIME_STATUS_BANKED 0).wr pTIME F.TIME_STATUS_SEL_DOM y)
  let s1 := if s0.rdB pTIME F.TIME_SEL_SEL_STEP_EN then stepS (clear 0) s0 else clear (fine - (s0.dom y).fine s0.now) s0
  syncTime (ledgerEvent 0x08 (s1.rd pTIME F.BANK_ELAPSED_SECONDS) (srcEvent 325 s1))

/-! ### The selection (R408, R409) -/

/-- A switch is counted. -/
def noteSwitch (s : State) : State :=
  withLine 324 (fun s => s.setF pTIME F.TIME_EVENT_SWITCH_SEEN) (s.addSat pTIME F.TIME_EVENT_SWITCH_CNT)

/-- The selected domain changes while time is not banked; S is continuous. -/
def switchTo (y : Nat) (s : State) : State :=
  noteSwitch (syncTime (setPhase (s.selFine s.now - (s.dom y).fine s.now) (s.wr pTIME F.TIME_STATUS_SEL_DOM y)))

/-- What the states of the domains make of the selection: banked time ends or starts, or the automatic switch is made. -/
def checkSelect (s : State) : State :=
  let x := s.selDom
  let y := 1 - x
  let auto_ := s.rdB pTIME F.TIME_SEL_AUTO_SEL
  if s.banked then
    if s.domState x = dLOCKED then bankEnd x s
    else if auto_ && s.domState y = dLOCKED then noteSwitch (bankEnd y s)
    else syncTime s
  else if auto_ && s.domState x != dLOCKED && s.domState y = dLOCKED then switchTo y s
  else if s.domState x = dLOST && s.domState y != dLOCKED then bankStart s
  else syncTime s

/-- A domain enters a state (R403). -/
def enterDom (d st : Nat) (s : State) : State :=
  if s.domState d = st then s
  else
    let s1 := srcEvent 323 (s.wr pTIME (if d = 0 then F.TIME_STATUS_DOM_A_STATE else F.TIME_STATUS_DOM_B_STATE) st)
    let s2 := if st = dLOST then s1.setF pTIME (if d = 0 then F.TIME_EVENT_A_LOST else F.TIME_EVENT_B_LOST) else s1
    if st = dLOCKED then { s2 with time := { s2.time with everLocked := true } } else s2

/-! ### Steps of a domain (R406) -/

/-- Move a domain's time by an amount in the units of `Dom.baseN`. -/
def moveDom (d : Nat) (x : Int) (s : State) : State := (rebaseDom d s).updDom d (fun y => { y with baseN := y.baseN + x })

/-- A step of a domain, and what S does. -/
def stepDom (d : Nat) (x : Int) (s : State) : State :=
  if d != s.selDom || s.banked then moveDom d x s
  else if s.rdB pTIME F.TIME_SEL_SEL_STEP_EN then stepS (moveDom d x) s
  else setPhase (s.phase s.now - x) (moveDom d x s)

/-! ### The servo (R404, R405) -/

/-- The part of the servo that leaves the step out: rate, integral, run and state. -/
def steer (d : Nat) (o : Int) (s : State) : State :=
  let x := s.dom d
  let lim : Int := s.rd pTIME F.DOM_RATE_LIM_MAX_RATE d * 1000 * 65536
  let i := clampInt (-lim) lim (x.integ - s.rd pTIME F.DOM_GAIN_KI d * o)
  let r := clampInt (-lim) lim (i - s.rd pTIME F.DOM_GAIN_KP d * o)
  let s1 := setRate d r i s
  if s.domState d = dACQUIRING then
    let n := if (o.natAbs : Nat) ≤ s.rd pTIME F.DOM_THRESH_LOCK_TH d * nsU then x.run + 1 else 0
    let s2 := s1.updDom d (fun y => { y with run := n })
    if s.rd pTIME F.DOM_THRESH_LOCK_CNT d ≤ n then enterDom d dLOCKED s2 else s2
  else if s.rd pTIME F.DOM_THRESH_UNLOCK_TH d * nsU < o.natAbs then
    enterDom d dACQUIRING (s1.updDom d (fun y => { y with run := 0 }))
  else s1

/-- The servo of a domain processes an accepted sample, in 1/65,536 ns. -/
def servo (d : Nat) (o : Int) (s : State) : State :=
  let s1 := if s.domState d = dFREERUN || s.domState d = dLOST then
      enterDom d dACQUIRING (s.updDom d (fun y => { y with run := 0 })) else s
  let s2 := s1.wrS pTIME F.DOM_OFS_LAST_OFS (clampInt (-(2 ^ 31)) (2 ^ 31 - 1) o) d
  let s3 := if s2.domState d = dACQUIRING && s2.rd pTIME F.DOM_STEP_STEP_TH d * nsU < o.natAbs then
      (stepDom d (-o * timeDen) s2).updDom d (fun y => { y with run := 0 })
    else steer d o s2
  checkSelect s3

/-- A sample whose instant on the local counter was `l` reaches the servo: in READY, FENCED and REINIT, and after a write of R407 that its
instant precedes, it is discarded. -/
def sample (d l : Nat) (o : Int) (s : State) : State :=
  if s.domState d = dOFF then s
  else if !s.inState pTIME .run || l < (s.dom d).writtenAt then count (cChip (64 + d)) s
  else servo d o s

/-- An event's time in a domain's scale, captured in steps of 1/64 ns and corrected (R400, R401). -/
def capturedIn (s : State) (d l : Nat) (fix : Int) : Nat := moveTime ((s.dom d).time l / 1024 * 1024) fix

/-! ### Deliveries (R66) -/

/-- A domain is enabled or turned off (R403). -/
def domDelivered (d : Nat) (was : Bool) (s : State) : State :=
  let on := s.rdB pTIME F.DOM_CFG_EN d
  if on && !was then checkSelect (enterDom d dFREERUN s)
  else if !on && was then checkSelect (enterDom d dOFF (s.updDom d (fun x => { x with wait := [], run := 0 })))
  else s

/-- DOM_RATE is delivered (R405, R407). -/
def rateDelivered (d : Nat) (s : State) : State :=
  let r := s.rdS pTIME F.DOM_RATE_RATE d * 65536
  (setRate d r r s).updDom d (fun x => { x with writtenAt := s.now })

end Sys2Proof.Machine
end

