-- ==== Sys2Proof/Machine/PairOps.lean ====
section
/-! DEFINITION. The mate pair's shared operations (R443 to R469), escalation (R481), the reset of an agent (R486), and taking back what a party
holds (R483, R484). -/
namespace Sys2Proof.Machine

/-! ### Fence sweeps (R483, R484) -/

/-- The billets of a region allocated under an owner tag, by local index. -/
def ownedBillets (s : State) (r tag : Nat) : List Nat :=
  s.buf.link.entries.filterMap (fun (e : Nat × Link) =>
    if billetRegion e.1 = r && e.2.alloc && e.2.owner = tag then some (billetLocal e.1) else none)

/-- Fix the set a fence sweep of a tag frees, in a region. DEDUCED (log entry 57). -/
def addSweep (tag r : Nat) (s : State) : State :=
  match ownedBillets s r tag with
  | [] => s
  | l => s.updPool r (fun p => { p with sweeps := p.sweeps ++ [(tag, l)] })

/-- The same in every region. -/
def sweepTag (tag : Nat) (s : State) : State := (List.range 4).foldl (fun s r => addSweep tag r s) s

/-- The frames of a party that are not admitted are ended bad; their billets are left to the sweep. -/
def endArrivals (mine : Frame → Bool) (s : State) : State :=
  { s with frames := ⟨s.frames.entries.map (fun (e : Nat × Frame) =>
      if mine e.2 && e.2.stage != .admitted then
        (e.1, { e.2 with bad := true, complete := true, head := none
                         bytes := if e.2.complete then e.2.bytes else e.2.bytes ++ [0, 0, 0, 0] })
      else e)⟩ }

/-! ### The pair lock (R460) -/

/-- MATE_ID of this device, and a mate frame's eight payload bytes: what it is (0 a request, 1 its answer, 2 a change), who, and a word. -/
def State.mateId (s : State) : Nat := s.rd pMATE F.MATE_STATUS_MATE_ID
def plPayload (what who v : Nat) : List Byte := beBytes 1 what ++ beBytes 1 who ++ [0, 0] ++ beBytes 4 v

/-- What is left of the pair lock's lease, in whole µs, a fraction as one more, as BLK_LOCK shows it. DESIGN CHOICE (log entry 123). -/
def PairLock.left (l : PairLock) (s : State) : Nat := (l.leaseEnd - s.now + usU - 1) / usU

/-- Set the pair lock and show it. -/
def setPlock (l : Option PairLock) (s : State) : State :=
  let s1 := { s with mate := { s.mate with plock := l } }
  let s2 := s1.wr pMATE F.MATE_PLOCK_HELD (b2n l.isSome)
  let s3 := s2.wr pMATE F.MATE_PLOCK_OWNER_DEV ((l.map (·.dev)).getD 0)
  let s4 := s3.wr pMATE F.MATE_PLOCK_OWNER ((l.map (·.owner)).getD 0)
  s4.wr pMATE F.MATE_PLOCK_LEASE ((l.map (·.left s)).getD 0)

/-- Send a change of the pair lock to the peer: a lease of 0 says that it is free. -/
def plMirror (s : State) : State :=
  if s.mateMode = 0 then s
  else match s.mate.plock with
    | some l => mateSend 4 0 0 (plPayload 2 (16 * l.dev + l.owner) (l.left s)) s
    | none => mateSend 4 0 0 (plPayload 2 0 0) s

/-- The outcome of a write of MATE_PLOCK by agent `ag` of device `dev`, as R70 gives it for BLK_LOCK. -/
def plDecide (dev ag v : Nat) (s : State) : State × Nat :=
  let acq := v.testBit 30
  let rel := v.testBit 29
  let lease := v % 2 ^ 20
  if (acq && rel) || (acq && (lease = 0 || 1000000 < lease)) then (s, rRANGE)
  else if acq then
    if (match s.mate.plock with | some l => l.dev = dev && l.owner = ag | none => true) then
      (plMirror (setPlock (some ⟨dev, ag, s.now + lease * usU⟩) s), rDONE)
    else (s, rLOCKED)
  else if rel then
    if (match s.mate.plock with | some l => l.dev = dev && l.owner = ag | none => false) then (plMirror (setPlock none s), rDONE)
    else (s, rOWNER)
  else (s, rDONE)

/-! ### The reset of an agent (R486) -/

/-- Every BLK_LOCK and the pair lock the agent owns here are released, and the shadows it wrote since the last commit points dropped.
DEDUCED (log entry 15). -/
def agentReset (ag : Nat) (s : State) : State :=
  let s1 := allPages.foldl (fun s p =>
    dropShadowsOf p ag (if (s.page p).lock.any (fun l => l.owner = ag) then s.updPage p (fun h => { h with lock := none }) else s)) s
  if s1.mate.plock.any (fun l => l.dev = s1.mateId && l.owner = ag) then plMirror (setPlock none s1) else s1

/-! ### Mate forwarding (R450) -/

/-- Whether mate forwarding is active. -/
def fwdOn (s : State) : Bool :=
  s.inState pMATE .run && (s.mateMode = 1 || s.mateMode = 2) && mateUp s && matePresent s && !s.rdB pMATE F.MATE_STATUS_FWD_HOLD

/-- The queues that valid entries name. -/
def fwdQueues (s : State) : List Nat :=
  (List.range 256).filterMap (fun k => if s.rdB pMATE F.MATE_FWD_0_VALID k then some (s.rd pMATE F.MATE_FWD_0_LOCAL_Q k) else none)

/-- The copy on the mate link when forwarding stops is lost. -/
def abortMate (s : State) : State :=
  match s.mate.cur with
  | some (_, c, _) => releaseCopy c (count (cChip 81) { s with mate := { s.mate with cur := none } })
  | none => s

/-- A change of anything forwarding depends on, and what the queues concerned make of it: a queue that leaves or comes under the mate link's
care meets its port's state. -/
def withFwd (f : State → State) (s : State) : State :=
  let s0 := (fwdQueues s).foldl (fun s q => refreshOf q s) s
  let t0 := f s0
  let t := t0.wr pMATE F.MATE_STATUS_FWD_ACTIVE (b2n (fwdOn t0))
  let t1 := if fwdOn t then t else abortMate t
  (fwdQueues s ++ fwdQueues t).eraseDups.foldl (fun u q =>
    let was := forwarded s q
    let is_ := forwarded t q
    if was = is_ then u
    else if !u.portUp (u.qPort q) then
      refreshOf q (if was then queueDown q u else queueReturn q u)
    else onQueue q (settle q) u) t1

/-! ### Roles and the claim (R444, R453, R454, R466) -/

def setRole (r : Nat) (s : State) : State := s.wr pMATE F.MATE_STATUS_ROLE r

/-- The role without a claim: SOLE in MODE 0, in MODE 2 by the grant while the block runs, else STANDBY. -/
def restRole (s : State) : Nat :=
  if s.mateMode = 0 then 0
  else if s.mateMode = 2 && s.inState pMATE .run && s.rdB pMATE F.MATE_STATUS_ARB_GRANT && !s.mate.barred then 3
  else 1

/-- The claim is released: the functions first, then the pin (R454). -/
def dropClaim (s : State) : State :=
  let s1 := { s with mate := { s.mate with claim := .idle } }
  (setRole (restRole s1) s1).wr pMATE F.MATE_STATUS_CLAIM_OUT 0

/-- ARB_STATUS_OUT (R466). -/
def arbStatusOut (s : State) : Bool :=
  s.inState pMATE .run && !allPages.any (fun p => (s.page p).escalated)
    && (s.rdB pMATE F.MATE_STATUS_PATH_A_OK || s.rdB pMATE F.MATE_STATUS_PATH_B_OK)

/-! ### Takeover (R462, R463) -/

/-- Step 5 on policers: the lesser of the own tokens and the peer's. -/
def adoptPolicers (s : State) : State :=
  (List.range (s.rd pMATE F.MATE_POL_MIR_POL_COUNT)).foldl (fun s k =>
    let n := s.rd pMATE F.MATE_POL_MIR_POL_BASE + k
    match s.mate.peerPol.find? n with
    | some (tc, tp) =>
      let x := (s.policer n).fill s.now
      s.setPolicer n { x with tc := min x.tc (tc * 1024), tp := min x.tp (tp * 1024) }
    | none => s) s

/-- Step 5 on servos: a domain that is OFF or LOST takes the rate of the peer's LOCKED one. -/
def adoptServos (s : State) : State :=
  if !s.rdB pMATE F.MATE_CFG_ADOPT_SERVO then s
  else [0, 1].foldl (fun s d =>
    let st := s.domState d
    if (st = dOFF || st = dLOST) && s.rd pMATE F.MATE_PEER_SERVO_DATA d 2 % 8 = dLOCKED then
      (setRate d (toSigned 32 (s.rd pMATE F.MATE_PEER_SERVO_DATA d 0) * 65536) (toSigned 32 (s.rd pMATE F.MATE_PEER_SERVO_DATA d 1) * 65536) s).updDom d
        (fun x => { x with writtenAt := s.now })
    else s) s

/-- Steps 5 and 6 of a takeover; the time from step 1 is the silicon's. In arbiter mode step 6 is not run. -/
def takeoverEnd (s : State) : State :=
  let s1 := adoptServos (adoptPolicers { s with mate := { s.mate with taking := false } })
  let s2 := if s1.mateMode = 1 then
      let f := nextFree s1
      srcEvent 333 (f.2.wr pMATE F.MATE_TAKEOVER_LAST_TAKEOVER (Config.takeoverTicks f.1 % 65536))
    else s1
  ledgerEvent 0x02 (s2.rd pMATE F.MATE_TAKEOVER_LAST_TAKEOVER) s2

/-- Step 1 of a takeover: forwarding stops for good, and what the mate and the lost device held is taken back (R460, R483, R486).
DESIGN CHOICE (log entry 26). -/
def takeoverBegin (s : State) : State :=
  let s1 := withFwd (fun s => s.wr pMATE F.MATE_STATUS_FWD_HOLD 1) s
  let s2 := (s1.setF pMATE F.MATE_EVENT_TAKEOVER_SEEN).addSat pMATE F.MATE_EVENT_TAKEOVER_CNT
  let s3 := agentReset 13 (sweepTag 0xA0 (endArrivals (fun x => x.src = .mate) (hourEvent 0 s2)))
  let s4 := if s3.mate.plock.any (fun l => l.dev != s3.mateId) then setPlock none s3 else s3
  { s4 with mate := { s4.mate with taken := true } }

/-- A claim starts (R453). -/
def claimStart (s : State) : State := setRole 2 { s with mate := { s.mate with claim := .waiting } }

/-- A takeover in MODE 1 (R462): the claim it starts ends it later. -/
def takeover1 (s : State) : State :=
  let s1 := takeoverBegin s
  if s1.rdB pMATE F.MATE_CFG_AUTO_TAKEOVER && s1.role = 1 then claimStart { s1 with mate := { s1.mate with taking := true } }
  else if s1.mate.claim != .idle then { s1 with mate := { s1.mate with taking := true } }
  else takeoverEnd s1

/-! ### Resynchronisation (R459) -/

/-- The walk of the learned groups starts. -/
def resync (s : State) : State := { s with mate := { s.mate with walk := some 0 } }.wr pMATE F.MATE_STATUS_RESYNC_ACTIVE 1

/-- One step of the walk: the next learned group of this device's own ports is sent to the peer; it ends past the last one. DEDUCED (log
entry 86). -/
def resyncStep (s : State) : State :=
  match s.mate.walk with
  | none => s
  | some n =>
    match s.tab.groups.entries.find? (fun e => n ≤ e.1 && isLearned e.2.action && !e.2.mate) with
    | some e => mateSend 2 0 0 (beBytes 16 (learnWord e.2.key 1 (actionPort e.2.action) e.2.ts true false e.1))
        { s with mate := { s.mate with walk := some (e.1 + 1) } }
    | none => { s with mate := { s.mate with walk := none } }.wr pMATE F.MATE_STATUS_RESYNC_ACTIVE 0

/-- Nothing is commanded: the local counter advances, and a walk that resynchronises the peer goes on. DESIGN CHOICE (log entry 2). -/
def idle (s : State) : State := resyncStep (localTick s)

/-! ### The block's states (R467) -/

/-- The claim and the single-owner functions are given up, in MODE 2 whatever ARB_GRANT_IN shows (R458, R467, R577). -/
def releaseFns (s : State) : State := setRole (if s.mateMode = 0 then 0 else 1) (dropClaim s)

/-- The mate interface leaves RUN. -/
def mateStop (s : State) : State :=
  withFwd (fun s => releaseFns { s with mate := { s.mate with taking := false, failing := false } }) s

/-- BLOCK_RUN of the mate interface: no heartbeat has come yet. -/
def mateRun (s : State) : State :=
  withFwd (fun s =>
    let s1 := { s with mate := { s.mate with pathA := {}, pathB := {}, hb := none, mismatch := 0, claim := .idle, taking := false } }
    let s2 := ((s1.wr pMATE F.MATE_STATUS_PATH_A_OK 0).wr pMATE F.MATE_STATUS_PATH_B_OK 0).wr pMATE F.MATE_STATUS_PEER_STATE 0
    setRole (restRole s2) (s2.updPage pMATE (fun h => { h with substate := 0 }))) s

/-- The mate interface comes back to RUN from FENCED or HALTED: its paths were watched meanwhile, and what R577 finds of the peer or of the
grant starts a takeover. -/
def mateBack (halted : Bool) (s : State) : State :=
  withFwd (fun s =>
    if s.mateMode = 1 then
      let s1 := setRole 1 s
      if (s.peerState = 3 || s.peerState = 4) && !s.rdB pMATE F.MATE_EVENT_ID_CONFLICT then takeover1 s1 else s1
    else if s.mateMode = 2 && halted && restRole s = 3 then takeoverEnd (setRole 3 (takeoverBegin s))
    else setRole (restRole s) s) s

/-! ### Escalation (R481, R482) -/

/-- An error of a block is escalated; in a pair the mate interface then sends FAIL. -/
def escalate (pg : Nat) (s : State) : State :=
  let s1 := ledgerEvent 0x01 pg (hourEvent 1 (report pg .escalated s))
  if s1.mateMode != 0 && s1.inState pMATE .run then { s1 with mate := { s1.mate with failing := true } } else s1

end Sys2Proof.Machine
end

