-- ==== Sys2Proof/Machine/FenceOps.lean ====
section
/-! DEFINITION. Fences, revocation and recovery (R65, R470 to R487): what a block loses when its cells stop, how it comes back, and the fence and
restart of a region. -/
namespace Sys2Proof.Machine

/-! ### What the cells of a block lose when they stop (R101, R222, R275, R366, R467, R483 to R485) -/

/-- The decisions of an arbiter lapse (R286). -/
def lapse (x : Arb) : Arb := { x with decided := [], granted := none }
def lapseArbs (l : List Nat) (s : State) : State := l.foldl (fun s a => s.setArb a (lapse (s.arb a))) s
def lapsePorts (r : Nat) (s : State) : State :=
  (List.range 12).foldl (fun s i => s.updPort (12 * r + i) (fun x => { x with arb := lapse x.arb, groups := x.groups.map lapse })) s

/-- The shapers of a region brought up to the present, transmissions in progress among them. -/
def refreshRegion (r : Nat) (s : State) : State :=
  (s.shapers.keys.filter (fun j => j / 2048 = r)).foldl (fun s j => storeCredit j s) s

/-- The transmission of a port ends at once, stomped (R89). -/
def stompPort (p : Nat) (s : State) : State :=
  match (s.port p).cur with
  | some t => endFrame p { t with stomp := true } s
  | none => s

/-- A committed gate list that has not come is cancelled with its commit (R65). -/
def cancelGates (r : Nat) (s : State) : State :=
  (List.range 12).foldl (fun s i =>
    (s.updGate (12 * r + i) (fun x => { x with takeover := none })).wr (pPORT r) F.GATE_STATUS_TAKEOVER_PENDING 0 i) s

/-- A port block: no frame is sent or received; receptions are cut short, transmissions stomped, unadmitted frames ended. -/
def portLosses (r : Nat) (s : State) : State :=
  let ps := (List.range 12).map (fun i => 12 * r + i)
  let s1 := ps.foldl (fun s p => endHeld p (stompPort p (abortReceptions p s))) (fencePorts r s)
  let s2 := endArrivals (fun x => (x.src = .front || x.src = .twin) && portRegion x.port = r) s1
  let s3 := ps.foldl (fun s p => (sweepTag p s).updPort p (fun x => { x with disabling := false })) s2
  syncTrig (cancelGates r (lapsePorts r s3))

/-- An engine block: every routine is abandoned, edit billets not yet linked are swept and their frames with them, the debug
agent is reset. DEDUCED (log entry 42). -/
def engLosses (r : Nat) (s : State) : State :=
  let l := s.eng.ctx.entries.filterMap (fun (e : Nat × Ctx) => if e.1 / 128 = r && e.2.busy then some e.1 else none)
  let fs := s.frames.entries.filterMap (fun (e : Nat × Frame) =>
    if e.2.region = r && e.2.stage = .done && e.2.edit.isSome then some e.1 else none)
  let s1 := fs.foldl (fun s f => dropTurn f s) (l.foldl (fun s i => abandon (i / 8) (i % 8) s) s)
  agentReset 15 ((List.range 16).foldl (fun s e => addSweep (0x40 + 16 * r + e) r s) s1)

/-- What a block loses at its fence, or as it passes through REINIT. -/
def blockLosses (pg : Nat) (s : State) : State :=
  let r := pageRegion pg
  match pageBlk pg with
  | some .port => portLosses r s
  | some .eng => engLosses r s
  | some .qsc =>
    let s1 := { refreshRegion r s with qscWin := s.qscWin.upd (0, 0) r (fun w => (0, w.2)) }
    lapsePorts r { s1 with peat := { s1.peat with started := s1.peat.started.filter (fun _ e => s1.qRegion e.1 != r) } }
  | some .buf => lapseArbs [80 + r] s
  | some .xbar => lapseArbs ((List.range 8).map (64 + ·)) s
  | some .sfab => lapseArbs ((List.range 8).map (96 + ·) ++ (List.range 8).map (112 + ·)) s
  | some .peat => lapseArbs [121] (sweepTag 0x80 { s with peat := { s.peat with started := ⟨[]⟩ } })
  | some .mate => agentReset 13 (sweepTag 0xA0 (endArrivals (fun x => x.src = .mate) (mateStop s)))
  | _ => s

/-- The cells of a block stop: its running command ends in STATE, shadows and a pending commit are discarded (R65, R126). -/
def blockStops (pg : Nat) (s : State) : State :=
  let s1 := finishCmd pg rSTATE (blockLosses pg s)
  dropShadows pg (s1.updPage pg (fun h => { h with commitPending := false, resumes := true
                                                   substate := if pageBlk pg = some .prs || pageBlk pg = some .lkp || pageBlk pg = some .buf then 0 else h.substate }))

/-- The channels enter self-refresh, the turf cache written back before, or leave it (R366). -/
def peatSleep (b : BlkState) (s : State) : State :=
  let sr := b = .fenced || b = .reinit || b = .halted
  let up := (List.range 16).filter (fun k => s.rdB pPEAT F.PEAT_CH_STAT_UP k)
  let s1 := (up.foldl (fun s k => s.wr pPEAT F.PEAT_CH_STAT_SR (b2n sr) k) s).wr pPEAT F.PEAT_STATUS_SR (b2n (sr && !up.isEmpty))
  if sr then { s1 with peat := { s1.peat with ring := s1.peat.ring ++ s1.peat.cache, cache := [] } } else s1

/-- The scratch words of a region are 0 (R178). -/
def clearScratch (r : Nat) (s : State) : State :=
  { s with eng := { s.eng with scratch := s.eng.scratch.filter (fun k _ => k / 64 != r) } }

/-- The state of a page changes, and what shows it is brought up to it; an engine block that enters REINIT loses its scratch words. -/
def setState (pg : Nat) (b : BlkState) (s : State) : State :=
  let s0 := s.updPage pg (fun h => { h with state := b })
  let s1 := if b = .reinit && isBlk pg .eng then clearScratch (pageRegion pg) s0 else s0
  if pg = pPEAT then (s1.queues.keys.filter (fun q => (s1.queue q).spill)).foldl (fun s q => syncQueue q s) (peatSleep b s1)
  else if pg = pHIF then s1.updPage pHIF (fun h => { h with substate := s1.rd pHIF F.HIF_LINK_LINK_MODE })
  else s1

/-- A block enters FENCED. DEDUCED (log entry 92). -/
def enterFenced (pg cause : Nat) (s : State) : State :=
  let h := s.page pg
  let b := if h.state = .ready || h.state = .run then h.state else h.before
  let s1 := blockStops pg s
  let s2 := setState pg .fenced (s1.updPage pg (fun h => { h with before := b, fenceCause := cause }))
  if pg = pMATE then withFwd id s2 else s2

/-! ### Coming back (R59, R101, R304, R474, R537) -/

/-- A block enters READY or RUN. -/
def enterState (pg : Nat) (b : BlkState) (s : State) : State :=
  let r := pageRegion pg
  let again := (s.page pg).resumes
  let s1 := setState pg b (s.updPage pg (fun h => { h with resumes := if b = .run then false else h.resumes }))
  match pageBlk pg with
  | some .port => if b = .run && again then resumePorts r s1 else s1
  | some .qsc =>
    let s2 := { s1 with shapers := ⟨s1.shapers.entries.map (fun (e : Nat × Shaper) =>
      if e.1 / 2048 = r && again then (e.1, { e.2 with at_ := s1.sNow }) else e)⟩ }
    settleAll ((knownQueues s2).filter (fun q => s2.qRegion q = r)) s2
  | some .mate =>
    if b != .run then s1 else if (s.page pg).state = .ready then mateRun s1 else mateBack ((s.page pg).state = .halted) s1
  | _ => s1

/-- What a block does as it leaves REINIT: the time unit goes back to TIME_CLK (R396), recovery takes any number next (R383), the interrupt
stacks are empty (R537). -/
def leaveReinit (pg : Nat) (s : State) : State :=
  match pageBlk pg with
  | some .time => { s with time := { s.time with onSerdes := false } }
  | some .int => emptyStacks s
  | some .eng => clearScratch (pageRegion pg) s
  | some .qsc => ((List.range 1024).filter (fun k => !s.rdB (wRECOV (1024 * pageRegion pg + k)) F.REC_TAKE_ANY)).foldl
      (fun s k => s.setF (wRECOV (1024 * pageRegion pg + k)) F.REC_TAKE_ANY) s
  | _ => s

/-- The recovery of a block without software (R474); one that R475 names stays FENCED. DEDUCED (log entry 89). -/
def recoverBlock (pg : Nat) (s : State) : State :=
  let h := s.page pg
  if pageBlk pg = some .eng && (s.rdB pg F.ENG_CS_ERR_UNREPAIRED || s.rdB pg F.ENG_CS_ERR_STUCK) then s
  else (enterState pg h.before (leaveReinit pg s)).updPage pg (fun h => { h with returnedAt := some s.now })

/-! ### The fence and restart of a region (R477 to R480) -/

/-- A region's pool rebuilt: every billet free but the retired ones; each cache holds 128, the ring the rest. -/
def Pool.fresh (retired : List Nat) : Pool :=
  let all := gapRuns 65536 0 (retired.mergeSort (· ≤ ·))
  let a := splitRuns 128 all
  let b := splitRuns 128 a.2
  let c := splitRuns 128 b.2
  let d := splitRuns 128 c.2
  { Pool.empty with ring := d.2, caches := [a.1, b.1, c.1, d.1], retired := retired }

/-- The transmissions of copies of a region's cords end stomped (R479). -/
def stompCopies (r : Nat) (s : State) : State :=
  let mine : State → Copy → Bool := fun s c => match s.frames.find? c.frame with | some x => x.region = r | none => false
  let s1 := s.ports.keys.foldl (fun s p =>
    let s1 := match (s.port p).cur with
      | some t => if mine s t.copy then stompPort p s else s
      | none => s
    match (s1.port p).held with
    | some t => if mine s1 t.copy then endHeld p s1 else s1
    | none => s1) s
  match s1.mate.cur with
  | some (_, c, _) => if mine s1 c then abortMate s1 else s1
  | none => s1

/-- The frames of a slice are gone; a twin copy on its way to it is counted (R377), and a TX slot that waits for its frame is told.
DEDUCED (log entry 91). -/
def loseFrames (r : Nat) (s : State) : State :=
  let l := s.frames.entries.filter (fun (e : Nat × Frame) => e.2.region = r)
  l.foldl (fun s (e : Nat × Frame) =>
    let s1 := if e.2.stage = .crossing then count (cStream (e.2.handle.getD 0) 0) s else s
    let s2 := if e.2.ring.isSome && (e.2.tsReq || e.2.stage != .admitted) then txReport e.1 1 0x0A none s1 else s1
    s2.dropFrameRec e.1) s

/-- Every count of a slice is 0 (R478 step 3). -/
def clearCounts (r : Nat) (s : State) : State :=
  let g := pBUF r
  let s1 := (List.range 52).foldl (fun s i => (s.wr g F.BUF_USE_USE_LO 0 i).wr g F.BUF_USE_USE_HI 0 i) s
  let s2 := (List.range 48).foldl (fun s p => s.wr g (drainUseF p) 0 (p / 4)) s1
  let s3 := ((s2.wr g F.BUF_HELD_PC_COUNT 0).wr g F.BUF_HELD_ENG_COUNT 0).wr g F.BUF_HELD_HM_COUNT 0
  syncShared r (s3.wr g F.BUF_USE_REFILL_COUNT 0)

/-- The slice of a region is rebuilt with its generation advanced, its routines and scratch words gone. -/
def rebuildSlice (r : Nat) (s : State) : State :=
  let s1 := loseFrames r (stompCopies r s)
  let keep := fun (b : Nat) => billetRegion b != r
  let s2 := { s1 with
    buf := { s1.buf with link := s1.buf.link.filter (fun b _ => keep b), head := s1.buf.head.filter (fun b _ => keep b) }
    eng := { s1.eng with
      ctx := s1.eng.ctx.filter (fun k _ => k / 128 != r)
      scratch := s1.eng.scratch.filter (fun k _ => k / 64 != r) } }
  let s3 := s2.updPool r (fun p => { Pool.fresh p.retired with gen := (p.gen + 1) % 16, round := p.round, restartedAt := p.restartedAt, fenced := p.fenced })
  clearCounts r (syncFree r (syncEng r s3))

/-- Whether another region is fenced. -/
def otherFenced (s : State) (r : Nat) : Bool := (List.range 4).any (fun q => q != r && (s.pool q).fenced)

/-- A block comes back from its region's fence to what it was before, `was` being its page then: one that stood fenced by software or a vote
stays so, for its own cause (R475). -/
def afterRegion (p : Nat) (was : Page) (s : State) : State :=
  if was.state = .ready || was.state = .run || was.fenceCause = 1 || was.fenceCause = 5 then enterState p (s.page p).before s
  else setState p was.state (s.updPage p (fun h => { h with fenceCause := was.fenceCause }))

/-- A region is fenced on account of block `pg`, and restarted where R480 does not keep it fenced. DEDUCED (log entry 90). -/
def regionFence (pg r : Nat) (s : State) : State :=
  let s1 := (regionPages r).foldl (fun s p => enterFenced p 4 (report p .contained s)) s
  let early : Bool := match (s1.pool r).restartedAt with
    | some t => s1.now < t + 10 * msU
    | none => false
  if early then escalate pg (s1.updPool r (fun p => { p with fenced := true }))
  else
    let s2 := rebuildSlice r s1
    let s3 := (regionPages r).foldl (fun t p => afterRegion p (s.page p) t) s2
    let s4 := settleAll (knownQueues s3) (s3.updPool r (fun p => { p with restartedAt := some s3.now }))
    if otherFenced s4 r then escalate pg s4 else s4

/-! ### A cell that gives up (R28, R473 to R477) -/

/-- A block whose cell failed its retries is fenced and recovered; one that comes back from a recovery too lately takes its region, or is
escalated. -/
def blockFault (pg cause : Nat) (s : State) : State :=
  let recent : Bool := match (s.page pg).returnedAt with
    | some t => s.now < t + msU
    | none => false
  let s1 := enterFenced pg cause (report pg .contained s)
  if !recent then recoverBlock pg s1
  else if pg < 0x010 || otherFenced s1 (pageRegion pg) then escalate pg s1
  else regionFence pg (pageRegion pg) s1

/-- A handshake of a cell of block `pg` with one of block `other` times out; `fails` counts the timeouts of the operation, its retries
included. The cells of a block that is stopped handshake with none; one of the crossbar or the service fabric that fails its retries as the
block comes back from a fence is escalated (R481). -/
def handshakeTimeout (pg other fails : Nat) (s : State) : State :=
  if stateIn s pg [.reset, .fenced, .halted] then s
  else
    let s1 := (report pg .noted s).updPage pg (fun h => { h with lastCode := rTIMEOUT })
    if fails < 3 then s1
    else if !stateIn s pg [.ready, .run] then (if (pg = pXBAR || pg = pSFAB) && s.inState pg .reinit then escalate pg s1 else s1)
    else if 0x010 ≤ pg && 0x010 ≤ other && other != pg && pageRegion pg = pageRegion other then regionFence pg (pageRegion pg) s1
    else blockFault pg (if other = pg then 5 else 1) s1

/-- An arbiter's round; an uncorrectable error in a region's link and descriptor memory outside a single entry fences the region (R477). -/
def execArbitrationRound (a : Nat) (reqs : List Nat) (err : Nat) (s : State) : Res :=
  .next (if 80 ≤ a && a < 84 && err = 3 then
      (if stateIn s (pBUF (a - 80)) [.ready, .run] then regionFence (pBUF (a - 80)) (a - 80) s else s)
    else arbRound a reqs err s)

/-- The background sweep frees what is left of a set fixed at a fence (R484): the billets still allocated under the tag. -/
def fenceSweep (r : Nat) (s : State) : State :=
  match (s.pool r).sweeps with
  | [] => s
  | (tag, l) :: t =>
    let s1 := l.foldl (fun s b =>
      if (s.link (65536 * r + b)).alloc && (s.link (65536 * r + b)).owner = tag then freeBillet (65536 * r + b) s else s) s
    (exchange (cordLost s1)).updPool r (fun p => { p with sweeps := t })

end Sys2Proof.Machine
end

