-- ==== Sys2Proof/WellFormed.lean ====
section
/-! DEFINITION. The ranges a command's operands are drawn from: agents (R15), pages (R49), ports, queues and the like. -/
namespace Sys2Proof

/-- An agent of R15: the numbers 8 to 11 are reserved. -/
def agOk (ag : Nat) : Bool := ag < 8 || (12 ≤ ag && ag < 16)
/-- A register page of R49: chip-level pages 0 to 10, and the seven slots of each region. -/
def pgOk (pg : Nat) : Bool := pg < 11 || (16 ≤ pg && pg < 80 && pg % 16 < 7)
/-- A value of a 32-bit write. -/
def wordOk (v : Nat) : Bool := v < 2 ^ 32
/-- A BLK_CMD argument. -/
def argOk (a : Nat) : Bool := a < 65536
/-- A front-panel port (R21). -/
def portOk (p : Nat) : Bool := p < 48
/-- A front-panel or management port as the statistics window numbers them (R555). -/
def portMOk (p : Nat) : Bool := p < 50
/-- A region. -/
def regionOk (r : Nat) : Bool := r < 4
/-- A queue. -/
def queueOk (q : Nat) : Bool := q < 65536

/-- An error of the LPDDR6 memory: a kind of R364, a channel and a unit of 32 B in it (R337). -/
def errOk (e : Option DramErr) : Bool :=
  match e with
  | some x => x.kind < 3 && x.ch < 16 && x.unit < 2 ^ 28
  | none => true


/-- What a board may show: two strap bits, a flash of at most 2^32 bytes, sixteen channels. -/
def boardOk (b : Board) : Bool := b.bootMode < 4 && b.clk < 3 && b.flashSize ≤ 2 ^ 32 && b.lpFail < 65536

/-- Whether the operands of a command are within the ranges the part has. -/
def Instr.wf : Instr → Bool
  | .registerWrite pg off _ ag width v => pgOk pg && off < 4096 && agOk ag && (width = 1 || width = 2 || width = 4 || width = 8) && v < 2 ^ (8 * width)
  | .reservedPageWrite pg ag => pg < 4096 && agOk ag
  | .windowWrite addr ag width v => addr < 0x4000000 && agOk ag && (width = 1 || width = 2 || width = 4 || width = 8) && v < 2 ^ (8 * width)
  | .cmdNop pg ag arg => pgOk pg && agOk ag && argOk arg
  | .reinit pg ag arg => pgOk pg && agOk ag && argOk arg
  | .fence pg ag arg => pgOk pg && agOk ag && argOk arg
  | .release pg ag arg => pgOk pg && agOk ag && argOk arg
  | .scrub pg ag arg _ => pgOk pg && agOk ag && argOk arg
  | .discard pg ag arg => pgOk pg && agOk ag && argOk arg
  | .blockRun pg ag arg => pgOk pg && agOk ag && argOk arg
  | .blockStop pg ag arg => pgOk pg && agOk ag && argOk arg
  | .blockStopComplete pg => pgOk pg
  | .commitGo pg ag v => pgOk pg && agOk ag && wordOk v
  | .commitApply pg kind => pgOk pg && kind < 2
  | .lockAcquire pg ag lease => pgOk pg && agOk ag && lease < 2 ^ 20
  | .lockRelease pg ag => pgOk pg && agOk ag
  | .leaseExpiry pg _ => pgOk pg
  | .postedDelivery pg => pgOk pg
  | .scrubPass _ => true
  | .handshakeTimeout pg between fails => pgOk pg && between < 3 && fails < 3
  | .fenceSweep r => regionOk r
  | .speedSample r _ => regionOk r
  | .avsEval => true
  | .avsEnable ag v mode vout acks => agOk ag && wordOk v && mode < 256 && vout < 65536 && acks < 4
  | .pmbusNack => true
  | .minRearm ag v => agOk ag && wordOk v
  | .quadModeWrite r q _ ag v => regionOk r && q < 3 && agOk ag && wordOk v
  | .quadLaneWrite r q _ ag v => regionOk r && q < 3 && agOk ag && wordOk v
  | .rawLinkFail p cause => portMOk p && cause < 4
  | .rawLinkGood p => portMOk p
  | .downFilterExpiry p => portMOk p
  | .upFilterExpiry p => portMOk p
  | .trainingComplete p _ => portMOk p
  | .anFail p => portMOk p
  | .linkFilterWrite p _ ag v => portMOk p && agOk ag && wordOk v
  | .frameReceive p _ _ _ _ _ _ => portOk p
  | .verifyTimeout p => portOk p
  | .verifyResponseRx p => portOk p
  | .verifyMpacketRx p => portOk p
  | .rclkCtrlWrite k _ ag v => k < 2 && agOk ag && wordOk v
  | .portEnable pg ag arg => pgOk pg && agOk ag && argOk arg
  | .portDisable pg ag arg => pgOk pg && agOk ag && argOk arg
  | .portDisableDone p => portOk p
  | .portRetrain pg ag arg => pgOk pg && agOk ag && argOk arg
  | .parseFrame _ => true
  | .tailArrival p _ _ _ => portOk p
  | .nodeWrite pg ag arg => pgOk pg && agOk ag && argOk arg
  | .nodeRead pg ag arg => pgOk pg && agOk ag && argOk arg
  | .treeWalkComplete e c _ _ => e < 64 && c < 8
  | .treeSwap pg ag arg => pgOk pg && agOk ag && argOk arg
  | .treeSwapRootSwitch r => regionOk r
  | .emLookupComplete e c _ _ => e < 64 && c < 8
  | .lpmLookupComplete e c _ _ => e < 64 && c < 8
  | .sequencerInsert _ => true
  | .sequencerDelete _ => true
  | .tick => true
  | .agerVisit _ _ => true
  | .emInsert pg ag arg _ => pgOk pg && agOk ag && argOk arg
  | .emDelete pg ag arg _ => pgOk pg && agOk ag && argOk arg
  | .emSearch pg ag arg _ => pgOk pg && agOk ag && argOk arg
  | .emRead pg ag arg _ => pgOk pg && agOk ag && argOk arg
  | .lpmWrite pg ag arg => pgOk pg && agOk ag && argOk arg
  | .lpmRead pg ag arg _ => pgOk pg && agOk ag && argOk arg
  | .tableClear pg ag arg => pgOk pg && agOk ag && argOk arg
  | .dispatch r => regionOk r
  | .eventRoutineDispatch r => regionOk r
  | .opNop e c => e < 64 && c < 8
  | .opRetire e c => e < 64 && c < 8
  | .opDropr e c => e < 64 && c < 8
  | .opTrapSlow e c => e < 64 && c < 8
  | .opBrk e c => e < 64 && c < 8
  | .opCall e c => e < 64 && c < 8
  | .opRetn e c => e < 64 && c < 8
  | .opJind e c => e < 64 && c < 8
  | .opMov e c => e < 64 && c < 8
  | .opAdd e c => e < 64 && c < 8
  | .opSub e c => e < 64 && c < 8
  | .opAnd e c => e < 64 && c < 8
  | .opOr e c => e < 64 && c < 8
  | .opXor e c => e < 64 && c < 8
  | .opAndn e c => e < 64 && c < 8
  | .opShl e c => e < 64 && c < 8
  | .opShr e c => e < 64 && c < 8
  | .opSar e c => e < 64 && c < 8
  | .opRotl e c => e < 64 && c < 8
  | .opMin e c => e < 64 && c < 8
  | .opMax e c => e < 64 && c < 8
  | .opCmp e c => e < 64 && c < 8
  | .opTst e c => e < 64 && c < 8
  | .opMul e c => e < 64 && c < 8
  | .opExt e c => e < 64 && c < 8
  | .opIns e c => e < 64 && c < 8
  | .opBswap e c => e < 64 && c < 8
  | .opClz e c => e < 64 && c < 8
  | .opPopc e c => e < 64 && c < 8
  | .opHash e c => e < 64 && c < 8
  | .opHrd e c => e < 64 && c < 8
  | .opHwr e c => e < 64 && c < 8
  | .opHins e c => e < 64 && c < 8
  | .opHdel e c => e < 64 && c < 8
  | .opHfix e c => e < 64 && c < 8
  | .opKclr e c => e < 64 && c < 8
  | .opKput e c => e < 64 && c < 8
  | .opKhdr e c => e < 64 && c < 8
  | .opLem e c => e < 64 && c < 8
  | .opLpm e c => e < 64 && c < 8
  | .opLtree e c => e < 64 && c < 8
  | .opWait e c => e < 64 && c < 8
  | .opWaitm e c => e < 64 && c < 8
  | .opTrel e c => e < 64 && c < 8
  | .opSetv e c => e < 64 && c < 8
  | .opCnt e c => e < 64 && c < 8
  | .opSld e c => e < 64 && c < 8
  | .opSst e c => e < 64 && c < 8
  | .opSadd e c => e < 64 && c < 8
  | .routineLimit e c => e < 64 && c < 8
  | .machineCheck e c => e < 64 && c < 8
  | .pcntOverflow e n => e < 64 && n < 8
  | .overflowCapture e c => e < 64 && c < 8
  | .cntSnap pg ag arg => pgOk pg && agOk ag && argOk arg
  | .engCntClear pg ag arg => pgOk pg && agOk ag && argOk arg
  | .csScrub pg ag arg => pgOk pg && agOk ag && argOk arg
  | .dbgResume pg ag arg => pgOk pg && agOk ag && argOk arg
  | .csWindowWrite r w q ag v => regionOk r && w < 4608 && q < 4 && agOk ag && wordOk v
  | .injParWrite r _ ag v => regionOk r && agOk ag && wordOk v
  | .samplePop r => regionOk r
  | .dbgWordWrite r _ ag v => regionOk r && agOk ag && wordOk v
  | .scratchLoRead r k ag => regionOk r && k < 64 && agOk ag
  | .scratchLoWrite r k _ ag v => regionOk r && k < 64 && agOk ag && wordOk v
  | .scratchHiWrite r k _ ag v => regionOk r && k < 64 && agOk ag && wordOk v
  | .arbitrationRound a _ err => a < 122 && err < 81
  | .refcntInc r _ err => regionOk r && err < 5
  | .refcntDec r _ err => regionOk r && err < 5
  | .cordFreeWalk r _ tag _ => regionOk r && tag < 256
  | .linkRead pg ag arg err => pgOk pg && agOk ag && argOk arg && err < 5
  | .cordFree pg ag arg _ => pgOk pg && agOk ag && argOk arg
  | .ownerSweep pg ag arg => pgOk pg && agOk ag && argOk arg
  | .admission _ => true
  | .queueEntryWrite q word ag v => q < 65536 && word < 16 && agOk ag && wordOk v
  | .holdExpiry q => q < 65536
  | .qFlush pg ag arg err => pgOk pg && agOk ag && argOk arg && errOk err
  | .hamperWrite pg ag arg => pgOk pg && agOk ag && argOk arg
  | .hamperRead pg ag arg => pgOk pg && agOk ag && argOk arg
  | .capReset pg ag arg => pgOk pg && agOk ag && argOk arg
  | .captureRecordWrite ecc err => ecc < 81 && errOk err
  | .queueSample r => regionOk r
  | .transmitStart p err => portOk p && err < 81
  | .transmitEnd p => portOk p
  | .shaperUpdate j => j < 8192
  | .starvationFlag a k => a < 120 && k < 65536
  | .shaperSelect r _ ag v => regionOk r && agOk ag && wordOk v
  | .polWrite pg ag arg => pgOk pg && agOk ag && argOk arg
  | .polRead pg ag arg => pgOk pg && agOk ag && argOk arg
  | .sfWrite pg ag arg => pgOk pg && agOk ag && argOk arg
  | .sfRead pg ag arg => pgOk pg && agOk ag && argOk arg
  | .sfUnblock pg ag arg => pgOk pg && agOk ag && argOk arg
  | .gateEntryChange p => portOk p
  | .gateTakeover p => portOk p
  | .gateListWrite p b k ag v => portOk p && b < 2 && k < 256 && agOk ag && wordOk v
  | .spillWrite q ecc err => q < 65536 && ecc < 81 && errOk err
  | .drainRecord r err => regionOk r && errOk err
  | .perBankRefresh ch => ch < 16
  | .refreshRatePoll ch rate => ch < 16 && rate < 8
  | .activateTableClear ch bank => ch < 16 && bank < 32
  | .neighbourRefresh ch bank row => ch < 16 && bank < 32 && row < 262144
  | .patrolRead err => errOk err
  | .winGibWrite _ ag v => agOk ag && wordOk v
  | .windowReady => true
  | .turfRead pg ag arg => pgOk pg && agOk ag && argOk arg
  | .turfSweep pg ag arg => pgOk pg && agOk ag && argOk arg
  | .qPeatRead pg ag arg => pgOk pg && agOk ag && argOk arg
  | .windowAccess off _ _ err => off < 2 ^ 40 && errOk err
  | .twinArrival _ => true
  | .recoveryHoldExpiry k => k < 4096
  | .recoveryResetTimeout k => k < 4096
  | .latentCheck k => k < 4096
  | .recoveryEntryWrite k word ag v => k < 4096 && word < 8 && agOk ag && wordOk v
  | .idEntryWrite h word ag v => h < 4096 && word < 16 && agOk ag && wordOk v
  | .syncSample d p _ _ => d < 2 && portOk p
  | .followUpRx d p _ => d < 2 && portOk p
  | .followUpTimeout d seqId => d < 2 && seqId < 65536
  | .hostOffsetWrite d _ ag v => d < 2 && agOk ag && wordOk v
  | .domainLossTimeout d => d < 2
  | .revertTimer => true
  | .slewEnd => true
  | .timeClkLoss => true
  | .tsCalDone p => portOk p
  | .timeSet pg ag arg => pgOk pg && agOk ag && argOk arg
  | .timeAdj pg ag arg => pgOk pg && agOk ag && argOk arg
  | .select pg ag arg => pgOk pg && agOk ag && argOk arg
  | .timeSnap pg ag arg => pgOk pg && agOk ag && argOk arg
  | .servoReset pg ag arg => pgOk pg && agOk ag && argOk arg
  | .domRateWrite d _ ag v => d < 2 && agOk ag && wordOk v
  | .domainEnable d _ ag v => d < 2 && agOk ag && wordOk v
  | .modelEvaluate theta => -32768 ≤ theta && theta < 32768
  | .modelLearn theta => -32768 ≤ theta && theta < 32768
  | .tempStaleTimeout => true
  | .bankExpiry => true
  | .modelSnap pg ag arg => pgOk pg && agOk ag && argOk arg
  | .modelLoad pg ag arg => pgOk pg && agOk ag && argOk arg
  | .modelClear pg ag arg => pgOk pg && agOk ag && argOk arg
  | .modelSave pg ag arg => pgOk pg && agOk ag && argOk arg
  | .ppsInEdge _ _ => true
  | .ppsOutEdge _ => true
  | .toutEdge n _ => n < 8
  | .tinEdge k _ _ => k < 4
  | .tinPop k => k < 4
  | .cycleTriggerFire n => n < 8
  | .trigWrite n off _ ag v => n < 8 && off < 0x14 && off % 4 = 0 && agOk ag && wordOk v
  | .mateModeWrite _ ag v => agOk ag && wordOk v
  | .heartbeatSend => true
  | .heartbeatRx path word _ => path < 2 && word < 2 ^ 64
  | .pathLoss path => path < 2
  | .claim pg ag arg => pgOk pg && agOk ag && argOk arg
  | .claimAssert => true
  | .claimGuardExpiry => true
  | .claimInChange _ => true
  | .claimBlockedTimeout => true
  | .mateRelease pg ag arg => pgOk pg && agOk ag && argOk arg
  | .rejoin pg ag arg => pgOk pg && agOk ag && argOk arg
  | .resync pg ag arg => pgOk pg && agOk ag && argOk arg
  | .mateLinkUp => true
  | .arbGrantChange _ => true
  | .failHeartbeatEnd => true
  | .mateDataFrameRx tc q data _ => tc < 8 && queueOk q && 60 ≤ data.length && data.length ≤ 9724
  | .mateMirrorRecordRx rec_ _ => rec_ < 2 ^ 128
  | .mateLearnEventRx rec_ _ => rec_ < 2 ^ 128
  | .plockFrameRx data _ => data.length = 8
  | .gateCommitRx data _ => data.length < 16384
  | .servoSnapshotRx data _ => data.length < 16384
  | .agerTouchRx data _ => data.length < 16384
  | .snapshotSend => true
  | .agerTouchSend => true
  | .plockAcquire _ ag v => agOk ag && wordOk v
  | .plockRelease _ ag v => agOk ag && wordOk v
  | .plockTimeout => true
  | .mateFwdWrite k half _ ag v => k < 256 && half < 2 && agOk ag && wordOk v
  | .mmioTimeout _ => true
  | .ringDoorbell n ag v => n < 4096 && agOk ag && wordOk v
  | .rxRingDelivery => true
  | .rxSlotWrite n addr len ecc => n < 4096 && addr < 2 ^ 64 && len < 16384 && ecc < 81
  | .txDescriptorFetch n len dest ctrl tc _ data => n < 4096 && len < 65536 && dest < 65536 && ctrl < 256 && tc < 256 && data.length = len
  | .txCompletion n => n < 4096
  | .recordRingWrite => true
  | .ringEntryWrite n k ag v => n < 4096 && k < 16 && agOk ag && wordOk v
  | .dmaError n kind _ => n < 4096 && 1 ≤ kind && kind ≤ 5
  | .hostSnoop n i => n < 4096 && i < 65536
  | .lineWriteback n i => n < 4096 && i < 65536
  | .cacheFlush pg ag arg => pgOk pg && agOk ag && argOk arg
  | .hdmCommit size => size < 2 ^ 52
  | .timeWindowRead k => k < 64
  | .bar2TimeRead f off len => f < 8 && off < 4096 && len ≤ 64
  | .timeWindowWrite => true
  | .msixPartitionWrite f _ ag v => f < 8 && agOk ag && wordOk v
  | .mgmtFrameRx m data _ => m < 2 && data.length < 16384
  | .mgmtModeWrite m _ ag v => m < 2 && agOk ag && wordOk v
  | .hostLinkReset => true
  | .functionLevelReset f => f < 8
  | .interruptEvent n => n < 2048
  | .levelDeassert n => n < 2048
  | .interruptDelivery t => t < 258
  | .intClaimRead t ag _ => t < 258 && agOk ag
  | .intComplete t ag _ v => t < 258 && agOk ag && wordOk v
  | .holdoffExpiry g => g < 64
  | .stackClear pg ag arg => pgOk pg && agOk ag && argOk arg
  | .fire n ag v => n < 2048 && agOk ag && wordOk v
  | .intSourceWrite n k ag v => n < 2048 && k < 8 && agOk ag && wordOk v
  | .powerFailAssert => true
  | .powerFailDeassert => true
  | .watchedWake k => k < 64
  | .smoulderEnter pg ag arg => pgOk pg && agOk ag && argOk arg
  | .smoulderExit pg ag arg => pgOk pg && agOk ag && argOk arg
  | .vcoreStep => true
  | .smoulderEntryDone => true
  | .smoulderExitDone => true
  | .ledgerSample temp => -2048 ≤ temp && temp < 4096
  | .periodRecord => true
  | .hourClose => true
  | .ledgerWrite => true
  | .holdupSample _ => true
  | .flashTimeout => true
  | .ldgCntClear pg ag arg => pgOk pg && agOk ag && argOk arg
  | .readRec pg ag arg => pgOk pg && agOk ag && argOk arg
  | .ldgRestart pg ag arg => pgOk pg && agOk ag && argOk arg
  | .statLowRead i ag => i < 524288 && agOk ag
  | .statLowWrite i ag v => i < 524288 && agOk ag && wordOk v
  | .statHighWrite i ag v => i < 524288 && agOk ag && wordOk v
  | .smbRecordSelect w => w < 65536
  | .smbRecordRead => true
  | .smbLdgStatus => true
  | .smbBootStatusLo => true
  | .smbBootStatusHi => true
  | .smbTemperature _ temp => -2048 ≤ temp && temp < 4096
  | .smbAlarm _ => true
  | .smbAlertResponse => true
  | .smbTimeout => true
  | .coldReset board cells => boardOk board && cells.all (fun c => c.1 < board.flashSize && c.2 < 256)
  | .chipReset pg ag arg board => pgOk pg && agOk ag && argOk arg && boardOk board
  | .imageLoadGo image => image.all (fun d => d.length ≤ 4194304)
  | .rbAdvance pg ag arg => pgOk pg && agOk ag && argOk arg
  | .otpWrite pg ag arg => pgOk pg && agOk ag && argOk arg
  | .unlock pg ag arg => pgOk pg && agOk ag && argOk arg
  | .flashRead pg ag arg => pgOk pg && agOk ag && argOk arg
  | .flashProg pg ag arg => pgOk pg && agOk ag && argOk arg
  | .flashErase pg ag arg => pgOk pg && agOk ag && argOk arg
  | .tapReset => true
  | .jtagInstruction _ => true
  | .commandCompletion pg => pgOk pg
  | .porstNAssert => true
  | .hostLinkUp mode width speed => (mode = 1 || mode = 2) && [1, 2, 4, 8].contains width && 1 ≤ speed && speed ≤ 5
  | .mateLinkDown => true
  | .configSpaceWrite f k v => f < 8 && k < 8 && wordOk v
  | .holdupOkChange _ => true
  | .flashOperationComplete => true
  | .dieTemperatureAlarm _ => true
  | .timePllLock => true

end Sys2Proof
end

