-- ==== Sys2Proof/Machine/CommitOps.lean ====
section
/-! DEFINITION. BLK_LOCK (R70 to R72), the commit point with the checks that blocks add to it (R62, R64, R242, R293, R316, R366, R445,
R461), and what a boundary applies (R62, R63). -/
namespace Sys2Proof.Machine

/-! ### BLK_LOCK -/

/-- A write of BLK_LOCK by agent `ag` (R70): its code and effect; an acquisition clears the memory of R72. -/
def lockWrite (pg ag : Nat) (acq rel : Bool) (lease : Nat) (s : State) : State × Nat :=
  let l := (s.page pg).lock
  if (acq && rel) || (acq && (lease = 0 || 1000000 < lease)) then (s, rRANGE)
  else if acq then
    if l.any (fun x => x.owner != ag) then (s, rLOCKED)
    else (s.updPage pg (fun h => { h with lock := some ⟨ag, s.now + lease * usU⟩
                                          lapsed := if h.lapsed = some ag then none else h.lapsed }), rDONE)
  else if rel then
    if l.any (fun x => x.owner = ag) then (dropShadowsOf pg ag (s.updPage pg (fun h => { h with lock := none })), rDONE)
    else (s, rOWNER)
  else (s, rDONE)

/-- The write with its result; no agent has a reserved number (R15). -/
def lockCommand (pg ag : Nat) (acq rel : Bool) (lease : Nat) (s : State) : State :=
  if !agOk ag then s else
  let q := lockWrite pg ag acq rel lease s
  record pg ag 8 0xFF q.2 q.1

/-- A lease runs out (R72), but for the boot sequencer's, which holds until the end of boot (R73); and the pair lock's (R460), which the
MATE page shows. DEDUCED (log entry 11). -/
def leaseEnds (pg : Nat) (s : State) : State :=
  match (s.page pg).lock with
  | some l => if l.owner = 12 then s else (dropShadowsOf pg l.owner s).updPage pg (fun h => { h with lock := none, leaseLapsed := true, lapsed := some l.owner })
  | none => s
def pairLeaseEnds (s : State) : State :=
  match s.mate.plock with
  | some l =>
    let s1 := setPlock none s
    let s2 := if singleOwner s1 then plMirror s1 else s1
    if l.dev = s.mateId then s2.updPage pMATE (fun h => { h with leaseLapsed := true }) else s2
  | none => s

/-! ### The commit point -/

/-- Whether the gate fields of a port's committed or pending change differ from the operating ones. -/
def gateDiffers (s : State) (p : Nat) : Bool :=
  gateFields.any (fun f => (s.reg.shadow.find? (fkey (pPORT (portRegion p)) f (portCell p) 0)).isSome)

/-- The ports of a page whose gate fields GO would commit. -/
def gatesOf (s : State) (pg : Nat) : List Nat :=
  if isBlk pg .port then ((List.range 12).map (fun i => 12 * pageRegion pg + i)).filter (gateDiffers s) else []

/-- Whether this device is the pair's gate-list authority (R445). -/
def gateHolder (s : State) : Bool := s.mateMode != 0 && singleOwner s

/-- Whether a port's shadow gate fields may be committed now (R316, R461). -/
def gateOk (s : State) (ag p : Nat) : Bool :=
  let g := pPORT (portRegion p)
  let i := portCell p
  let trig := s.rdShadow g F.GATE_CTRL_TRIG_EN i != 0
  let len := s.rdShadow g F.GATE_CTRL_LIST_LEN i
  let bank := 1 - s.rd g F.GATE_STATUS_OPER_BANK i
  let lead := if ag != 13 && gateHolder s && matePresent s then 20 * usU else 10 * usU
  let plan := trigPlan s (s.rdShadow g F.GATE_CTRL_TRIG i)
  (if trig then
     (match plan with
      | some q => q.period = some (s.rdShadow g F.GATE_CYCLE_CYCLE_TIME i * nsU)
      | none => false)
   else s.sNow + lead ≤ gateBase s p)
    && !(len = 0 && s.rdShadow g F.GATE_CTRL_GATE_EN i != 0)
    && (List.range len).all (fun k => (s.gate p).entry bank k % 2 ^ 24 != 0)

/-- The block's own range check of GO. -/
def goRange (s : State) (pg ag : Nat) : Bool :=
  match pageBlk pg with
  | some .buf => committedSum (fun f i => s.rdShadow pg f i) ≤ 65536 - (s.pool (pageRegion pg)).retired.length
  | some .port => (gatesOf s pg).all (gateOk s ag)
  | some .peat => s.rdShadow pg F.PEAT_GEOM_ROW_BITS + s.rdShadow pg F.PEAT_GEOM_BANK_BITS + s.rdShadow pg F.PEAT_GEOM_COL_BITS = 28
  | _ => true

/-- Whether a shadow of the page's field is listed. -/
def shadowed (s : State) (pg : Nat) (f : Field) (i : Nat := 0) : Bool := (s.reg.shadow.find? (fkey pg f i 0)).isSome

/-- The block's own state check of GO (R293, R366). -/
def goState (s : State) (pg : Nat) : Bool :=
  match pageBlk pg with
  | some .qsc => !(shadowed s pg F.QSC_SHP_CFG_PORT
      && !(shaperQueues s (2048 * pageRegion pg + s.rd pg F.QSC_SHP_SEL_SEL)).isEmpty)
  | some .peat => !(s.inState pg .run
      && (shadowed s pg F.PEAT_GEOM_ROW_BITS || shadowed s pg F.PEAT_GEOM_BANK_BITS || shadowed s pg F.PEAT_GEOM_COL_BITS
          || (List.range 16).any (fun k => shadowed s pg F.PEAT_TIM_VALUE k)))
  | _ => true

/-- The payload of a gate commit for the peer (R461): the port, its shadow gate fields, and the entries of its pending bank within LIST_LEN. -/
def gatePayload (s : State) (p : Nat) : List Byte :=
  let g := pPORT (portRegion p)
  let i := portCell p
  beBytes 4 p ++ gateFields.flatMap (fun f => beBytes 4 (s.rdShadow g f i))
    ++ (List.range (s.rdShadow g F.GATE_CTRL_LIST_LEN i)).flatMap (fun k =>
      beBytes 4 ((s.gate p).entry (1 - s.rd g F.GATE_STATUS_OPER_BANK i) k))

/-- The commit point: the gates committed get their takeover time, and the authority of a pair mirrors them. -/
def commitPoint (pg ag : Nat) (s : State) : State :=
  let l := gatesOf s pg
  let mirrors := ag != 13 && gateHolder s
  let s0 := if pg = pPEAT then { s with peat := { s.peat with refreshed := 0 } } else s
  let s1 := l.foldl (fun s p =>
    let g := pPORT (portRegion p)
    let i := portCell p
    let t := if s.rdShadow g F.GATE_CTRL_TRIG_EN i != 0 then none else some (gateBase s p)
    let s1 := (s.updGate p (fun x => { x with takeover := some t, goAt := s.sNow })).wr g F.GATE_STATUS_TAKEOVER_PENDING 1 i
    let s2 := planCut p s1
    if mirrors then mateSend 5 0 0 (gatePayload s2 p) s2 else s2) (s0.updPage pg (fun h => { h with commitPending := true, rounds := 0 }))
  if l.isEmpty then s1 else syncTrig s1

/-! ### Boundaries -/

/-- Whether the shaper selected on a QSC page has a committed change. -/
def shaperCommitted (s : State) (pg : Nat) : Bool := shaperFields.any (fun e => (s.reg.shadow.find? (fkey pg e.1 e.2 0)).isSome)

/-- Those of a boundary kind: kind 0 the page's offsets below 0x800, kind 1 the rest; gate fields wait for their takeover. -/
def applyKind (pg kind : Nat) (s : State) : State := applyKeys pg (fun k => decide ((keyOff k < 0x800) = (kind = 0))) s

/-- Whether a port is between two frames where a field of its cell acts (R63): CT_MASK and the preemption fields on the frames it sends, the
others on those it receives. DESIGN CHOICE (log entry 125). -/
def frameBoundary (s : State) (pg k : Nat) : Bool :=
  let p := 12 * pageRegion pg + (keyOff k - 0x080) / 0x40
  if keyOff k % 0x40 = 0x0C || (keyOff k % 0x40 = 0 && k % 32 = 24) then (s.port p).cur.isNone && (s.port p).held.isNone
  else (s.port p).rx.isNone

/-- Whether an arbitration round has passed since the commit point: the next decision is the first with the new values (R63). -/
def secondRound (s : State) (pg : Nat) : Bool := 1 ≤ (s.page pg).rounds

/-- Verification starts, or its status falls back, on the ports whose PREEMPT_EN or VERIFY_DIS a commit has changed from `was` (R94). -/
def preemptChanged (pg : Nat) (was s : State) : State :=
  (List.range 12).foldl (fun s i =>
    if s.rd pg F.PORT_PREEMPT_PREEMPT_EN i != was.rd pg F.PORT_PREEMPT_PREEMPT_EN i
        || s.rd pg F.PORT_PREEMPT_VERIFY_DIS i != was.rd pg F.PORT_PREEMPT_VERIFY_DIS i then verifyStart (12 * pageRegion pg + i) s
    else s) s

/-- The sessions whose registers a commit reaches count their frames afresh (R268). -/
def mirrorRestart (s : State) : State :=
  { s with mirrorCount := s.mirrorCount.filter (fun m _ =>
      !([F.RPL_MIR_A_EN, F.RPL_MIR_A_DIR, F.RPL_MIR_A_DEST_KIND, F.RPL_MIR_A_DEST, F.RPL_MIR_B_N, F.RPL_MIR_B_TRUNC].any
        (fun f => shadowed s (pRPL 0) f m))) }

/-- A boundary of the page arrives where the rules let it (R63, R126, R292): a port's fields between its frames, a parser's outside a swap pause,
a shaper's while none of its queues transmits, those of arbiters after a round, and those of the memory as its channels refresh. -/
def commitApply (pg kind : Nat) (s : State) : State :=
  let r := pageRegion pg
  let all := fun (s : State) => applyKind pg 0 (applyKind pg 1 s)
  if !(s.page pg).commitPending || s.inState pg .halted then s
  else commitDone pg (match pageBlk pg with
    | some .port =>
      if kind = 0 then syncGuards (preemptChanged pg s (applyKeys pg (fun k => decide (keyOff k < 0x800) && frameBoundary s pg k) s)) else s
    | some .buf => if secondRound s pg then syncShared r (all s) else s
    | some .xbar | some .sfab => if secondRound s pg then all s else s
    | some .prs => if (s.page pg).substate = 0 then all s else s
    | some .lkp => applyKind pg kind { s with tab := { s.tab with
        tokens := (List.range 12).foldl (fun (m : SMap (Nat × Nat × Nat)) i =>
          let b := learnTokens s (12 * r + i)
          m.insert (12 * r + i) (b.1, b.2, s.now)) s.tab.tokens } }
    | some .rpl => if pg = pRPL 0 then all (mirrorRestart s) else all s
    | some .qsc =>
      if kind = 0 then
        if shaperCommitted s pg then (if shaperBusy s (2048 * r + s.rd pg F.QSC_SHP_SEL_SEL) then s else applyKind pg 0 (applyShaper r s))
        else applyKind pg 0 s
      else if secondRound s pg then applyKind pg 1 s else s
    | some .peat => peatBoundary s
    | _ => all s)

/-- The boundaries that are there at the commit point (R63, R292): a port cell between two frames, a block of the walk that holds no frame, an idle
shaper, a channel that does not refresh. -/
def boundaryNow (pg : Nat) (s : State) : State :=
  let j := 2048 * pageRegion pg + s.rd pg F.QSC_SHP_SEL_SEL
  let walk := s.frames.entries.any (fun (e : Nat × Frame) => e.2.region = pageRegion pg && e.2.stage != .admitted)
  match pageBlk pg with
  | some .port | some .peat => commitApply pg 0 s
  | some .prs | some .eng | some .lkp | some .rpl => if walk then s else commitApply pg 0 (commitApply pg 1 s)
  | some .qsc =>
    if shaperCommitted s pg && creditNow s j (s.shaper j) = 0 && !(shaperQueues s j).any (copyWaits s) then commitApply pg 0 s else s
  | _ => s

/-! ### GO -/

/-- A write of GO (R62, R64, R72): its code and effect. A page without B fields commits nothing. DEDUCED (log entry 88). -/
def commitGo (pg ag : Nat) (s : State) : State × Nat :=
  if lockedBy s pg ag then (s, rLOCKED)
  else if !goRange s pg ag then (s, rRANGE)
  else if (s.page pg).lapsed = some ag then (s.updPage pg (fun h => { h with lapsed := none }), rSTATE)
  else if (s.page pg).commitPending || !goState s pg then (s, rSTATE)
  else if !(gatesOf s pg).isEmpty && ag != 13 && !singleOwner s then (s, rOWNER)
  else if !anyShadow s pg then (s.updPage pg (fun h => { h with appliedSeq := (h.appliedSeq + 1) % 65536 }), rDONE)
  else (boundaryNow pg (commitPoint pg ag s), rDONE)

/-- A write of the whole word (R56): RSV bits are 0, and without GO nothing is committed. -/
def commitWrite (pg ag v : Nat) (s : State) : State :=
  if lockedBy s pg ag then record pg ag 7 0xFF rLOCKED s
  else if v % 65536 / 2 != 0 then record pg ag 7 0xFF rRANGE s
  else if v % 2 = 0 then record pg ag 7 0xFF rDONE s
  else
    let q := commitGo pg ag s
    record pg ag 7 0xFF q.2 q.1

end Sys2Proof.Machine
end

