-- ==== Sys2Proof/Machine/Engine.lean ====
section
/-! DEFINITION. The meanings of the micro-instructions (R185 to R192) and of the engine block's own steps (R193 to R223). A micro-instruction's step is
one issue slot of context `c` of engine `e`; it changes nothing where that context does not issue that operation. -/
namespace Sys2Proof.Machine

/-! ### Control operations (R185) -/

def execOpNop (e c : Nat) (s : State) : Res := .next (micro e c 0x00 (fun _ _ _ x _ => .ok x) noEv s)

/-- A context whose micro-instruction has taken its slots. -/
def Ctx.took (x : Ctx) (n : Nat) : Ctx := { x with slots := x.slots + n }

def execOpRetire (e c : Nat) (s : State) : Res :=
  .next (issue e c 0x01 (fun _ _ _ x s => endRun e c (x.took 1) none s) s)

def execOpDropr (e c : Nat) (s : State) : Res :=
  .next (issue e c 0x02 (fun mi _ _ x s => endRun e c (x.took 1) (some (mi.imm.toNat % 16)) s) s)

def execOpTrapSlow (e c : Nat) (s : State) : Res :=
  .next (issue e c 0x03 (fun mi _ _ x s =>
    mustTrap e c (x.save 3 0 0 x.pc (x.pc + 1) mi.imm.toNat) (retireAt e c x.pc false (s.setCtx e c (x.took 1)))) s)

/-- BRK (R185, R208, R212 to R214). -/
def brk (e c : Nat) (mi : MI) (x : Ctx) (s : State) : State :=
  let p := pENG (engRegion e)
  let nop := finish e c 0x04 mi x [] s
  if !s.rdB p F.ENG_CTRL_BRK_EN || x.inTrap then nop
  else
    let t := x.save 1 0 0 x.pc (x.pc + 1) 0
    if s.rdB p F.ENG_CTRL_BRK_HALT then
      retireAt e c x.pc false (s.setCtx e c { x.took 1 with halted := true, trap := some t })
    else match trapVec s e 1 with
      | some v => takeTrap e c v t (retireAt e c x.pc false (s.setCtx e c (x.took 1)))
      | none => nop

def execOpBrk (e c : Nat) (s : State) : Res := .next (issue e c 0x04 (fun mi _ _ x s => brk e c mi x s) s)

def execOpCall (e c : Nat) (s : State) : Res :=
  .next (issue e c 0x05 (fun mi _ _ x s =>
    let go := condHolds mi.cond.toNat x
    if go && 4 ≤ x.stack.length then faultAt e c fSTACK 1 s
    else
      let y := if go then { x.took 1 with stack := (x.pc + 1) :: x.stack, pc := mi.target.toNat } else { x.took 1 with pc := x.pc + 1 }
      let s1 := retireAt e c x.pc false (s.setCtx e c y)
      if go then pcnt e 0x0F s1 else s1) s)

/-- Resume a trapped routine from its trap frame (R211). -/
def Ctx.resume (x : Ctx) (t : TrapFrame) : Ctx :=
  { x.setFlags t.flags with
    u := t.u.take 15 ++ x.u.drop 15, stack := t.stack, pc := t.resumePc, inTrap := false, trap := none }

def execOpRetn (e c : Nat) (s : State) : Res :=
  .next (issue e c 0x06 (fun _ _ _ x s =>
    match x.stack with
    | [] => faultAt e c fSTACK 1 s
    | a :: t =>
      let y := if x.inTrap && t.isEmpty then
          match x.trap with
          | some f => (x.took 1).resume f
          | none => { x.took 1 with stack := t, pc := a }
        else { x.took 1 with stack := t, pc := a }
      retireAt e c x.pc false (s.setCtx e c y)) s)

def execOpJind (e c : Nat) (s : State) : Res :=
  .next (issue e c 0x07 (fun _ a _ x s =>
    if maxPc < a % 2 ^ 13 then faultAt e c fILLEGAL 1 s
    else retireAt e c x.pc false (s.setCtx e c { x.took 1 with pc := a % 2 ^ 13 })) s)

/-! ### ALU operations (R186) -/

/-- An ALU operation. -/
def aluOp (e c op : Nat) (f : Nat → Nat → AluRes) (s : State) : State :=
  micro e c op (fun mi a b x _ => .ok (aluStep mi (f a b) x)) noEv s

/-- CMP and TST: the flags always, and nothing else. -/
def cmpOp (e c op : Nat) (f : Nat → Nat → AluRes) (s : State) : State :=
  micro e c op (fun _ a b x _ => let q := f a b; .ok (x.znvc q.r q.c q.v)) noEv s

def execOpMov (e c : Nat) (s : State) : Res := .next (aluOp e c 0x10 (fun a _ => ⟨a, false, false⟩) s)
def execOpAdd (e c : Nat) (s : State) : Res := .next (aluOp e c 0x11 aluAdd s)
def execOpSub (e c : Nat) (s : State) : Res := .next (aluOp e c 0x12 aluSub s)
def execOpAnd (e c : Nat) (s : State) : Res := .next (aluOp e c 0x13 (fun a b => ⟨a &&& b, false, false⟩) s)
def execOpOr (e c : Nat) (s : State) : Res := .next (aluOp e c 0x14 (fun a b => ⟨a ||| b, false, false⟩) s)
def execOpXor (e c : Nat) (s : State) : Res := .next (aluOp e c 0x15 (fun a b => ⟨a ^^^ b, false, false⟩) s)
def execOpAndn (e c : Nat) (s : State) : Res :=
  .next (aluOp e c 0x16 (fun a b => ⟨a &&& (b ^^^ (2 ^ 64 - 1)), false, false⟩) s)
def execOpShl (e c : Nat) (s : State) : Res := .next (aluOp e c 0x17 aluShl s)
def execOpShr (e c : Nat) (s : State) : Res := .next (aluOp e c 0x18 aluShr s)
def execOpSar (e c : Nat) (s : State) : Res := .next (aluOp e c 0x19 aluSar s)
def execOpRotl (e c : Nat) (s : State) : Res := .next (aluOp e c 0x1A aluRotl s)
def execOpMin (e c : Nat) (s : State) : Res := .next (aluOp e c 0x1B (fun a b => ⟨min a b, false, false⟩) s)
def execOpMax (e c : Nat) (s : State) : Res := .next (aluOp e c 0x1C (fun a b => ⟨max a b, false, false⟩) s)
def execOpCmp (e c : Nat) (s : State) : Res := .next (cmpOp e c 0x1D aluSub s)
def execOpTst (e c : Nat) (s : State) : Res := .next (cmpOp e c 0x1E (fun a b => ⟨a &&& b, false, false⟩) s)
def execOpMul (e c : Nat) (s : State) : Res := .next (aluOp e c 0x1F (fun a b => ⟨w64 (a * b), false, false⟩) s)

/-! ### Field operations (R187) -/

def execOpExt (e c : Nat) (s : State) : Res :=
  .next (micro e c 0x20 (fun mi a _ x _ => .ok (aluStep mi ⟨fieldOf mi a, false, false⟩ x)) noEv s)
def execOpIns (e c : Nat) (s : State) : Res :=
  .next (micro e c 0x21 (fun mi a b x _ =>
    .ok (aluStep mi ⟨putBits a mi.fofs.toNat (mi.fwid.toNat + 1) b, false, false⟩ x)) noEv s)
def execOpBswap (e c : Nat) (s : State) : Res :=
  .next (micro e c 0x22 (fun mi a _ x _ => .ok (aluStep mi ⟨bswap (mi.mod.toNat + 1) a, false, false⟩ x)) noEv s)
def execOpClz (e c : Nat) (s : State) : Res :=
  .next (micro e c 0x23 (fun mi a _ x _ => .ok (aluStep mi ⟨clz64 a, false, false⟩ x)) noEv s)
def execOpPopc (e c : Nat) (s : State) : Res :=
  .next (micro e c 0x24 (fun mi a _ x _ => .ok (aluStep mi ⟨popc64 a, false, false⟩ x)) noEv s)
def execOpHash (e c : Nat) (s : State) : Res :=
  .next (micro e c 0x25 (fun mi _ _ x s =>
    let w := mi.mod.toNat / 2 % 4
    let h := hashOf s (mi.mod.toNat % 2) w (x.key % 2 ^ (32 * keyWords w))
    .ok (aluStep mi ⟨h + hashBucket h * 2 ^ 32, false, false⟩ x)) noEv s)

/-! ### Header operations (R188) -/

/-- A body over the frame of the context; an event routine has none (R196). -/
def onFrame (x : Ctx) (s : State) (f : Frame → Except Stop Ctx) : Except Stop Ctx :=
  match x.theFrame s with
  | some y => f y
  | none => .error (.fault fNOFRAME)

def execOpHrd (e c : Nat) (s : State) : Res :=
  .next (micro e c 0x30 (fun mi a _ x s => onFrame x s (fun y => (hrdBytes mi a y).map (fun v => dstWrite mi.dst.toNat v x))) noEv s)
def execOpHwr (e c : Nat) (s : State) : Res := .next (micro e c 0x31 (fun mi a b x s => onFrame x s (fun y => hdrEdit 0x31 mi a b y x)) noEv s)
def execOpHins (e c : Nat) (s : State) : Res := .next (micro e c 0x32 (fun mi a b x s => onFrame x s (fun y => hdrEdit 0x32 mi a b y x)) noEv s)
def execOpHdel (e c : Nat) (s : State) : Res := .next (micro e c 0x33 (fun mi a b x s => onFrame x s (fun y => hdrEdit 0x33 mi a b y x)) noEv s)
def execOpHfix (e c : Nat) (s : State) : Res :=
  .next (micro e c 0x34 (fun mi _ _ x _ => .ok { x with fixups := x.fixups ||| (mi.mod.toNat % 8) }) noEv s)

/-! ### Key operations (R189) -/

def execOpKclr (e c : Nat) (s : State) : Res := .next (micro e c 0x40 (fun _ _ _ x _ => .ok { x with key := 0 }) noEv s)
def execOpKput (e c : Nat) (s : State) : Res :=
  .next (micro e c 0x41 (fun mi a _ x _ => .ok { x with key := putBits x.key mi.fofs.toNat (mi.fwid.toNat + 1) a }) noEv s)
def execOpKhdr (e c : Nat) (s : State) : Res :=
  .next (micro e c 0x42 (fun mi a _ x s => onFrame x s (fun y =>
    (khdrBytes mi a y).map (fun v =>
      { x with key := putBits x.key mi.fofs.toNat (mi.fwid.toNat + 1) (v / 2 ^ (7 - (8 * a + mi.imm.toNat + mi.fwid.toNat) % 8)) }))) noEv s)

/-! ### Lookup operations (R190) -/

/-- A lookup on tag MOD[2:0], counting event `ev`. -/
def lookupOp (e c op ev : Nat) (kind : MI → LookKind) (s : State) : State :=
  micro e c op (fun mi _ _ x s => issueTag e (mi.mod.toNat % 8) (kind mi) x s) (fun _ _ => [(ev, 1)]) s

def execOpLem (e c : Nat) (s : State) : Res :=
  .next (lookupOp e c 0x50 0x02 (fun mi => .em (mi.mod.toNat / 8 % 4) (mi.imm.toNat % 4)) s)
def execOpLpm (e c : Nat) (s : State) : Res := .next (lookupOp e c 0x51 0x03 (fun _ => .lpm) s)
def execOpLtree (e c : Nat) (s : State) : Res :=
  .next (lookupOp e c 0x52 0x04 (fun mi => .tree (mi.imm.toNat % 64)) s)

/-- Whether a tag holds a hit. -/
def tagHit (x : Ctx) (n : Nat) : Bool := (x.tag n).st = .done && (x.tag n).hit

def execOpWait (e c : Nat) (s : State) : Res :=
  .next (micro e c 0x53 (fun mi _ _ x _ =>
    let n := mi.mod.toNat % 8
    let t := x.tag n
    (waitTags [n] x).map (fun y =>
      { dstWrite mi.dst.toNat (if t.st = .done then t.result else 0) y with h := tagHit x n }))
    (fun mi x => [(0x05, b2n (tagHit x (mi.mod.toNat % 8)))]) s)

def execOpWaitm (e c : Nat) (s : State) : Res :=
  .next (micro e c 0x54 (fun mi _ _ x _ =>
    let l := maskTags mi.imm.toNat
    (waitTags l x).map (fun y => { y with h := l.all (fun n => tagHit x n) }))
    (fun mi x => [(0x05, ((maskTags mi.imm.toNat).filter (fun n => tagHit x n)).length)]) s)

def execOpTrel (e c : Nat) (s : State) : Res :=
  .next (issue e c 0x55 (fun mi _ _ x s =>
    let y := (maskTags mi.imm.toNat).foldl (fun x n => x.freeTag n) x
    finish e c 0x55 mi y [] (releaseMask e mi.imm.toNat x s)) s)

/-! ### Verdict and region operations (R191, R192) -/

/-- A staged verdict field; none out of range. -/
def setVerdict (m v : Nat) (d : Verdict) : Option Verdict :=
  match m with
  | 0 => if v ≤ 65535 then some { d with kind := .queue v } else none
  | 1 => if v ≤ 16383 then some { d with kind := .hamper v } else none
  | 2 => if v ≤ 4095 then some { d with kind := .ring v } else none
  | 3 => if v ≤ 7 then some { d with tc := v } else none
  | 4 => if v < 2 ^ 15 then some { d with policer := if v.testBit 14 then some (v % 2 ^ 14) else none } else none
  | 5 => if v < 2 ^ 5 then some { d with mirror := if v.testBit 4 then some (v % 16) else none } else none
  | 6 => if v < 2 ^ 13 then some { d with stream := if v.testBit 12 then some (v % 4096) else none } else none
  | _ => if v ≤ 1 then some { d with ctDis := v = 1 } else none

def execOpSetv (e c : Nat) (s : State) : Res :=
  .next (micro e c 0x60 (fun mi a _ x _ =>
    match setVerdict (mi.mod.toNat % 8) (fieldOf mi a) x.verdict with
    | some d => .ok { x with verdict := d }
    | none => .error (.fault fVRANGE)) noEv s)

def execOpCnt (e c : Nat) (s : State) : Res :=
  .next (micro e c 0x61 (fun mi a b x _ =>
    if 524287 < a + mi.imm.toNat then .error (.fault fVRANGE)
    else if 8 ≤ x.incs.length then .error (.fault fSTAGE)
    else .ok { x with incs := x.incs ++ [(a + mi.imm.toNat, b)] }) noEv s)

def execOpSld (e c : Nat) (s : State) : Res :=
  .next (micro e c 0x62 (fun mi _ _ x s =>
    .ok (dstWrite mi.dst.toNat (s.eng.scratch.get 0 (64 * engRegion e + mi.imm.toNat % 64)) x)) noEv s)

/-- Stage a scratch write (R178). -/
def stageScr (o : ScrOp) (x : Ctx) : Except Stop Ctx :=
  if 8 ≤ x.scr.length then .error (.fault fSTAGE) else .ok { x with scr := x.scr ++ [o] }

def execOpSst (e c : Nat) (s : State) : Res :=
  .next (micro e c 0x63 (fun mi a _ x _ => stageScr (.store (mi.imm.toNat % 64) (BitVec.ofNat 64 a)) x) noEv s)
def execOpSadd (e c : Nat) (s : State) : Res :=
  .next (micro e c 0x64 (fun mi a _ x _ => stageScr (.add (mi.imm.toNat % 64) (BitVec.ofNat 64 a)) x) noEv s)

/-! ### Limits and machine checks (R194, R203 to R206) -/

/-- R194: the next micro-instruction would take the run past MAX_STEPS. -/
def execRoutineLimit (e c : Nat) (s : State) : Res :=
  .next (
    let x := s.ctx e c
    let r := engRegion e
    let n := if x.pc ≤ maxPc then opSlots (miDecode (csWord s r x.pc)).opcode else 1
    if x.busy && !x.halted && s.inState (pENG r) .run && s.rd (pENG r) F.ENG_CTRL_MAX_STEPS < x.slots + n then
      routineFault e c fLIMIT s
    else s)

/-- Repair a word of a region from its first good peer (R203 step 2): whether one was found. -/
def csRepair (r w : Nat) (s : State) : Bool × State :=
  match csPeer s r w with
  | some q =>
    let p := pENG r
    (true, report p .corrected (((csSet r w (csWord s q w).toNat s).addSat p F.ENG_CS_ERR_PARITY_CNT).wr p F.ENG_CS_ERR_LAST_WORD w))
  | none => (false, s)

/-- A repair that fails fences the engine block (R205). -/
def repairFailed (r w : Nat) (flag : Field) (s : State) : State :=
  let p := pENG r
  enterFenced p 1 (report p .contained ((s.setF p flag).wr p F.ENG_CS_ERR_LAST_WORD w))

/-- A machine check of a context whose fetch meets bad parity (R203, R205). -/
def machineCheck (e c : Nat) (s : State) : State :=
  let x := s.ctx e c
  let r := engRegion e
  if !(x.busy && !x.halted && s.inState (pENG r) .run && x.pc ≤ maxPc && !csGood s r x.pc) then s
  else
    let s0 := pcnt e 0x0E s
    let peer := csPeer s0 r x.pc
    if peer.isNone || 2 ≤ x.checks then
      let s1 := faultLog e c 9 x.pc (count (cRegion r 39) (fixedBy e 1 x.slots (endDropped e c s0)))
      repairFailed r x.pc (if peer.isNone then F.ENG_CS_ERR_UNREPAIRED else F.ENG_CS_ERR_STUCK) s1
    else
      abandon e c (csRepair r x.pc (s0.setCtx e c { x with checks := x.checks + 1 })).2

def execMachineCheck (e c : Nat) (s : State) : Res := .next (machineCheck e c s)

/-- The words of a region whose stored parity is bad, in word order. -/
def badWords (s : State) (r : Nat) : List Nat :=
  s.eng.badPar.entries.filterMap (fun (e : Nat × Nat) => if e.1 / 4608 = r && e.2 != 0 then some (e.1 % 4608) else none)

/-- CS_SCRUB over a list of words: a word no peer can repair fences the block (R205, R206). -/
def scrubWords (r : Nat) : List Nat → State → Bool × State
  | [], s => (true, s)
  | w :: t, s =>
    let q := csRepair r w s
    if q.1 then scrubWords r t q.2 else (false, repairFailed r w F.ENG_CS_ERR_UNREPAIRED s)

/-- R206: the repairs are made as the command runs; its completion is COMMAND_COMPLETION, or at once when it fences the block. -/
def execCsScrub (pg ag arg : Nat) (s : State) : Res :=
  .next (commandLong pg ag 0x44 arg (isBlk pg .eng && arg = 0) (stateIn s pg [.ready, .run]) [] id s)

/-! ### Programmable counters (R218 to R221) -/

def execPcntOverflow (e n : Nat) (s : State) : Res := .next (if n < 8 then pcntOverflow e n s else s)

/-- R220: the engine's oldest overflow is captured at the micro-instruction it retired last, which context `c` ran. -/
def overflowCapture (e c : Nat) (s : State) : State :=
  match s.eng.captures.find? (fun q => q.engine = e) with
  | some q => if (s.eng.lastRet.find? e).any (fun l => l.1 = c) then capture q s else s
  | none => s

def execOverflowCapture (e c : Nat) (s : State) : Res := .next (overflowCapture e c s)

/-- CNT_SNAP (R218). -/
def cntSnap (pg : Nat) (s : State) : State :=
  let r := pageRegion pg
  (List.range 16).foldl (fun s k =>
    let e := 16 * r + k
    let s1 := (List.range 4).foldl (fun s j =>
      let v := s.eng.fixed.get 0 (4 * e + j)
      (s.wr pg F.ENG_FIX_SNAP v k (2 * j)).wr pg F.ENG_FIX_SNAP (v / 2 ^ 32) k (2 * j + 1)) s
    (List.range 8).foldl (fun s n => s.wr pg F.ENG_PCNT_SNAP (s.eng.pcnt.get 0 (8 * e + n)) k n) s1) s

def execCntSnap (pg ag arg : Nat) (s : State) : Res :=
  .next (command pg ag 0x42 (isBlk pg .eng && arg = 0) (stateIn s pg [.ready, .run, .fenced]) (fun s => (cntSnap pg s, rDONE)) s)

/-- CNT_CLEAR (R218). -/
def cntClear (pg : Nat) (s : State) : State :=
  let r := pageRegion pg
  (List.range 16).foldl (fun s k =>
    let e := 16 * r + k
    let s1 := (List.range 4).foldl (fun s j => { s with eng := { s.eng with fixed := s.eng.fixed.put 0 (4 * e + j) 0 } }) s
    (List.range 8).foldl (fun s n =>
      { s with eng := { s.eng with pcnt := s.eng.pcnt.put 0 (8 * e + n) (s.rd pg F.ENG_RELOAD_RELOAD n) } }) s1) s

def execEngCntClear (pg ag arg : Nat) (s : State) : Res :=
  .next (command pg ag 0x43 (isBlk pg .eng && arg = 0) (stateIn s pg [.ready, .run, .fenced]) (fun s => (cntClear pg s, rDONE)) s)

/-! ### Debug (R214) -/

def execDbgResume (pg ag arg : Nat) (s : State) : Res :=
  .next (
    let e := 16 * pageRegion pg + arg % 16
    let c := arg / 16
    command pg ag 0x45 (isBlk pg .eng && arg < 128) (stateIn s pg [.run] && (s.ctx e c).halted)
      (fun s =>
        let x := s.ctx e c
        match x.trap with
        | some t => (s.setCtx e c { x.setFlags t.flags with u := t.u, pc := t.resumePc, halted := false, trap := none }, rDONE)
        | none => (s, rDONE)) s)

/-- The context the debug registers of a region select, and the word of its trap frame. -/
def dbgEngine (s : State) (r : Nat) : Nat := 16 * r + s.rd (pENG r) F.ENG_DBG_SEL_ENGINE
def dbgContext (s : State) (r : Nat) : Nat := s.rd (pENG r) F.ENG_DBG_SEL_CONTEXT
def dbgWord (s : State) (r : Nat) : Nat := s.rd (pENG r) F.ENG_DBG_SEL_WORD

/-- A micro-register of a halted context's trap frame is selected. -/
def dbgWritable (s : State) (r : Nat) : Bool :=
  (s.ctx (dbgEngine s r) (dbgContext s r)).halted && 2 ≤ dbgWord s r && dbgWord s r ≤ 16

/-- The selected micro-register takes `val`. -/
def dbgStore (r val : Nat) (s : State) : State :=
  let x := s.ctx (dbgEngine s r) (dbgContext s r)
  s.setCtx (dbgEngine s r) (dbgContext s r)
    { x with trap := x.trap.map (fun t => { t with u := t.u.set (dbgWord s r - 2) (BitVec.ofNat 64 val) }) }

/-- A write of ENG_DBG_HI applies the held low half with it to the selected word of a halted context's trap frame (R223). -/
def execDbgWordWrite (r : Nat) (w : View) (ag v : Nat) (s : State) : Res :=
  .next (
    let old := match (s.ctx (dbgEngine s r) (dbgContext s r)).trap with | some t => t.get (dbgWord s r) / 2 ^ 32 | none => 0
    regGate (pENG r) 0x068 w ag v noCheck (fun _ => dbgWritable s r) noBusy
      (fun _ s => dbgStore r (viewOutcome w old v 32 * 2 ^ 32 + s.rd (pENG r) F.ENG_DBG_DATA 0) s) s)

/-! ### The control-store window (R199 to R207) -/

/-- The parity inversion a quarter-3 write stores under INJ_PAR, and INJ_PAR back to 0 (R207). -/
def storeWord (r w v : Nat) (s : State) : State :=
  let p := pENG r
  let inj := s.rd p F.ENG_CTRL_INJ_PAR
  let s1 := csSet r w v s
  let s2 := if inj = 0 then s1 else { s1 with eng := { s1.eng with badPar := s1.eng.badPar.insert (4608 * r + w) (2 ^ (inj - 1)) } }
  if inj = 0 then s2 else s2.wr p F.ENG_CTRL_INJ_PAR 0

/-- The result of the checks of a control-store write: the trap words are also written in RUN. -/
def csWriteCode (s : State) (r w ag v : Nat) : Nat :=
  let p := pENG r
  let st := if w < 4096 then stateIn s p [.boot, .ready, .fenced] else stateIn s p [.boot, .ready, .fenced, .run]
  firstFail (lockedBy s p ag) (v < 2 ^ 32) st false

/-- A quarter of a word: the first three wait in the region's buffer, the last stores the word. -/
def csQuarter (r w q v : Nat) (s : State) : State :=
  let b := s.eng.wbuf.get (0, 0, 0, 0) r
  let b := if b.1 = w then b else (w, 0, 0, 0)
  let put := fun (x : Nat × Nat × Nat × Nat) => { s with eng := { s.eng with wbuf := s.eng.wbuf.put (0, 0, 0, 0) r x } }
  match q with
  | 0 => put (w, v, b.2.2.1, b.2.2.2)
  | 1 => put (w, b.2.1, v, b.2.2.2)
  | 2 => put (w, b.2.1, b.2.2.1, v)
  | _ => storeWord r w (b.2.1 + b.2.2.1 * 2 ^ 32 + b.2.2.2 * 2 ^ 64 + v * 2 ^ 96) (put (0, 0, 0, 0))

/-- A write through the control-store window (R200, R201, R628): `q` is the quarter of word `w` of region `r`. -/
def csWrite (r w q ag v : Nat) (s : State) : State :=
  let p := pENG r
  let code := csWriteCode s r w ag v
  let s1 := windowResult p ag (0x900000 + r * 0x20000 + 16 * w + 4 * q) code
    ((s.wr p F.ENG_CS_WSTAT_CODE code).wr p F.ENG_CS_WSTAT_WORD w)
  if code = rDONE then csQuarter r w q v s1 else s1

def execCsWindowWrite (r w q ag v : Nat) (s : State) : Res := .next (csWrite r w q ag v s)

/-- INJ_PAR names a quarter of a word, or none (R207). -/
def injParRange (s : State) (r : Nat) (l : List NewVal) : Bool := nv s (pENG r) l F.ENG_CTRL_INJ_PAR ≤ 4

/-- R207: INJ_PAR takes 0 to 4. The write reaches the whole of ENG_CTRL. -/
def execInjParWrite (r : Nat) (w : View) (ag v : Nat) (s : State) : Res :=
  .next (regWrite (pENG r) 0x040 w ag v (injParRange s r) noCheck noBusy noEff s)

/-! ### Samples and scratch words (R221, R223) -/

/-- A read of ENG_SAMPLE_LO: the oldest record is removed and latched. DESIGN CHOICE (log entry 53). -/
def execSamplePop (r : Nat) (s : State) : Res :=
  .next (
    let p := pENG r
    match s.eng.samples.get [] r with
    | [] => (s.wr p F.ENG_SAMPLE_DATA 0 0).wr p F.ENG_SAMPLE_DATA 0 1
    | v :: t =>
      let s1 := { s with eng := { s.eng with samples := s.eng.samples.put [] r t } }
      ((s1.wr p F.ENG_SAMPLE_STAT_COUNT t.length).wr p F.ENG_SAMPLE_DATA v 0).wr p F.ENG_SAMPLE_DATA (v / 2 ^ 32) 1)

/-- The place of an agent's latch or held half in a region. -/
def agSlot (r ag : Nat) : Nat := 16 * r + ag

def execScratchLoRead (r k ag : Nat) (s : State) : Res :=
  .next (
    let v := s.eng.scratch.get 0 (64 * r + k)
    emit (.read ag (v % 2 ^ 32)) { s with eng := { s.eng with scrLatch := s.eng.scrLatch.insert (agSlot r ag) (k, v) } })

/-- A write to half `half` of a scratch word: `eff` takes the value the view leaves in that half. -/
def scratchWrite (r k half : Nat) (w : View) (ag v : Nat) (eff : Nat → State → State) (s : State) : State :=
  let cur := s.eng.scratch.get 0 (64 * r + k) / 2 ^ (32 * half) % 2 ^ 32
  regGate (pENG r) (0x200 + 8 * k + 4 * half) w ag v noCheck noCheck noBusy (fun _ => eff (viewOutcome w cur v 32)) s

/-- The low half is held for the agent until it writes the high half. -/
def holdScratch (r k ag h : Nat) (s : State) : State :=
  { s with eng := { s.eng with scrHalf := s.eng.scrHalf.insert (agSlot r ag) (k, h) } }

/-- The high half is written, with the low half the agent holds for the same word, else with the word's own. -/
def storeScratch (r k ag h : Nat) (s : State) : State :=
  let held_ := match s.eng.scrHalf.find? (agSlot r ag) with | some (j, l) => if j = k then some l else none | none => none
  let lo := held_.getD (s.eng.scratch.get 0 (64 * r + k) % 2 ^ 32)
  { s with eng := { s.eng with
      scratch := s.eng.scratch.put 0 (64 * r + k) (h * 2 ^ 32 + lo)
      scrHalf := if held_.isSome then s.eng.scrHalf.erase (agSlot r ag) else s.eng.scrHalf } }

def execScratchLoWrite (r k : Nat) (w : View) (ag v : Nat) (s : State) : Res :=
  .next (scratchWrite r k 0 w ag v (holdScratch r k ag) s)

def execScratchHiWrite (r k : Nat) (w : View) (ag v : Nat) (s : State) : Res :=
  .next (scratchWrite r k 1 w ag v (storeScratch r k ag) s)

end Sys2Proof.Machine
end

