-- ==== Sys2Proof/Machine/Host.lean ====
section
/-! DEFINITION. The meanings of the host interface's steps (R495 to R522): rings, descriptor lines, the HDM decoder and the time window, MSI-X
partitions, management ports, and the resets of host functions. -/
namespace Sys2Proof.Machine

/-! ### Register access (R499) -/

/-- A BAR0 access the page did not answer in time: a read completes with Completer Abort, a write is discarded. -/
def execMmioTimeout (read : Bool) (s : State) : Res :=
  .next (let s1 := srcEvent 336 (count (cChip 96) s)
    if read then emit .abort s1 else s1)

/-! ### Ring entries (R502, R507, R509, R520) -/

/-- PREFETCH summed over the enabled caching rings but `n`. -/
def prefetchSum (s : State) (n : Nat) : Nat :=
  (openRings s).foldl (fun k r => if r != n && s.rdB (wRING r) F.RING_CACHE_EN then k + s.ringRd r F.RING_PREFETCH else k) 0

/-- Whether a write leaves a ring's word 0 within its ranges. -/
def ringRange (s : State) (n : Nat) (l : List NewVal) : Bool :=
  let e := wRING n
  let fn := nv s e l F.RING_FN
  let cache := nv s e l F.RING_CACHE_EN = 1
  nv s e l F.RING_KIND != 3 && fnPresent s fn && !(cache && fn != 0)
    && !(cache && nv s e l F.RING_EN = 1 && 256 < prefetchSum s n + nv s e l F.RING_PREFETCH)

/-- Whether a ring's present state allows the write. -/
def ringState (s : State) (n : Nat) (l : List NewVal) : Bool :=
  let e := wRING n
  let fixed := [F.RING_KIND, F.RING_FN, F.RING_SIZE_LOG2, F.RING_CACHE_EN, F.RING_PREFETCH, F.RING_BASE_LO, F.RING_BASE_HI]
  !(s.rdB e F.RING_EN && fixed.any (fun f => changes s e l f))
    && !(nv s e l F.RING_CACHE_EN = 1 && s.rd pHIF F.HIF_LINK_LINK_MODE = 2)

/-- What a write of EN does. -/
def ringEnable (n was : Nat) (s : State) : State :=
  let is_ := s.ringRd n F.RING_EN
  if was = 0 && is_ = 1 then
    ((s.wr (wRING n) F.RING_HOST_IDX 0).wr (wRING n) F.RING_DEV_IDX 0).wr (wRING n) F.RING_RSTATE 1
  else if was = 1 && is_ = 0 then stopRing n 1 s
  else s

/-- The result of the checks of a ring entry write (R56, R490, R503): OWNER, for an agent that is neither the ring's function nor the boot
sequencer, comes last. -/
def ringCode (s : State) (n k ag v : Nat) : Nat :=
  let e := wRING n
  let l := entryVals s e .ring (4 * k) v
  let post := (nv s e l F.RING_HOST_IDX + 65536 - s.ringRd n F.RING_DEV_IDX) % 65536
  let range := entryRange s e .ring (4 * k) v && ringRange s n l && !(k = 3 && 2 ^ s.ringRd n F.RING_SIZE_LOG2 < post)
  let c := firstFail (lockedBy s pHIF ag) range (windowState s pHIF && ringState s n l) false
  if c = rDONE && ag != s.ringRd n F.RING_FN && ag != 12 then rOWNER else c

/-- A write to word `k` of ring `n`'s entry: word 3 is the doorbell. -/
def ringWrite (n k ag v : Nat) (s : State) : State :=
  let addr := 0xA00000 + 64 * n + 4 * k
  let c := ringCode s n k ag v
  if c = rDONE then
    windowResult pHIF ag addr rDONE (prefetch n (ringEnable n (s.ringRd n F.RING_EN) ((entryVals s (wRING n) .ring (4 * k) v).foldl (storeVal (wRING n) ag) s)))
  else windowResult pHIF ag addr c s

def execRingDoorbell (n ag v : Nat) (s : State) : Res := .next (ringWrite n 3 ag v s)
def execRingEntryWrite (n k ag v : Nat) (s : State) : Res := .next (ringWrite n k ag v s)

/-! ### RX rings (R503) -/

/-- A copy for a ring is released: one of a cord by DEC, a served port's frame with its buffer. -/
def dropHostCopy (c : Copy) (s : State) : State :=
  match s.frames.find? c.frame with
  | some x => if x.served then s.dropFrameRec c.frame else releaseCopy c s
  | none => s

/-- Whether a frame reaches the host interface now: a served port's is there, any other crosses the service fabric (R44, R308). -/
def crosses (s : State) (f : Nat) : Bool := fabricOpen s || (s.frames.find? f).any (·.served)

/-- The oldest copy that waits for a ring, and reaches it, takes a slot or is dropped. -/
def ringDelivery (s : State) : State :=
  match s.hif.waiting.find? (fun c => crosses s c.copy.frame) with
  | none => s
  | some c =>
    let s1 := { s with hif := { s.hif with waiting := s.hif.waiting.erase c } }
    if ringOpen s1 c.ring 0 then
      let i := s1.ringRd c.ring F.RING_DEV_IDX
      let s2 := takeSlot c.ring (holdLine c.ring i s1)
      prefetch c.ring { s2 with hif := { s2.hif with slots := s2.hif.slots ++ [(⟨c.ring, i, c.copy, c.reason, c.code⟩ : RxSlot)] } }
    else dropHostCopy c.copy (count (cRing c.ring 0) s1)

def execRxRingDelivery (s : State) : Res := .next (ringDelivery s)

/-- META of an RX line. -/
def rxMeta (x : Frame) (reason code : Nat) : Nat :=
  let front := x.src = .front || x.src = .twin
  let tc := if reason = 1 then x.verdict.tc else x.tc
  (if !front then 0 else if x.port < 48 then x.port * 2 ^ 26 else (x.port - 48) * 2 ^ 26 + 2 ^ 25)
    + tc * 2 ^ 22 + (if 2 ≤ reason && reason ≤ 4 then code else 0) * 2 ^ 18 + x.handle.getD 0 * 64 + b2n x.handle.isSome * 32

/-- The frame a copy delivers without its FCS, before truncation: an ingress mirror copy as received. -/
def fullBytes (s : State) (x : Frame) (c : Copy) : List Byte :=
  match c.mirror with
  | some k => padFrame (if s.rdB (pRPL 0) F.RPL_MIR_A_DIR k then x.edited else x.body)
  | none => padFrame (if c.late then x.body else x.edited)

/-- A slot's line bytes after its frame: META and the receive record, then the completion word. -/
def rxLine (s : State) (y : RxSlot) (x : Frame) (status : Nat) : List (Nat × List Byte) :=
  let a := slotAddr s y.ring y.idx
  let extra := extraTpid s (portRegion x.port)
  [(a + 0x10, leBytes 8 (rxMeta x y.reason y.code) ++ tsRecord x.stamp x.body extra false x.port ++ leBytes 4 0),
   (a + 0x3C, cmplWord s y.ring y.idx status y.reason (min 16383 (fullBytes s x y.copy).length))]

/-- The oldest slot taken on ring `n` is written, the host's descriptor giving its buffer; `ecc` is what the read of the cord meets (R230). A frame its
slice has lost completes as a bad one. -/
def slotWrite (n addr len ecc : Nat) (s : State) : State :=
  match s.hif.slots.find? (fun y => y.ring = n) with
  | none => s
  | some y =>
    let s1 := { s with hif := { s.hif with slots := s.hif.slots.erase y } }
    let a := slotAddr s n y.idx
    match s.frames.find? y.copy.frame with
    | none => completeSlot n y.idx [(a + 0x3C, cmplWord s n y.idx 2 y.reason 0)] s1
    | some x =>
      if !(x.complete && crosses s y.copy.frame) then s
      else
        let s2 := dropHostCopy y.copy (if x.served then s1 else readData y.copy.frame ecc s1)
        let full := (fullBytes s x y.copy).length
        let d := if x.served then padFrame x.edited else copyBytes s x y.copy
        if (x.bad && !y.copy.late) || (!x.served && readBad ecc) then completeSlot n y.idx (rxLine s y x 2) s2
        else if len < 64 then completeSlot n y.idx [(a + 0x3C, cmplWord s n y.idx 3 y.reason (min 16383 full))] s2
        else completeSlot n y.idx (rxLine s y x (if len < d.length then 1 else 0)) (emit (.dma addr (d.take len)) s2)

def execRxSlotWrite (n addr len ecc : Nat) (s : State) : Res := .next (slotWrite n addr len ecc s)

/-! ### TX rings (R504, R505) -/

/-- The TX ring served next: the first, round robin, that holds posted descriptors. DEDUCED (log entry 93). -/
def nextTx (s : State) : Option Nat :=
  let l := ((openRings s).filter (fun n => ringOpen s n 1)).mergeSort (· ≤ ·)
  match l.find? (fun n => s.hif.txNext ≤ n) with
  | some n => some n
  | none => l.head?

/-- A TX slot's outcome. -/
def txDone (n i status reason : Nat) (rec_ : Option (List Byte)) (s : State) : State :=
  { s with hif := { s.hif with dones := s.hif.dones ++ [(⟨n, i, status, reason, rec_⟩ : TxDone)] } }

/-- The host frame of a descriptor. -/
def hostFrame (s : State) (n i dest ctrl tc : Nat) (d : List Byte) : Frame :=
  let kind := ctrl % 4
  let region := ctrl / 4 % 4
  { frameOf (if kind = 0 then s.qPort dest else 12 * region) (d ++ leBytes 4 (crc32 d)) true false tc {} with
    src := .host (s.ringRd n F.RING_FN), region := region, stage := .retired
    verdict := { kind := if kind = 0 then .queue dest else .hamper dest, tc := tc }
    ring := some (n, i), oneStep := ctrl.testBit 4, tsReq := ctrl.testBit 5, why := (0, 0) }

/-- A frame leaves by a port the host interface serves itself. -/
def sendServed (n i p : Nat) (x : Frame) (s : State) : State :=
  let q := servedSend p x s
  txDone n i q.1 q.2.1 q.2.2.1 q.2.2.2

/-- The frame of a good descriptor goes on. In the smoulder state only keep ports and management ports are served (R541). DEDUCED (log entry 101). -/
def sendHost (n i dest ctrl tc : Nat) (d : List Byte) (s : State) : State :=
  let x := hostFrame s n i dest ctrl tc d
  if ctrl % 4 = 2 then sendServed n i (48 + dest) x s
  else if s.emb.asleep then
    if ctrl % 4 = 0 && keepPort s (s.qPort dest) then sendServed n i (s.qPort dest) x s else txDone n i 1 4 none s
  else
    let a := s.newFrame x
    let s1 := storeFrame a.1 a.2
    match s1.frames.find? a.1 with
    | some y => if y.bad then dropEarly a.1 (txReport a.1 1 8 none s1) else s1
    | none => s1

/-- Whether every field of a descriptor is in range; `rsv` is the number its reserved bytes spell. -/
def descOk (len dest ctrl tc rsv : Nat) : Bool :=
  60 ≤ len && len ≤ 9724 && ctrl < 64 && ctrl % 4 != 3 && tc < 8 && rsv = 0
    && !(ctrl % 4 = 1 && (16383 < dest || ctrl.testBit 5)) && !(ctrl % 4 = 2 && 1 < dest)

/-- One grant: the descriptor at DEV_IDX of ring `n` with its buffer. -/
def txFetch (n len dest ctrl tc rsv : Nat) (d : List Byte) (s : State) : State :=
  if nextTx s != some n || !(fabricOpen s || ctrl % 4 = 2 || s.emb.asleep) then s
  else
    let i := s.ringRd n F.RING_DEV_IDX
    let s1 := takeSlot n (holdLine n i s)
    let s2 := prefetch n { s1 with hif := { s1.hif with txNext := n + 1 } }
    if descOk len dest ctrl tc rsv then sendHost n i dest ctrl tc (d.take len) s2 else txDone n i 1 9 none s2

def execTxDescriptorFetch (n len dest ctrl tc rsv : Nat) (data : List Byte) (s : State) : Res := .next (txFetch n len dest ctrl tc rsv data s)

/-- The oldest outcome of ring `n` is written. -/
def txCompletion (n : Nat) (s : State) : State :=
  match s.hif.dones.find? (fun y => y.ring = n) with
  | none => s
  | some y =>
    let a := slotAddr s n y.idx
    let rec_ := match y.rec_ with | some r => [(a + 0x18, r)] | none => []
    completeSlot n y.idx (rec_ ++ [(a + 0x3C, cmplWord s n y.idx y.status y.reason 0)]) { s with hif := { s.hif with dones := s.hif.dones.erase y } }

def execTxCompletion (n : Nat) (s : State) : Res := .next (txCompletion n s)

/-! ### RECORD rings (R506) -/

/-- The oldest learning record goes to its ring, or is discarded. -/
def recordWrite (s : State) : State :=
  match s.tab.notices with
  | [] => s
  | (n, r) :: t =>
    let s1 := { s with tab := { s.tab with notices := t } }
    if ringOpen s1 n 2 then
      let i := s1.ringRd n F.RING_DEV_IDX
      let a := slotAddr s1 n i
      completeSlot n i [(a, r.take 16 ++ List.replicate (60 - (r.take 16).length) 0), (a + 0x3C, cmplWord s1 n i 0 0x10 0)]
        (prefetch n (takeSlot n (holdLine n i s1)))
    else count (cRing n 0) s1

def execRecordRingWrite (s : State) : Res := .next (recordWrite s)

/-! ### DMA errors (R508) -/

/-- A device request of ring `n` failed with error `kind`: the read of its next TX descriptor or buffer, or the write of its oldest RX slot; with
`late`, the write of its oldest TX completion. -/
def dmaError (n kind : Nat) (late : Bool) (s : State) : State :=
  let s1 :=
    if late then match s.hif.dones.find? (fun y => y.ring = n) with
      | some y => { s with hif := { s.hif with dones := s.hif.dones.erase y } }
      | none => s
    else if ringOpen s n 1 then txDone n (s.ringRd n F.RING_DEV_IDX) 2 0 none (takeSlot n s)
    else match s.hif.slots.find? (fun y => y.ring = n) with
      | some y => dropHostCopy y.copy { s with hif := { s.hif with slots := s.hif.slots.erase y } }
      | none => s
  let s2 := withLine 337 (fun s => s.setF pHIF F.HIF_RING_ERR_ANY) s1
  count (cRing n 1) (stopRing n 2 ((s2.wr pHIF F.HIF_RING_ERR_KIND kind).wr pHIF F.HIF_RING_ERR_RING n))

def execDmaError (n kind : Nat) (late : Bool) (s : State) : Res := .next (dmaError n kind late s)

/-! ### Held lines (R509) -/

/-- The line of a ring's index is given up to a snoop, or written back. -/
def lineLeaves (n i : Nat) (dirtyOnly : Bool) (s : State) : State :=
  match s.hif.lines.find? (fun x => x.ring = n && x.idx = i) with
  | some x => if dirtyOnly && x.data.isEmpty then s else releaseLine x s
  | none => s

def execHostSnoop (n i : Nat) (s : State) : Res := .next (lineLeaves n i false s)
def execLineWriteback (n i : Nat) (s : State) : Res := .next (lineLeaves n i true s)

/-- Every held line is written back or evicted. -/
def flushLines (s : State) : State := s.hif.lines.foldl (fun s x => releaseLine x s) s

def execCacheFlush (pg ag arg : Nat) (s : State) : Res :=
  .next (command pg ag 0x42 (pg = pHIF && arg = 0) (stateIn s pg [.ready, .run, .fenced]) (fun s => (flushLines s, rDONE)) s)

/-! ### The HDM decoder and the time window (R512 to R517) -/

/-- The host commits the decoder with a size in bytes; one too small, or no multiple of 256 MiB, fails with the decoder's error status. -/
def hdmCommit (size : Nat) (s : State) : State :=
  if s.rd pHIF F.HIF_LINK_LINK_MODE = 1 && size % 2 ^ 28 = 0 && windowBytes (s.rd pPEAT F.PEAT_CTRL_WIN_GIB) + 2 ^ 28 ≤ size then
    ({ s with hif := { s.hif with hdmSize := size, hdmErr := false } }).setF pHIF F.HIF_LINK_HDM_COMMITTED
  else if s.rd pHIF F.HIF_LINK_LINK_MODE = 1 then { s with hif := { s.hif with hdmErr := true } }
  else s

def execHdmCommit (size : Nat) (s : State) : Res := .next (hdmCommit size s)

/-- A read of line `k` of the time window: line 0 is a snapshot of this instant. -/
def timeRead (k : Nat) (s : State) : State :=
  if !s.rdB pHIF F.HIF_LINK_HDM_COMMITTED || s.inState pTIME .reset then s
  else
    let off := s.hif.hdmSize - 4096 + 64 * k
    if k = 0 then
      let q := timeSnapshot s
      emit (.cxlData off q.1 false) q.2
    else emit (.cxlData off (List.replicate 64 0) false) s

def execTimeWindowRead (k : Nat) (s : State) : Res := .next (timeRead k s)

/-- A read of BAR2 by function `f`: one that starts at offset 0 latches a fresh snapshot. -/
def bar2Read (f off len : Nat) (s : State) : State :=
  if s.rd pHIF F.HIF_LINK_LINK_MODE != 2 || !fnPresent s f || s.inState pTIME .reset then s
  else
    let s1 := if off = 0 then
        let q := timeSnapshot s
        { q.2 with hif := { q.2.hif with bar2 := q.2.hif.bar2.insert f q.1 } }
      else s
    let d := slice (s1.hif.bar2.get (List.replicate 64 0) f) off len
    emit (.bar2 f off (d ++ List.replicate (len - d.length) 0)) s1

def execBar2TimeRead (f off len : Nat) (s : State) : Res := .next (bar2Read f off len s)

def execTimeWindowWrite (s : State) : Res := .next (count (cChip 99) s)

/-! ### MSI-X (R518, R528) -/

/-- Whether two partitions share a vector. -/
def overlap (a n b m : Nat) : Bool := a < b + m && b < a + n && n != 0 && m != 0

/-- The partition lies within the vectors and overlaps no other function's. -/
def partitionRange (s : State) (f : Nat) (l : List NewVal) : Bool :=
  let b := nv s pHIF l F.HIF_MSIX_VEC_BASE f
  let n := nv s pHIF l F.HIF_MSIX_VEC_COUNT f
  b + n ≤ 256 && (List.range 8).all (fun g => g = f
    || !overlap b n (s.rdNext pHIF F.HIF_MSIX_VEC_BASE g) (s.rdNext pHIF F.HIF_MSIX_VEC_COUNT g))

/-- A write of HIF_MSIX_f. -/
def partitionWrite (f : Nat) (w : View) (ag v : Nat) (s : State) : State :=
  regWrite pHIF (0x060 + 4 * f) w ag v (partitionRange s f) (fun _ => !s.hif.msixEn.get false f) noBusy noEff s

def execMsixPartitionWrite (f : Nat) (w : View) (ag v : Nat) (s : State) : Res := .next (partitionWrite f w ag v s)

/-- A write of function `f`'s configuration space: 0 MSI-X Enable, 1 the function mask, 2 Bus Master Enable; of function 0 also 3 to 5 IMG_ADDR_LO,
IMG_ADDR_HI and IMG_LEN, 6 CXL.cache and 7 CXL.mem enabled. -/
def configWrite (f k v : Nat) (s : State) : State :=
  let on := v % 2 = 1
  let h := s.hif
  if s.rd pHIF F.HIF_LINK_LINK_MODE = 0 || !fnPresent s f || (2 < k && f != 0) || (5 < k && s.rd pHIF F.HIF_LINK_LINK_MODE != 1) then s
  else faultSync (match k with
    | 0 => { s with hif := { h with msixEn := h.msixEn.put false f on } }
    | 1 => { s with hif := { h with fnMask := h.fnMask.put false f on } }
    | 2 => { s with hif := { h with busMaster := h.busMaster.put false f on } }
    | 3 => { s with hif := { h with imgAddr := h.imgAddr / 2 ^ 32 * 2 ^ 32 + v / 16 * 16 } }
    | 4 => { s with hif := { h with imgAddr := v * 2 ^ 32 + h.imgAddr % 2 ^ 32 } }
    | 5 => { s with hif := { h with imgLen := v } }
    | 6 => if on then s.wr pHIF F.HIF_LINK_CACHE_ON 1 else flushLines (s.wr pHIF F.HIF_LINK_CACHE_ON 0)
    | _ => s.wr pHIF F.HIF_LINK_MEM_ON (b2n on))

def execConfigSpaceWrite (f k v : Nat) (s : State) : Res := .next (configWrite f k v s)

/-! ### Management ports (R511) -/

def execMgmtFrameRx (m : Nat) (data : List Byte) (stopped : Bool) (s : State) : Res :=
  .next (if s.link_ (48 + m) = lDISABLED || pinsTested s then s
    else if !s.portUp (48 + m) then count (cPort (48 + m) 12) s
    else servedReceive (48 + m) data stopped s)

/-- A management port's MODE changes only from or to 0. -/
def mgmtState (s : State) (m : Nat) (l : List NewVal) : Bool :=
  !changes s pHIF l F.HIF_MGMT_CFG_MODE m || s.rd pHIF F.HIF_MGMT_CFG_MODE m = 0 || nv s pHIF l F.HIF_MGMT_CFG_MODE m = 0

/-- A write of HIF_MGMT_CFG. -/
def mgmtWrite (m : Nat) (w : View) (ag v : Nat) (s : State) : State :=
  regWrite pHIF (0x100 + 0x20 * m) w ag v (fun l => nv s pHIF l F.HIF_MGMT_CFG_MODE m != 3) (mgmtState s m) noBusy noEff s

def execMgmtModeWrite (m : Nat) (w : View) (ag v : Nat) (s : State) : Res := .next (mgmtWrite m w ag v s)

/-- MODE as delivered: from 0 the port trains, at 0 it is disabled. -/
def mgmtDelivered (m was : Nat) (s : State) : State :=
  let p := 48 + m
  let is_ := s.rd pHIF F.HIF_MGMT_CFG_MODE m
  if was = 0 && is_ != 0 then (startsOver p lTRAINING (setLink_ p lTRAINING s)).updPort p (fun x => { x with filterAt := s.now })
  else if was != 0 && is_ = 0 then goDown p lDISABLED s
  else s

/-! ### Resets (R486, R507, R519, R537, R582) -/

/-- A host function is reset: its locks and shadows, its rings with what they hold, its interrupt stacks and its configuration. PRESUMED (log entry 96). -/
def functionReset (f : Nat) (s : State) : State :=
  let rings := (List.range 4096).filter (fun n => s.ringRd n F.RING_FN = f && (s.rdB (wRING n) F.RING_EN || ringBusy s n || s.ringRd n F.RING_RSTATE != 0))
  let mine := fun (n : Nat) => rings.contains n
  let vecs := (List.range 256).filter (fun v => vecOwner s v = some f)
  let s1 := sweepTag (0x90 + f) (endArrivals (fun x => x.src = .host f) (agentReset f s))
  let s2 := { s1 with frames := ⟨s1.frames.entries.map (fun (e : Nat × Frame) => match e.2.ring with
    | some (n, _) => if mine n then (e.1, { e.2 with ring := none, tsReq := false }) else e
    | none => e)⟩ }
  let gone := s2.hif.slots.filter (fun y => mine y.ring)
  let s3 := gone.foldl (fun s y => dropHostCopy y.copy s) { s2 with hif := { s2.hif with
    slots := s2.hif.slots.filter (fun y => !mine y.ring), dones := s2.hif.dones.filter (fun y => !mine y.ring) } }
  let s4 := (s3.hif.lines.filter (fun y => mine y.ring)).foldl (fun s y => releaseLine y s) s3
  let s5 := rings.foldl (fun s n => (s.wr (wRING n) F.RING_EN 0).wr (wRING n) F.RING_RSTATE 0) s4
  let s6 := vecs.foldl (fun s v => emptyStack v s) s5
  let h := s6.hif
  let s7 := { s6 with hif := { h with
    msixEn := h.msixEn.erase f, fnMask := h.fnMask.erase f, busMaster := h.busMaster.erase f, bar2 := h.bar2.erase f
    msix := h.msix.filter (fun v _ => !vecs.contains v), imgAddr := if f = 0 then 0 else h.imgAddr, imgLen := if f = 0 then 0 else h.imgLen } }
  faultSync s7

def execFunctionLevelReset (f : Nat) (s : State) : Res := .next (if fnPresent s f then functionReset f s else s)

/-- The host link goes down, or PERST_N falls: every function is reset, and the decoder and the enables of CXL are gone. -/
def hostDown (s : State) : State :=
  let s1 := (List.range 8).foldl (fun s f => if fnPresent s f then functionReset f s else s) s
  let s2 := [F.HIF_LINK_LINK_MODE, F.HIF_LINK_WIDTH, F.HIF_LINK_SPEED, F.HIF_LINK_CACHE_ON, F.HIF_LINK_MEM_ON, F.HIF_LINK_HDM_COMMITTED].foldl
    (fun s f => s.wr pHIF f 0) (flushLines s1)
  { s2 with hif := { s2.hif with hdmSize := 0, hdmErr := false } }.updPage pHIF (fun h => { h with substate := 0 })

def execHostLinkReset (s : State) : Res := .next (hostDown s)

/-- The link has trained in mode 1 or 2 at a width and speed: the functions FN_EN names are present (R496, R497). DEDUCED (log entry 97). -/
def hostUp (mode width speed : Nat) (s : State) : State :=
  if s.rd pHIF F.HIF_LINK_LINK_MODE != 0 then s
  else
    let s1 := ((s.wr pHIF F.HIF_LINK_LINK_MODE mode).wr pHIF F.HIF_LINK_WIDTH width).wr pHIF F.HIF_LINK_SPEED speed
    { s1 with hif := { s1.hif with present := 1 + 2 * s1.rd pHIF F.HIF_FN_FN_EN } }.updPage pHIF (fun h => { h with substate := mode })

def execHostLinkUp (mode width speed : Nat) (s : State) : Res := .next (hostUp mode width speed s)

end Sys2Proof.Machine
end

