-- ==== Sys2Proof/Machine/Supply.lean ====
section
/-! DEFINITION. The supply and sensor block (R30 to R36, R47): speed margins, the adaptive supply, and its PMBus transactions. -/
namespace Sys2Proof.Machine

/-- The exponent of the regulator's linear mode (R32). DESIGN CHOICE (log entry 32). -/
def voutExp (s : State) : Int := toSigned 5 (s.sns.exponent.getD (Config.voutExponent % 32))

/-- The data word of a VOUT_COMMAND of `mv`: the mantissa of the linear mode with that exponent (R32). Between two steps the spec does not say which is
sent. DESIGN CHOICE (log entry 122). PRESUMED (log entry 33). -/
def voutWord (s : State) (mv : Nat) : Nat :=
  let e := voutExp s
  let n := if 0 ≤ e then mv else mv * 2 ^ (-e).toNat
  let d := if 0 ≤ e then 1000 * 2 ^ e.toNat else 1000
  (n / d + (if n % d = 0 then 0 else b2n (Config.voutUp mv))) % 65536

/-- A VOUT_COMMAND for the core supply (R31). DEDUCED (log entry 34). -/
def requestMv (v : Nat) (s : State) : State :=
  emit (.vout v (voutWord s v)) { s.wr pSNS F.SNS_AVS_STATUS_VREQ_MV v with sns := { s.sns with vreq := some v, nacks := 0 } }

/-- The core supply as last requested or read; before either, the regulator's power-on output, within R36. -/
def coreMv (s : State) : Nat := s.sns.vreq.getD (780 + Config.powerOnMv % 71)

/-- R30 and R34: a region's sensor reports its margin, which saturates at ±127 steps. DEDUCED (log entry 104). -/
def speedSample (r : Nat) (margin : Int) (s : State) : State :=
  if s.inState pSNS .reset then s
  else
    let m := clampInt (-127) 127 margin
    let old := s.rd pSNS F.SNS_SPEED_REGION_MARGIN_MIN r
    let s1 := s.wrS pSNS F.SNS_SPEED_REGION_MARGIN m r
    let s2 := if old = 0x80 || m < toSigned 8 old then s1.wrS pSNS F.SNS_SPEED_REGION_MARGIN_MIN m r else s1
    let s3 := { s2 with sns := { s2.sns with lowest := some (match s2.sns.lowest with | some x => min x m | none => m) } }
    if m < 0 then
      ledgerEvent 0x03 (256 * r + ofSigned 8 m) (withLine 321 (fun s => s.setF pSNS F.SNS_AVS_STATUS_SPEED_LOW) s3)
    else s3
def execSpeedSample (r : Nat) (margin : Int) (s : State) : Res := .next (speedSample r margin s)

/-- R31: the loop's evaluation, from the lowest margin since the last one. The smoulder state suspends it (R542), and margins reported meanwhile lie
before the next 50 µs. -/
def avsEval (s : State) : State :=
  if !s.rdB pSNS F.SNS_AVS_CTRL_AVS_EN then s
  else if s.emb.avsHeld then { s with sns := { s.sns with lowest := none } }
  else
    match s.sns.lowest with
    | none => s
    | some m =>
      let v := coreMv s
      let target : Int := s.rd pSNS F.SNS_AVS_CTRL_TARGET
      let next :=
        if m < target then min (v + 5) (s.rd pSNS F.SNS_AVS_LIMITS_VMAX_MV)
        else if target + s.rd pSNS F.SNS_AVS_CTRL_HYST < m then max (v - 5) (s.rd pSNS F.SNS_AVS_LIMITS_VMIN_MV)
        else v
      let s1 := { s with sns := { s.sns with lowest := none, mMin := some m } }
      if next != v then requestMv next s1 else s1

/-- AT_VMAX (R47): vreq stands at VMAX_MV and m_min is below TARGET. DEDUCED (log entry 34). -/
def atVmax (s : State) : Bool :=
  s.sns.vreq = some (s.rd pSNS F.SNS_AVS_LIMITS_VMAX_MV) && s.sns.mMin.any (fun m => decide (m < (s.rd pSNS F.SNS_AVS_CTRL_TARGET : Int)))
def execAvsEval (s : State) : Res := .next (avsEval s)

/-- R32: the loop does not start, or stops, on the regulator's account; no request follows until AVS_EN is set again (R33). -/
def pmbusFail (s : State) : State :=
  withLine 320 (fun s => (s.wr pSNS F.SNS_AVS_CTRL_AVS_EN 0).setF pSNS F.SNS_AVS_STATUS_PMBUS_FAIL) { s with sns := { s.sns with failed := true } }

/-- R33: a transaction failed three times. -/
def pmbusLost (s : State) : State :=
  ledgerEvent 0x09 0 (report pSNS .noted (pmbusFail { s with sns := { s.sns with nacks := 0 } }))

/-- R32: the regulator's answers to VOUT_MODE and READ_VOUT as AVS_EN rises: bits 0 and 1 of `acks` say whether each was acknowledged, the
linear mode is mode 0 with a five-bit exponent. DESIGN CHOICE (log entry 32). PRESUMED (log entry 33). -/
def avsStart (mode vout acks : Nat) (s : State) : State :=
  let e := toSigned 5 mode
  let mv := if 0 ≤ e then vout * 1000 * 2 ^ e.toNat else vout * 1000 / 2 ^ (-e).toNat
  let s := { s with sns := { s.sns with failed := false } }
  if !acks.testBit 0 then pmbusLost s
  else if mode / 32 % 8 != 0 then pmbusFail s
  else if !acks.testBit 1 then pmbusLost s
  else { s with sns := { s.sns with exponent := some (mode % 32), vreq := some mv, lowest := none, mMin := none } }

/-- AVS_EN needs a PMBus address. -/
def avsRange (s : State) (l : List NewVal) : Bool :=
  !(nv s pSNS l F.SNS_AVS_CTRL_AVS_EN != 0 && nv s pSNS l F.SNS_AVS_CTRL_PMBUS_ADDR = 0)

/-- What follows a write of SNS_AVS_CTRL. -/
def avsTaken (s : State) (ans : Option (Nat × Nat × Nat)) (l : List NewVal) (t : State) : State :=
  let t1 := if nv s pSNS l F.SNS_AVS_CTRL_MIN_REARM != 0 then
      (List.range 4).foldl (fun t r => t.wr pSNS F.SNS_SPEED_REGION_MARGIN_MIN 0x80 r) t
    else t
  if !changes s pSNS l F.SNS_AVS_CTRL_AVS_EN || nv s pSNS l F.SNS_AVS_CTRL_AVS_EN = 0 then t1
  else match ans with
    | some (m, x, a) => avsStart m x a t1
    | none =>
      let f := nextFree t1
      let a := Config.regulator f.1
      avsStart (a.1 % 256) (a.2.1 % 65536) (a.2.2 % 4) f.2

/-- A write of SNS_AVS_CTRL (R47): MIN_REARM acts, and a rise of AVS_EN asks the regulator, whose answers are the board's where the
command brings none. -/
def avsWrite (w : View) (ag v : Nat) (ans : Option (Nat × Nat × Nat)) (s : State) : State :=
  regWrite pSNS 0x044 w ag v (avsRange s) noCheck noBusy (avsTaken s ans) s

def execAvsEnable (ag v mode vout acks : Nat) (s : State) : Res := .next (avsWrite .normal ag v (some (mode, vout, acks)) s)
def execMinRearm (ag v : Nat) (s : State) : Res := .next (avsWrite .normal ag v none s)

/-- R33: a request was not acknowledged; it is sent again twice. -/
def execPmbusNack (s : State) : Res :=
  .next (if s.rd pSNS F.SNS_AVS_STATUS_VREQ_MV = 0 || (!s.rdB pSNS F.SNS_AVS_CTRL_AVS_EN && (s.sns.failed || s.rd pEMB F.EMB_STATUS_SM_STATE = 0)) then s
    else if 2 ≤ s.sns.nacks then pmbusLost s
    else emit (.vout (s.rd pSNS F.SNS_AVS_STATUS_VREQ_MV) (voutWord s (s.rd pSNS F.SNS_AVS_STATUS_VREQ_MV))) { s with sns := { s.sns with nacks := s.sns.nacks + 1 } })

end Sys2Proof.Machine
end

