-- ==== Sys2Proof/Machine/Ember.lean ====
section
/-! DEFINITION. The Ember domain and the smoulder state (R538 to R545, R577): causes of entry and of wake, the halting of the other blocks, the
core supply's steps, and the return. -/
namespace Sys2Proof.Machine

/-- SM_STATE: 0 RUN, 1 ENTERING, 2 SMOULDER, 3 EXITING. -/
def smState (s : State) : Nat := s.rd pEMB F.EMB_STATUS_SM_STATE

/-! ### Entry (R540 to R542) -/

/-- A port that may be kept: a single-lane 10GBASE-R or 25GBASE-R port in UP, its block running. -/
def keepable (s : State) (p : Nat) : Bool :=
  (s.speed p = 1 || s.speed p = 2) && s.link_ p = lUP && s.inState (pPORT (portRegion p)) .run

/-- The ports named to be kept. -/
def namedKeeps (s : State) : List Nat :=
  ((if s.rdB pEMB F.EMB_KEEP_KEEP0_EN then [s.rd pEMB F.EMB_KEEP_KEEP0_PORT] else [])
    ++ (if s.rdB pEMB F.EMB_KEEP_KEEP1_EN then [s.rd pEMB F.EMB_KEEP_KEEP1_PORT] else [])).eraseDups

/-- The ports recorded in EMB_PORT_SAVED. -/
def savedPorts (s : State) : List Nat :=
  (List.range 48).filter (fun p => (s.rd pEMB F.EMB_PORT_SAVED_LO_PORTS + s.rd pEMB F.EMB_PORT_SAVED_HI_PORTS * 2 ^ 32).testBit p)

/-- Steps 1 and 2: ENTERING, with the ports that go down being disabled; `pin` is the cause. -/
def smoulderStart (pin : Bool) (s : State) : State :=
  let named := namedKeeps s
  let keeps := named.filter (keepable s)
  let l := (List.range 48).filter (fun p => s.formed p && !keeps.contains p && s.link_ p != lDISABLED)
  let mask := l.foldl (fun n p => n + 2 ^ p) 0
  let s1 := { s with emb := { s.emb with since := s.now, keeps := keeps, asleep := false, latched := none, deferred := none, entry := none } }
  let s2 := ((s1.wr pEMB F.EMB_STATUS_SM_STATE 1).wr pEMB F.EMB_STATUS_ENTRY_CAUSE (b2n pin)).wr pEMB F.EMB_STATUS_WAKE_DEFERRED 0
  let s3 := (s2.wr pEMB F.EMB_PORT_SAVED_LO_PORTS (mask % 2 ^ 32)).wr pEMB F.EMB_PORT_SAVED_HI_PORTS (mask / 2 ^ 32)
  let s4 := if keeps.length < named.length then s3.setF pEMB F.EMB_EVENT_KEEP_REFUSED else s3
  ledgerEvent 0x05 (b2n pin) (hourEvent 4 (l.foldl (fun s p => s.updPort p (fun x => { x with disabling := true })) s4))

/-- An entry cause (R544): taken in RUN, latched in EXITING. -/
def smoulderEntry (pin : Bool) (s : State) : State :=
  if smState s = 0 then smoulderStart pin s
  else if smState s = 3 then { s with emb := { s.emb with entry := some (s.emb.entry.getD pin) } }
  else s

/-- The pages that are halted: the regions' blocks but for the port blocks of keep ports, XBAR, SFAB, PEAT and MATE. -/
def haltedPages (s : State) : List Nat :=
  [pXBAR, pSFAB, pPEAT, pMATE] ++ (List.range 4).flatMap (fun r =>
    (regionPages r).filter (fun pg => !(isBlk pg .port && s.emb.keeps.any (fun p => portRegion p = r))))

/-- Steps 3 and 4: the last ports go down, routines are abandoned, and the blocks enter HALTED; the adaptive supply is suspended.
DEDUCED (log entry 100). -/
def smoulderHalt (s : State) : State :=
  if s.emb.asleep then s
  else
    let s1 := (savedPorts s).foldl (fun s p =>
      if (s.port p).disabling then portDisabled p s else s) s
    let busy := s1.eng.ctx.entries.filterMap (fun (e : Nat × Ctx) => if e.2.busy then some e.1 else none)
    let s2 := busy.foldl (fun s i => abandon (i / 8) (i % 8) s) s1
    let s3 := mateStop s2
    let l := haltedPages s3
    let before := l.foldl (fun (m : SMap BlkState) pg => m.insert pg (s3.page pg).state) ⟨[]⟩
    let s4 := l.foldl (fun s pg => setState pg .halted s) s3
    { s4 with emb := { s4.emb with asleep := true, before := before, avsHeld := true, vBefore := coreMv s4 } }

/-! ### Exit (R543, R544) -/

def wakeCode : Wake → Nat
  | .command => 0 | .watch _ => 1 | .power => 2

/-- Step 1. -/
def wakeStart (w : Wake) (s : State) : State :=
  let s1 := ((s.wr pEMB F.EMB_STATUS_SM_STATE 3).wr pEMB F.EMB_STATUS_WAKE_CAUSE (wakeCode w)).wr pEMB F.EMB_STATUS_WAKE_DEFERRED 0
  let s2 := match w with
    | .watch k => s1.wr pEMB F.EMB_STATUS_WAKE_WATCH k
    | _ => s1
  ledgerEvent 0x06 (wakeCode w) (agentReset 14 { s2 with emb := { s2.emb with since := s2.now, latched := none, deferred := none } })

/-- A wake cause: taken in SMOULDER, latched in ENTERING. -/
def wakeTaken (w : Wake) (s : State) : State :=
  if smState s = 2 then wakeStart w s
  else if smState s = 1 then { s with emb := { s.emb with latched := some (s.emb.latched.getD w) } }
  else s

/-- A wake from a watched source or a command, which waits while POWER_FAIL_N is asserted (R539). -/
def wakeCause (w : Wake) (s : State) : State :=
  if s.emb.pfLevel && !s.rdB pEMB F.EMB_CTRL_PF_OVERRIDE then
    ({ s with emb := { s.emb with deferred := some (s.emb.deferred.getD w) } }).setF pEMB F.EMB_STATUS_WAKE_DEFERRED
  else wakeTaken w s

/-- Steps 3 to 5: the blocks return to their states, the saved ports train again. -/
def wakeEnd (s : State) : State :=
  let back := fun (s : State) (e : Nat × BlkState) =>
    if !s.inState e.1 .halted then s
    else if e.2 = .ready || e.2 = .run then enterState e.1 e.2 s else setState e.1 e.2 s
  let s1 := s.emb.before.entries.foldl back { s with emb := { s.emb with asleep := false, avsHeld := false, before := ⟨[]⟩ }, sns := { s.sns with lowest := none } }
  let s2 := (savedPorts s1).foldl (fun s p =>
    if s.link_ p = lDISABLED then
      syncGuards (syncSub (portRegion p) (verifyIdle p ((setLink_ p lTRAINING s).updPort p (fun x => { x with filterAt := s.now }))))
    else s) s1
  let s3 := (List.range 48).foldl (fun s p => syncGate p s) s2
  let us := min 65535 ((s3.now - s3.emb.since) / usU)
  let s4 := srcEvent 339 (((s3.wr pEMB F.EMB_STATUS_SM_STATE 0).setF pEMB F.EMB_EVENT_EXIT_SEEN).wr pEMB F.EMB_TIMES_LAST_EXIT_US us)
  match s4.emb.entry with
  | some pin => smoulderStart pin s4
  | none => s4

/-! ### The rows -/

/-- R539: POWER_FAIL_N as filtered asserts. -/
def powerFail (s : State) : State :=
  let s1 := (withLine 338 (fun s => { s with emb := { s.emb with pfLevel := true } }) s).setF pEMB F.EMB_STATUS_PF_LEVEL
  if s.emb.pfLevel || !s1.rdB pEMB F.EMB_CTRL_PF_EN || !s1.inState pEMB .run then s1 else smoulderEntry true s1
def execPowerFailAssert (s : State) : Res := .next (powerFail s)

/-- R539: it deasserts. A deferred wake is acted on; otherwise restored power is a wake cause while WAKE_ON_PWR is 1. -/
def powerBack (s : State) : State :=
  let s1 := ({ s with emb := { s.emb with pfLevel := false, deferred := none } }.wr pEMB F.EMB_STATUS_PF_LEVEL 0).wr pEMB F.EMB_STATUS_WAKE_DEFERRED 0
  match s.emb.deferred with
  | some w => wakeTaken w s1
  | none => if s.emb.pfLevel && s1.rdB pEMB F.EMB_CTRL_WAKE_ON_PWR then wakeTaken .power s1 else s1
def execPowerFailDeassert (s : State) : Res := .next (powerBack s)

/-- R538: an event on the source that watch `k` names, whatever its EN and MASK. Outside the smoulder state it has no effect. -/
def execWatchedWake (k : Nat) (s : State) : Res :=
  .next (if s.rdB pEMB F.EMB_WATCH_EN k && smState s = 2 then wakeCause (.watch k) s else s)

def execSmoulderEnter (pg ag arg : Nat) (s : State) : Res :=
  .next (command pg ag 0x42 (pg = pEMB && arg = 0) (s.inState pEMB .run && (smState s = 0 || smState s = 3))
    (fun s => (smoulderEntry false s, rDONE)) s)

def execSmoulderExit (pg ag arg : Nat) (s : State) : Res :=
  .next (command pg ag 0x43 (pg = pEMB && arg = 0) (s.inState pEMB .run && smState s = 2)
    (fun s => (wakeCause .command s, rDONE)) s)

/-- R542 step 5 and R543 step 2: the next 5 mV step, down to SM_VCORE_MV or back to the level before entry; after a failed transaction no
request is sent until AVS_EN is set again (R33). DEDUCED (log entry 35). -/
def vcoreStep (s : State) : State :=
  if smState s = 1 then
    let s1 := smoulderHalt s
    let t := s1.rd pEMB F.EMB_CTRL_SM_VCORE_MV
    if t < coreMv s1 && !s1.sns.failed then requestMv (max t (coreMv s1 - 5)) s1 else s1
  else if smState s = 3 && coreMv s < s.emb.vBefore && !s.sns.failed then requestMv (min s.emb.vBefore (coreMv s + 5)) s
  else s
def execVcoreStep (s : State) : Res := .next (vcoreStep s)

/-- R542 step 6, once the supply is at its level, or no request can be sent (R33); a latched wake begins the exit. -/
def entryDone (s : State) : State :=
  let s1 := smoulderHalt s
  if smState s != 1 || (s1.rd pEMB F.EMB_CTRL_SM_VCORE_MV < coreMv s1 && !s1.sns.failed) then s
  else
    let us := min 65535 ((s1.now - s1.emb.since) / usU)
    let s2 := (((s1.wr pEMB F.EMB_STATUS_SM_STATE 2).setF pEMB F.EMB_EVENT_ENTRY_SEEN).addSat pEMB F.EMB_EVENT_ENTRY_CNT).wr pEMB F.EMB_TIMES_LAST_ENTRY_US us
    match s2.emb.latched with
    | some w => wakeStart w s2
    | none => s2
def execSmoulderEntryDone (s : State) : Res := .next (entryDone s)

def execSmoulderExitDone (s : State) : Res := .next (if smState s = 3 && (s.emb.vBefore ≤ coreMv s || s.sns.failed) then wakeEnd s else s)

/-- R612: the highest die temperature crosses 105 °C, which bit 0 of the alarm word shows. -/
def execDieTemperatureAlarm (hot : Bool) (s : State) : Res := .next { s with sns := { s.sns with hot := hot } }

end Sys2Proof.Machine
end

