-- ==== Sys2Proof/Machine/Interrupts.lean ====
section
/-! DEFINITION. The meanings of the interrupt controller's steps (R523 to R537, R547). -/
namespace Sys2Proof.Machine

/-- R527: an event on an event source; a level source makes its events by its status bits. -/
def execInterruptEvent (n : Nat) (s : State) : Res := .next (if srcLevel n then s else srcEvent n s)

/-- R531: the status bits of a level source are cleared. -/
def execLevelDeassert (n : Nat) (s : State) : Res := .next (if (s.src n).line && !lineOf s n then srcFall n s else s)

/-- R529: the next deliverable source of a target. -/
def execInterruptDelivery (t : Nat) (s : State) : Res :=
  .next (match nextSource s t with
    | some n => deliver t n s
    | none => s)

/-- A read of INT_CLAIM_t (R530). -/
def claimRead (t ag : Nat) (w : View) (s : State) : State :=
  match s.stack t with
  | e :: _ =>
    let x := s.src e.source
    if w = .normal && mayClaim s t ag && !x.claimed then
      emit (.claim t (2 ^ 31 + b2n x.retracted * 2 ^ 30 + e.prio * 2 ^ 24 + x.count * 2 ^ 16 + e.source))
        (s.updSrc e.source (fun x => { x with claimed := true, claimCount := x.count, count := 0 }))
    else emit (.claim t 0) s
  | [] => emit (.claim t 0) s

def execIntClaimRead (t ag : Nat) (w : View) (s : State) : Res := .next (claimRead t ag w s)

/-- A write of INT_CLAIM_t (R532, R533). -/
def completeSource (t ag : Nat) (w : View) (v : Nat) (s : State) : State :=
  let off := 0x400 + 4 * t
  let l := newVals s pINT .int off w v
  let c := firstFail (lockedBy s pINT ag) (rangeOk s pINT .int off w v) (stateOk s pINT ag .int off) false
  let n := nv s pINT l F.INT_CLAIM_SOURCE t
  if c != rDONE then record pINT ag (off / 4) 0xFF c s
  else if !mayClaim s t ag then record pINT ag (off / 4) 0xFF rOWNER s
  else match s.stack t with
    | e :: r =>
      if e.source = n && (s.src n).claimed then
        record pINT ag (off / 4) 0xFF rDONE (setStack t r (s.updSrc n (fun x => { x with active := false, claimed := false, retracted := false })))
      else stackFault t n (record pINT ag (off / 4) 0xFF rSTATE s)
    | [] => stackFault t n (record pINT ag (off / 4) 0xFF rSTATE s)

def execIntComplete (t ag : Nat) (w : View) (v : Nat) (s : State) : Res := .next (completeSource t ag w v s)

/-- R534: a hold-off that has run out on the local counter ends. -/
def execHoldoffExpiry (g : Nat) (s : State) : Res :=
  .next (if heldOff s g then s else { s with int := { s.int with holdEnd := s.int.holdEnd.erase g } })

def execStackClear (pg ag arg : Nat) (s : State) : Res :=
  .next (command pg ag 0x42 (pg = pINT && arg ≤ 257) (stateIn s pg [.ready, .run]) (fun s => (emptyStack arg s, rDONE)) s)

/-! ### The interrupt-source window (R547) -/

/-- The source exists; FIRE is not for a level source; no enabled source names FAULT_TARGET. -/
def sourceRange (s : State) (n k v : Nat) (l : List NewVal) : Bool :=
  let e := wISRC n
  srcConnected n && !(k = 2 && v = 1 && srcLevel n)
    && !(k = 0 && nv s e l F.SRC_EN = 1 && nv s e l F.SRC_TARGET = s.rd pINT F.INT_FAULT_CFG_FAULT_TARGET)

/-- TARGET and PRIO do not change while the source is ACTIVE. -/
def sourceState (s : State) (n k : Nat) (l : List NewVal) : Bool :=
  let e := wISRC n
  !(k = 0 && (s.src n).active && (changes s e l F.SRC_TARGET || changes s e l F.SRC_PRIO))

/-- What follows: a write of PENDING to a source that is not ACTIVE clears it; FIRE is an event. -/
def sourceTaken (s : State) (n k v : Nat) (_ : List NewVal) (t : State) : State :=
  if k = 1 && v.testBit 30 && !(s.src n).active then t.updSrc n (fun x => { x with pending := false })
  else if k = 2 && v = 1 then srcEvent n t
  else t

/-- A write to word `k` of a source's entry (R535, R536, R547). -/
def sourceWrite (n k ag v : Nat) (s : State) : State :=
  entryWrite pINT (wISRC n) .isrc (4 * k) (0x800000 + 32 * n + 4 * k) ag v (sourceRange s n k v) (sourceState s n k) (sourceTaken s n k v) s

def execIntSourceWrite (n k ag v : Nat) (s : State) : Res := .next (sourceWrite n k ag v s)
def execFire (n ag v : Nat) (s : State) : Res := .next (sourceWrite n 2 ag v s)

end Sys2Proof.Machine
end

