-- ==== Sys2Proof/Machine/Ledger.lean ====
section
/-! DEFINITION. The statistics window (R550 to R554), the lifetime ledger with the flash it writes (R560 to R571), and the SMBus slave (R568,
R602, R612, R620). -/
namespace Sys2Proof.Machine

/-! ### The flash (R563, R566, R581, R600) -/

def flashByte (s : State) (a : Nat) : Byte := s.boot.flash.get 0xFF a
def flashRead (s : State) (a n : Nat) : List Byte := (List.range n).map (fun i => flashByte s (a + i))

/-- Bytes written over those of the flash. -/
def setFlash (a : Nat) (l : List Byte) (s : State) : State :=
  { s with boot := { s.boot with flash := (l.foldl (fun (m : SMap Byte × Nat) b => (m.1.put 0xFF m.2 b, m.2 + 1)) (s.boot.flash, a)).1 } }

/-- What an operation leaves: an erase sets every bit of its sector, a program only clears bits. PRESUMED (log entry 20). -/
def flashApply (o : FlashOp) (s : State) : State :=
  if o.erase then { s with boot := { s.boot with flash := s.boot.flash.filter (fun a _ => a < o.addr || o.addr + 4096 ≤ a) } }
  else setFlash o.addr (List.zipWith (· &&& ·) (flashRead s o.addr o.data.length) o.data) s

/-- What an operation that was cut short, or failed, leaves: bytes the spec does not say. DESIGN CHOICE (log entry 21). -/
def flashTear (o : FlashOp) (s : State) : State :=
  let f := nextFree s
  setFlash o.addr ((List.range (if o.erase then 4096 else o.data.length)).map (Config.tornByte f.1)) f.2

def setFlashOp (o : Option FlashOp) (s : State) : State := { s with boot := { s.boot with flashOp := o } }

/-! ### Hold-up energy (R564) -/

/-- E in mJ from an ADC code, in the units of LDG_HU_CFG and LDG_HU_LIM. -/
def holdupEnergy (code div cap vmin : Nat) : Nat :=
  let a := code * div * 12
  let b := 10485760
  if a * 1000 < vmin * b then 0 else cap * (a * a * 1000000 - vmin * vmin * b * b) / (2 * b * b * 1000000)

/-- HOLDUP_LOW brought up to E and the pin. -/
def syncHoldup (s : State) : State :=
  withLine 341 (fun s => s.wr pLDG F.LDG_HU_STAT_HOLDUP_LOW
    (b2n (s.rd pLDG F.LDG_HU_STAT_E_MJ < s.rd pLDG F.LDG_HU_NEED_ERASE_MJ || !s.rdB pLDG F.LDG_HU_STAT_HOLDUP_OK))) s

/-- A sample of HOLDUP_SENSE, `uv` µV at the pin. -/
def holdupSample (uv : Nat) (s : State) : State :=
  if s.inState pLDG .reset then s
  else
    let code := min 4095 (uv * 4096 / 1200000)
    let e := holdupEnergy code (s.rd pLDG F.LDG_HU_CFG_DIV) (s.rd pLDG F.LDG_HU_CFG_CAP_MF) (s.rd pLDG F.LDG_HU_LIM_VMIN_MV)
    syncHoldup ((s.wr pLDG F.LDG_HU_STAT_CODE code).wr pLDG F.LDG_HU_STAT_E_MJ (min 65535 e))
def execHoldupSample (uv : Nat) (s : State) : Res := .next (holdupSample uv s)

/-- HOLDUP_OK as filtered. -/
def holdupOk (level : Bool) (s : State) : State :=
  let rose := level && !s.rdB pLDG F.LDG_HU_STAT_HOLDUP_OK
  let s1 := s.wr pLDG F.LDG_HU_STAT_HOLDUP_OK (b2n level)
  syncHoldup (if rose then { s1 with ldg := { s1.ldg with holdupAt := s1.now } } else s1)
def execHoldupOkChange (level : Bool) (s : State) : Res := .next (holdupOk level s)

/-- Whether the ledger may start an operation that needs `mj`. -/
def mayStartOp (s : State) (mj : Nat) : Bool :=
  mj ≤ s.rd pLDG F.LDG_HU_STAT_E_MJ && s.rdB pLDG F.LDG_HU_STAT_HOLDUP_OK && s.ldg.holdupAt + 10 * usU ≤ s.now

/-! ### Records (R560 to R563) -/

/-- WSTATE, which SUBSTATE repeats. -/
def WState.code : WState → Nat
  | .idle => 0 | .writing => 1 | .deferred => 2 | .stopped => 3
def setW (w : WState) (s : State) : State :=
  { s with ldg := { s.ldg with wstate := w } }.updPage pLDG (fun h => { h with substate := w.code })

/-- Bits 15:0 of LDG_STATUS. -/
def ldgStatus (s : State) : Nat :=
  s.ldg.wstate.code * 2 ^ 14 + s.rd pLDG F.LDG_STATUS_FLASH_ERR * 2 ^ 13 + s.ldg.queue.length * 2 ^ 8

/-- UPTIME: whole seconds of the local counter. -/
def uptime (s : State) : Nat := s.now / secU

/-- A count in 2 B, which stops at its top. -/
def le2 (n : Nat) : List Byte := leBytes 2 (min 65535 n)

/-- The payload of an hour. -/
def Hour.bytes (h : Hour) : List Byte :=
  leBytes 4 h.hour ++ le2 h.secs ++ [0, 0] ++ h.temp.flatMap le2 ++ h.vreq.flatMap le2 ++ h.margin.flatMap le2
    ++ h.errs.flatMap (fun n => leBytes 4 (min 4294967295 n)) ++ h.events.flatMap le2
    ++ leBytes 2 (ofSigned 16 (h.tmax.getD 0)) ++ leBytes 2 (ofSigned 16 (h.tmin.getD 0)) ++ leBytes 4 h.deferred

/-- The 256 B of a record written now. -/
def recordBytes (s : State) (r : LdgRec) : List Byte :=
  let t := s.sNow
  let pay := r.payload.take 220
  let d := leBytes 4 0x5247444C ++ [1, BitVec.ofNat 8 r.kind, 0, 0] ++ leBytes 4 (s.ldg.lastSeq + 1)
    ++ leBytes 4 (s.ldg.powerCycle + b2n (r.kind = 3)) ++ leBytes 6 (tSec t) ++ leBytes 2 (b2n s.time.everLocked + 2 * b2n s.banked)
    ++ leBytes 4 (tNs t) ++ leBytes 4 (uptime s) ++ pay ++ List.replicate (220 - pay.length) 0
  d ++ leBytes 4 (crc32 d)

/-- A record is valid when MAGIC, FORMAT and CRC are correct. -/
def validRec (d : List Byte) : Bool :=
  d.length = 256 && ofLe (d.take 4) = 0x5247444C && byteAt d 4 = 1 && ofLe (d.drop 252) = crc32 (d.take 252)
def recSeq (d : List Byte) : Nat := ofLe (slice d 8 4)

/-- The partition: its slots, a slot's address, and the record a slot holds. -/
def slotCount (s : State) : Nat := 16 * s.rd pLDG F.LDG_PART_SECTORS
def recAddr (s : State) (k : Nat) : Nat := 4096 * s.rd pLDG F.LDG_PART_BASE + 256 * k
def recAt (s : State) (k : Nat) : List Byte := flashRead s (recAddr s k) 256

/-- The record `back` records before the newest. -/
def findRec (s : State) (back : Nat) : Option (List Byte) :=
  if s.ldg.lastSeq < back then none
  else ((List.range (slotCount s)).map (recAt s)).find? (fun d => validRec d && recSeq d = s.ldg.lastSeq - back)

/-- The scan at boot (R563): the valid record with the highest SEQ is the last one. DEDUCED (log entry 102). -/
def ledgerScan (s : State) : State :=
  let best := (List.range (slotCount s)).foldl (fun (b : Option (Nat × List Byte)) k =>
    let d := recAt s k
    if !validRec d then b
    else match b with
      | some (_, d0) => if recSeq d0 < recSeq d then some (k, d) else b
      | none => some (k, d)) none
  let l := match best with
    | some (k, d) => ((k + 1) % slotCount s, recSeq d, ofLe (slice d 12 4))
    | none => (0, 0, 0)
  let s1 := { s with ldg := { s.ldg with nextSlot := l.1, lastSeq := l.2.1, powerCycle := l.2.2 } }
  (s1.wr pLDG F.LDG_SEQ_SEQ l.2.1).wr pLDG F.LDG_POWER_CYCLE_COUNT l.2.2

/-- R561: the BOOT record, once after a reset, ahead of every other. -/
def ledgerBoot (s : State) : State :=
  if s.ldg.bootDone then s
  else
    let r : LdgRec := ⟨3, s.ldg.open_.hour, leBytes 4 0xB0010000 ++ leBytes 4 (s.rd (pENG 0) F.ENG_IMAGE_VER_VER), false⟩
    let s1 := { s with ldg := { s.ldg with bootDone := true } }
    if s1.ldg.queue.length < 16 then { s1 with ldg := { s1.ldg with queue := r :: s1.ldg.queue } }
    else srcEvent 344 ({ s1 with ldg := { s1.ldg with queue := r :: s1.ldg.queue.drop 1 } }.addSat pLDG F.LDG_DEFER_LOST)

/-- R560: the sample of a second: the highest die temperature in 1/16 °C, VREQ_MV and the lowest margin. -/
def ledgerSample (temp : Int) (s : State) : State :=
  if !s.inState pLDG .run then s
  else
    let bin := fun (l : List Nat) (k : Int) => modAt l (clampInt 0 (l.length - 1 : Nat) k).toNat (· + 1)
    let v : Int := s.rd pSNS F.SNS_AVS_STATUS_VREQ_MV
    let m := (List.range 4).foldl (fun a r => min a (s.rdS pSNS F.SNS_SPEED_REGION_MARGIN r)) (s.rdS pSNS F.SNS_SPEED_REGION_MARGIN 0)
    updHour (fun h => { h with
      secs := h.secs + 1
      temp := bin h.temp ((temp + 800) / 160)
      vreq := bin h.vreq ((v - 600) / 32)
      margin := bin h.margin (if m < 0 then 0 else m / 4 + 1)
      tmax := some (match h.tmax with | some x => max x temp | none => temp)
      tmin := some (match h.tmin with | some x => min x temp | none => temp) }) s
def execLedgerSample (temp : Int) (s : State) : Res := .next (ledgerSample temp s)

def execPeriodRecord (s : State) : Res :=
  .next (if s.inState pLDG .run then queueRecord ⟨1, s.ldg.open_.hour, s.ldg.open_.bytes, false⟩ s else s)

/-- R561: the hour just ended is recorded while the block runs, and the next one is open. -/
def hourClose (s : State) : State :=
  let h := s.ldg.open_
  let s1 := if s.inState pLDG .run then queueRecord ⟨2, h.hour, h.bytes, false⟩ s else s
  updHour (fun _ => { hour := max (h.hour + 1) (uptime s / 3600) }) s1
def execHourClose (s : State) : Res := .next (hourClose s)

/-! ### Writing (R563 to R566) -/

/-- What the next record needs, by whether it is the first of its sector. -/
def recordNeeds (s : State) : Nat :=
  if s.ldg.nextSlot % 16 = 0 then s.rd pLDG F.LDG_HU_NEED_ERASE_MJ else s.rd pLDG F.LDG_HU_NEED_PROG_MJ

/-- The writing of a record starts: with the erase of its sector where it is the sector's first. -/
def recordStart (r : LdgRec) (s : State) : State :=
  let a := recAddr s s.ldg.nextSlot
  let o : FlashOp := if s.ldg.nextSlot % 16 = 0 then ⟨true, a, [], true⟩ else ⟨false, a, recordBytes s r, true⟩
  setW .writing (setFlashOp (some o) { s with ldg := { s.ldg with inFlight := some r } })

/-- The oldest record is deferred, counted once. DEDUCED (log entry 103). -/
def recordDefer (r : LdgRec) (t : List LdgRec) (s : State) : State :=
  let s1 := setW .deferred { s with ldg := { s.ldg with queue := { r with held := true } :: t } }
  if r.held then s1
  else srcEvent 340 (updHour (fun h => { h with deferred := h.deferred + 1 }) (s1.addSat pLDG F.LDG_DEFER_DEFERRED))

/-- R564 and R565: the check for the oldest record. -/
def ledgerWrite (s : State) : State :=
  if !s.inState pLDG .run || slotCount s = 0 || s.ldg.wstate = .writing || s.ldg.wstate = .stopped || s.boot.flashOp.isSome || s.boot.warm.isSome then s
  else match s.ldg.queue with
    | [] => s
    | r :: t =>
      if mayStartOp s (recordNeeds s) then recordStart r { s with ldg := { s.ldg with queue := t } } else recordDefer r t s
def execLedgerWrite (s : State) : Res := .next (ledgerWrite s)

/-- A record whose writing did not end goes back to the front of the queue, where there is room. -/
def putBack (r : LdgRec) (s : State) : State :=
  if s.ldg.queue.length < 16 then { s with ldg := { s.ldg with queue := r :: s.ldg.queue } }
  else srcEvent 344 (s.addSat pLDG F.LDG_DEFER_LOST)

/-- R566: an operation of the ledger failed; the next sector is taken, or after three failures the writer stops. -/
def ledgerFail (s : State) : State :=
  match s.ldg.inFlight with
  | none => s
  | some r =>
    let next := if slotCount s = 0 then 0 else (s.ldg.nextSlot / 16 + 1) * 16 % slotCount s
    let s1 := withLine 342 (fun s => s.setF pLDG F.LDG_STATUS_FLASH_ERR)
      { s with ldg := { s.ldg with inFlight := none, fails := s.ldg.fails + 1, nextSlot := next } }
    if 3 ≤ s1.ldg.fails then setW .stopped (putBack r s1)
    else if s1.inState pLDG .run && s1.boot.warm.isNone && mayStartOp s1 (recordNeeds s1) then recordStart r s1
    else if s1.ldg.queue.length < 16 && s1.inState pLDG .run then recordDefer r s1.ldg.queue s1
    else setW .idle (putBack r s1)

/-- An operation of the ledger ended: the program follows its erase, and a program is read back. -/
def ledgerOpDone (o : FlashOp) (s : State) : State :=
  match s.ldg.inFlight with
  | none => s
  | some r =>
    if o.erase then setFlashOp (some ⟨false, o.addr, recordBytes s r, true⟩) s
    else if flashRead s o.addr o.data.length != o.data then ledgerFail s
    else
      let s1 := setW .idle { s with ldg := { s.ldg with
        inFlight := none, fails := 0, lastSeq := recSeq o.data, powerCycle := ofLe (slice o.data 12 4)
        nextSlot := if slotCount s = 0 then 0 else (s.ldg.nextSlot + 1) % slotCount s } }
      let s2 := s1.wr pLDG F.LDG_SEQ_SEQ s1.ldg.lastSeq
      if r.kind = 3 then s2.wr pLDG F.LDG_POWER_CYCLE_COUNT s2.ldg.powerCycle else s2

/-! ### Commands (R554, R567, R570) -/

/-- R554: the values and OVF bits of a range are cleared. -/
def clearCounters (base n : Nat) (s : State) : State :=
  let out := fun (i : Nat) => i < base || base + n ≤ i
  { s with cnt := { s.cnt with val := s.cnt.val.filter (fun i _ => out i), ovf := s.cnt.ovf.filter (fun i _ => out i) } }

def execLdgCntClear (pg ag arg : Nat) (s : State) : Res :=
  .next (
    let base := s.rd pLDG F.LDG_CLR_BASE_BASE
    let n := s.rd pLDG F.LDG_CLR_COUNT_COUNT
    command pg ag 0x42 (pg = pLDG && arg = 0 && base + n ≤ 524288) (stateIn s pLDG [.ready, .run, .fenced])
      (fun s => (clearCounters base n s, rDONE)) s)

/-- The record read into LDG_RD_DATA. -/
def readRec (back : Nat) (s : State) : State × Nat :=
  match findRec s back with
  | none => (s, rRANGE)
  | some d => ((List.range 64).foldl (fun s w => s.wr pLDG F.LDG_RD_DATA_DATA (ofLe (slice d (4 * w) 4)) w) s, rDONE)

/-- While the flash is busy the command runs until COMMAND_COMPLETION. -/
def execReadRec (pg ag arg : Nat) (s : State) : Res :=
  .next (
    let ok := pg = pLDG && arg = 0
    let st := stateIn s pLDG [.ready, .run]
    let back := s.rd pLDG F.LDG_RD_SEL_BACK
    if s.boot.flashOp.isSome then commandLong pg ag 0x43 arg ok st [back] id s
    else command pg ag 0x43 ok st (readRec back) s)

def execLdgRestart (pg ag arg : Nat) (s : State) : Res :=
  .next (command pg ag 0x44 (pg = pLDG && arg = 0) (s.inState pLDG .run && s.ldg.wstate = .stopped)
    (fun s => (setW .idle { s with ldg := { s.ldg with fails := 0 } }, rDONE)) s)

/-! ### The statistics window (R550, R552) -/

/-- The BAR0 offset of counter `i`. -/
def statAddr (i : Nat) : Nat := 0x400000 + 8 * i

/-- A 32-bit read of the low word latches the whole counter for the agent; in RESET the window reads 0 (R570). -/
def execStatLowRead (i ag : Nat) (s : State) : Res :=
  .next (
    let v := if s.inState pLDG .reset then 0 else s.counter i
    emit (.read ag (v % 2 ^ 32)) { s with cnt := { s.cnt with latch := s.cnt.latch.insert ag (i, v) } })

/-- What a 32-bit read of the high word returns to an agent. -/
def statHigh (s : State) (i ag : Nat) : Nat :=
  if s.inState pLDG .reset then 0
  else match s.cnt.latch.find? ag with
    | some (j, v) => if j = i then v / 2 ^ 32 else s.counter i / 2 ^ 32
    | none => s.counter i / 2 ^ 32

/-- A write to the window (R628): its checks, its effect and its result. -/
def statWrite (addr ag : Nat) (eff : State → State) (s : State) : State :=
  let c := firstFail (lockedBy s pLDG ag) true (windowState s pLDG) false
  windowResult pLDG ag addr c (if c = rDONE then eff s else s)

def execStatLowWrite (i ag v : Nat) (s : State) : Res :=
  .next (statWrite (statAddr i) ag (fun s => { s with cnt := { s.cnt with half := s.cnt.half.insert ag (i, v) } }) s)

/-- A write of the high word applies both halves in one step. -/
def statHighWrite (i ag v : Nat) (s : State) : State :=
  statWrite (statAddr i + 4) ag (fun s =>
    match s.cnt.half.find? ag with
    | some (j, lo) =>
      if j = i then setCounter i (v * 2 ^ 32 + lo) { s with cnt := { s.cnt with half := s.cnt.half.erase ag } }
      else setCounter i (v * 2 ^ 32 + s.counter i % 2 ^ 32) s
    | none => setCounter i (v * 2 ^ 32 + s.counter i % 2 ^ 32) s) s
def execStatHighWrite (i ag v : Nat) (s : State) : Res := .next (statHighWrite i ag v s)

/-- LDG_OVF_BITS of a group, LDG_OVF_SUM_k and OVF_ANY (R552). -/
def ovfBits (s : State) (g : Nat) : Nat := (List.range 32).foldl (fun n b => n + b2n (s.cnt.ovf.get false (32 * g + b)) * 2 ^ b) 0
def ovfSum (s : State) (k : Nat) : Nat :=
  (List.range 32).foldl (fun n b => n + b2n (s.cnt.ovf.keys.any (fun i => i / 1024 = 32 * k + b)) * 2 ^ b) 0
def ovfAny (s : State) : Bool := !s.cnt.ovf.entries.isEmpty

/-! ### The SMBus slave -/

/-- The record asked for is fetched once the flash is free. DEDUCED (log entry 105). -/
def smbFetch (s : State) : State :=
  match s.ldg.smbSel with
  | some (back, _) =>
    if s.boot.flashOp.isSome || s.ldg.smbRec.isSome then s
    else { s with ldg := { s.ldg with smbRec := findRec s back } }
  | none => s

/-- 0xD0: bits 11:0 BACK, bits 14:12 CHUNK; a word with bit 15 set asks nothing. -/
def execSmbRecordSelect (w : Nat) (s : State) : Res :=
  .next (if w.testBit 15 then s
    else smbFetch { s with ldg := { s.ldg with smbSel := some (w % 4096, w / 4096 % 8), smbRec := none } })

/-- 0xD1: the byte count and the chunk; a count of 0 where nothing is fetched. -/
def execSmbRecordRead (s : State) : Res :=
  .next (emit (.smb (match s.ldg.smbSel, s.ldg.smbRec with
    | some (_, c), some d => 32 :: slice d (32 * c) 32
    | _, _ => [0])) s)

def execSmbLdgStatus (s : State) : Res := .next (emit (.smb (leBytes 2 (ldgStatus s))) s)

/-- BOOT_STATUS. -/
def bootStatus (s : State) : Nat :=
  let r := fun f => s.rd pBOOT f
  r F.BOOT_STATUS_PHASE * 2 ^ 28 + r F.BOOT_STATUS_CODE * 2 ^ 24 + r F.BOOT_STATUS_DETAIL * 2 ^ 20 + r F.BOOT_STATUS_MODE * 2 ^ 18
    + r F.BOOT_STATUS_SLOT * 2 ^ 16 + r F.BOOT_STATUS_DONE * 2 ^ 15 + r F.BOOT_STATUS_SAFE * 2 ^ 14
    + r F.BOOT_STATUS_LAST_RESET * 2 ^ 12 + r F.BOOT_STATUS_BOOT_MS
def execSmbBootStatusLo (s : State) : Res := .next (emit (.smb (leBytes 2 (bootStatus s))) s)
def execSmbBootStatusHi (s : State) : Res := .next (emit (.smb (leBytes 2 (bootStatus s / 2 ^ 16))) s)

/-- R612: the slave answers at its own address, and the holder of the management target also at the shared one. -/
def smbAnswers (s : State) (shared : Bool) : Bool := !shared || singleOwner s

def execSmbTemperature (shared : Bool) (temp : Int) (s : State) : Res :=
  .next (if smbAnswers s shared then emit (.smb (leBytes 2 (ofSigned 16 temp))) s else s)

/-- The alarm word of R612. -/
def alarmWord (s : State) : Nat :=
  b2n s.sns.hot + 2 * b2n (allPages.any (fun p => (s.page p).escalated)) + 4 * s.rd pLDG F.LDG_HU_STAT_HOLDUP_LOW
    + 8 * b2n (s.rd pEMB F.EMB_STATUS_SM_STATE = 2)
/-- Whether SMB_ALERT_N is asserted. -/
def smbAlert (s : State) : Bool := alarmWord s != 0

def execSmbAlarm (shared : Bool) (s : State) : Res :=
  .next (if smbAnswers s shared then emit (.smb (leBytes 2 (alarmWord s))) s else s)

/-- The own address, 0x58 + MATE_ID, in bits 7:1 of the byte. PRESUMED (log entry 106). -/
def execSmbAlertResponse (s : State) : Res :=
  .next (if smbAlert s then emit (.smb (leBytes 1 (2 * (0x58 + s.rd pBOOT F.BOOT_STRAP_MATE_ID)))) s else s)

/-- R620: the interface drops the transaction on the bus, of which it keeps nothing here: a transaction is one step. -/
def execSmbTimeout (s : State) : Res := .next s

end Sys2Proof.Machine
end

