-- ==== Sys2Proof/Machine/Flash.lean ====
section
/-! DEFINITION. The commands of the boot page (R583 to R585, R589, R597 to R600): the fuses, the signed unlock, and the flash, which the ledger
shares. -/
namespace Sys2Proof.Machine

/-- A command of the boot page is accepted from host functions only (R599): other agents get OWNER once the checks of R56 have passed. -/
def bootCommand (pg ag op : Nat) (range state : Bool) (body : State → State × Nat) (s : State) : State :=
  command pg ag op (pg = pBOOT && range) (s.inState pBOOT .ready && state) (fun s => if 8 ≤ ag then (s, rOWNER) else body s) s
def bootLong (pg ag op arg : Nat) (range state : Bool) (ops : List Nat) (body : State → State) (s : State) : State :=
  if 8 ≤ ag then bootCommand pg ag op range state (fun s => (s, rOWNER)) s
  else commandLong pg ag op arg (pg = pBOOT && range) (s.inState pBOOT .ready && state) ops body s

/-! ### CHIP_RESET (R583) -/

/-- The warm reset it asks for begins once no flash operation runs. -/
def chipReset (pg ag arg : Nat) (s : State) : State :=
  bootCommand pg ag 0x40 (arg < 3) (smState s = 0)
    (fun s => ({ s with boot := { s.boot with warm := some arg } }, rDONE)) s

/-! ### Fuses (R585, R589) -/

def otpWord (s : State) (w : Nat) : Nat := s.boot.otp.get 0 w
def blow (w bits : Nat) (s : State) : State :=
  { s with boot := { s.boot with otp := s.boot.otp.put 0 w ((otpWord s w ||| bits) % 2 ^ 32) } }

/-- The fuses blown among the bits of a word. -/
def fuses (n : Nat) : Nat := ((List.range 32).filter (fun b => n.testBit b)).length
/-- The ROLLBACK count of a set of OTP words. -/
def rollbackOf (otp : SMap Nat) : Nat := fuses (otp.get 0 21) + fuses (otp.get 0 22)

/-- Blow the lowest fuses not blown until the count is `n`. DEDUCED (log entry 112). -/
def blowTo (n : Nat) (s : State) : State :=
  (List.range 64).foldl (fun s k =>
    if rollbackOf s.boot.otp < n && !(otpWord s (21 + k / 32)).testBit (k % 32) then blow (21 + k / 32) (1 <<< (k % 32)) s else s) s

def execRbAdvance (pg ag arg : Nat) (s : State) : Res :=
  .next (bootLong pg ag 0x41 arg (arg = 0) (!s.rdB pBOOT F.BOOT_STATUS_SAFE) [s.rd pBOOT F.BOOT_ROLLBACK_IMG_RB] id s)

def execOtpWrite (pg ag arg : Nat) (s : State) : Res :=
  .next (
    let w := s.rd pBOOT F.BOOT_OTP_SEL_WORD
    let v := s.rd pBOOT F.BOOT_OTP_DATA_DATA
    bootLong pg ag 0x42 arg (arg = 0 && w < 21 && !(w = 12 && v.testBit 1 && !s.rdB pBOOT F.BOOT_OTP_CUST_VALID))
      (!s.rdB pBOOT F.BOOT_OTP_LOCK) [w, v] id s)

/-! ### The signed unlock (R597, R598) -/

/-- BOOT_JTAG follows the scopes that are open. -/
def syncScopes (s : State) : State :=
  (s.wr pBOOT F.BOOT_JTAG_DBG_OPEN (s.boot.scopes % 2)).wr pBOOT F.BOOT_JTAG_SCAN_OPEN
    (b2n (s.boot.scopes.testBit 1 || s.rdB pBOOT F.BOOT_OTP_BSCAN_OPEN))
def setScopes (n : Nat) (s : State) : State := syncScopes { s with boot := { s.boot with scopes := n } }

/-- A new nonce. -/
def newNonce (s : State) : State :=
  let f := nextFree s
  let n := (Config.nonce f.1).toNat
  (List.range 4).foldl (fun s k => s.wr pBOOT F.BOOT_NONCE_NONCE (n / 2 ^ (32 * k)) k) f.2

/-- The 32 bytes signed. -/
def unlockMessage (s : State) : List Byte :=
  beBytes 4 0x554C434B ++ beBytes 8 Config.dieId.toNat
    ++ beBytes 16 ((List.range 4).foldl (fun n k => n + s.rd pBOOT F.BOOT_NONCE_NONCE k * 2 ^ (32 * k)) 0)
    ++ beBytes 4 (s.rd pBOOT F.BOOT_UNLOCK_SCOPE_SCOPE)

def unlock (s : State) : State × Nat :=
  let sig := (List.range 24).flatMap (fun k => beBytes 4 (s.rd pBOOT F.BOOT_UNLOCK_SIG_SIG k))
  let ok := Config.ecdsaOk s.boot.pubKey (Config.sha384 (unlockMessage s)) sig
  let s1 := newNonce s
  if ok then (setScopes (s.boot.scopes ||| s.rd pBOOT F.BOOT_UNLOCK_SCOPE_SCOPE) s1, rDONE)
  else (s1.wr pBOOT F.BOOT_JTAG_FAIL_CNT (min 8 (s.rd pBOOT F.BOOT_JTAG_FAIL_CNT + 1)), rAUTH)

def execUnlock (pg ag arg : Nat) (s : State) : Res :=
  .next (bootCommand pg ag 0x43 (arg = 0) (!s.rdB pBOOT F.BOOT_STATUS_SAFE && s.rd pBOOT F.BOOT_JTAG_FAIL_CNT < 8) unlock s)

/-- A TAP instruction: one that is locked acts as BYPASS (R597). -/
def jtag (i : Tap) (s : State) : State :=
  let locked := s.rdB pBOOT F.BOOT_JTAG_LOCKED
  let ok : Bool := match i with
    | .idcode | .bypass => true
    | .sample | .extest | .extestPulse | .extestTrain => !locked || s.rdB pBOOT F.BOOT_JTAG_SCAN_OPEN
    | .debug => !locked || s.rdB pBOOT F.BOOT_JTAG_DBG_OPEN
    | .other => !locked
  { s with boot := { s.boot with tap := if ok then i else .bypass } }

def execJtagInstruction (i : Tap) (s : State) : Res := .next (jtag i s)

/-- The TAP's reset (R582). -/
def execTapReset (s : State) : Res :=
  .next (setScopes 0 { s with boot := { s.boot with tap := .idcode } })

/-! ### The flash commands (R600) -/

/-- Whether a range of the flash touches the ledger partition. DEDUCED (log entry 113). -/
def inPartition (s : State) (a n : Nat) : Bool :=
  let base := 4096 * s.rd pLDG F.LDG_PART_BASE
  a < base + 4096 * s.rd pLDG F.LDG_PART_SECTORS && base < a + n

/-- The bytes read, into BOOT_FL_DATA; those past LEN keep their values. -/
def flashToData (a n : Nat) (s : State) : State :=
  (List.range 16).foldl (fun s k =>
    let old := s.rd pBOOT F.BOOT_FL_DATA_DATA k
    s.wr pBOOT F.BOOT_FL_DATA_DATA (ofLe ((List.range 4).map (fun j =>
      if 4 * k + j < n then flashByte s (a + 4 * k + j) else BitVec.ofNat 8 (old / 256 ^ j)))) k) s

/-- The data staged for a program. -/
def stagedBytes (s : State) (n : Nat) : List Nat :=
  ((List.range 16).flatMap (fun k => (leBytes 4 (s.rd pBOOT F.BOOT_FL_DATA_DATA k)).map BitVec.toNat)).take n

/-- The operation a flash command asks for. -/
def commandOp (c : RunCmd) : Option FlashOp :=
  let a := (c.ops[0]?).getD 0
  if c.op = 0x45 then some ⟨false, a, (c.ops.drop 2).map (BitVec.ofNat 8), false⟩
  else if c.op = 0x46 then some ⟨true, a, [], false⟩
  else none

/-- A command that waits for the flash starts as soon as it is free, but for a warm reset that waits too (R583). -/
def startWaiting (s : State) : State :=
  match (s.page pBOOT).cmd with
  | some c => if s.boot.flashOp.isNone && s.boot.opCode.isNone && s.boot.warm.isNone then setFlashOp (commandOp c) s else s
  | none => s

/-- The flash is free: the command that waits for it, then the SMBus fetch (R568). -/
def flashFree (s : State) : State := smbFetch (startWaiting s)

def execFlashRead (pg ag arg : Nat) (s : State) : Res :=
  .next (
    let a := s.rd pBOOT F.BOOT_FL_ADDR_FL_ADDR
    let n := s.rd pBOOT F.BOOT_FL_LEN_LEN
    let ok := arg = 0 && a + n ≤ s.boot.flashSize
    if s.boot.flashOp.isSome then bootLong pg ag 0x44 arg ok true [a, n] id s
    else bootCommand pg ag 0x44 ok true (fun s => (flashToData a n s, rDONE)) s)

def execFlashProg (pg ag arg : Nat) (s : State) : Res :=
  .next (
    let a := s.rd pBOOT F.BOOT_FL_ADDR_FL_ADDR
    let n := s.rd pBOOT F.BOOT_FL_LEN_LEN
    startWaiting (bootLong pg ag 0x45 arg (arg = 0 && a + n ≤ s.boot.flashSize && a % 256 + n ≤ 256 && !inPartition s a n) true
      (a :: n :: stagedBytes s n) (fun s => { s with boot := { s.boot with opCode := none } }) s))

def execFlashErase (pg ag arg : Nat) (s : State) : Res :=
  .next (
    let a := s.rd pBOOT F.BOOT_FL_ADDR_FL_ADDR
    startWaiting (bootLong pg ag 0x46 arg (arg = 0 && a + 4096 ≤ s.boot.flashSize && a % 4096 = 0 && !inPartition s a 4096) true [a]
      (fun s => { s with boot := { s.boot with opCode := none } }) s))

/-- The flash's operation ends: what it leaves, and what waited for it. A program that reads back otherwise is PARITY. -/
def flashDone (s : State) : State :=
  match s.boot.flashOp with
  | none => s
  | some o =>
    let s1 := setFlashOp none (flashApply o s)
    flashFree (if o.ldg then ledgerOpDone o s1
      else { s1 with boot := { s1.boot with
        opCode := some (if !o.erase && flashRead s1 o.addr o.data.length != o.data then rPARITY else rDONE) } })

/-- A command of the boot page completes (R57); a flash command that still has its operation takes it with it. -/
def bootCommandDone (c : RunCmd) (s : State) : State :=
  let arg := fun (k : Nat) => (c.ops[k]?).getD 0
  if c.op = 0x41 then finishCmd pBOOT rDONE (blowTo (arg 0) s)
  else if c.op = 0x42 then finishCmd pBOOT rDONE (blow (arg 0) (arg 1) s)
  else if c.op = 0x44 then if s.boot.flashOp.isSome then s else finishCmd pBOOT rDONE (flashToData (arg 0) (arg 1) s)
  else
    let s1 := match s.boot.flashOp with | some o => if o.ldg then s else flashDone s | none => s
    match s1.boot.opCode with
    | some code => finishCmd pBOOT code { s1 with boot := { s1.boot with opCode := none } }
    | none => s1

end Sys2Proof.Machine
end

