-- ==== Sys2Proof/Machine/Mate.lean ====
section
/-! DEFINITION. The meanings of the mate interface's steps (R443 to R469): heartbeats and the peer's state, the claim, takeover, mate
forwarding, and what crosses the mate link. -/
namespace Sys2Proof.Machine

/-! ### Configuration -/

/-- A change of MODE gives the device the role it has at rest. -/
def modeTaken (s : State) (l : List NewVal) (t : State) : State :=
  if changes s pMATE l F.MATE_CFG_MODE then setRole (restRole t) t else t

/-- A write of MATE_CFG (R443): MODE changes only in READY, and MODE 3 is not defined. -/
def modeWrite (w : View) (ag v : Nat) (s : State) : State :=
  regWrite pMATE 0x040 w ag v (fun l => nv s pMATE l F.MATE_CFG_MODE != 3)
    (fun l => !changes s pMATE l F.MATE_CFG_MODE || s.inState pMATE .ready) noBusy (modeTaken s) s

def execMateModeWrite (w : View) (ag v : Nat) (s : State) : Res := .next (modeWrite w ag v s)

/-- LINK_EN as delivered (R446). -/
def linkEnabled (s : State) : State :=
  withFwd (fun s =>
    let en := s.rdB pMATE F.MATE_CFG_LINK_EN
    let l := s.rd pMATE F.MATE_STATUS_LINK_STATE
    if en && l = lDISABLED then s.wr pMATE F.MATE_STATUS_LINK_STATE lTRAINING
    else if !en then s.wr pMATE F.MATE_STATUS_LINK_STATE lDISABLED
    else s) s

/-- A LOCAL_Q that another VALID entry names is out of range. -/
def fwdRange (s : State) (k half : Nat) (l : List NewVal) : Bool :=
  !(half = 0 && (nv s pMATE l F.MATE_FWD_0_VALID k = 1 || changes s pMATE l F.MATE_FWD_0_LOCAL_Q k)
    && (List.range 256).any (fun j => j != k && s.rdB pMATE F.MATE_FWD_0_VALID j
        && s.rd pMATE F.MATE_FWD_0_LOCAL_Q j = nv s pMATE l F.MATE_FWD_0_LOCAL_Q k))

/-- A VALID entry takes no change but the clearing of VALID. -/
def fwdState (s : State) (k half : Nat) (l : List NewVal) : Bool :=
  !s.rdB pMATE F.MATE_FWD_0_VALID k
    || (half = 0 && nv s pMATE l F.MATE_FWD_0_VALID k = 0 && !changes s pMATE l F.MATE_FWD_0_LOCAL_Q k)

/-- A write to word `half` of a forwarding entry (R451). -/
def fwdWrite (k half : Nat) (w : View) (ag v : Nat) (s : State) : State :=
  regGate pMATE (0x800 + 8 * k + 4 * half) w ag v (fwdRange s k half) (fwdState s k half) noBusy
    (fun l s => withFwd (fun s => l.foldl (storeVal pMATE ag) s) s) s

def execMateFwdWrite (k half : Nat) (w : View) (ag v : Nat) (s : State) : Res := .next (fwdWrite k half w ag v s)

/-! ### Heartbeats (R455 to R458) -/

/-- CRC-16 of the heartbeat word: polynomial 0x1021, initial 0xFFFF, over bits 63 to 16. -/
def crc16 (word : Nat) : Nat :=
  (List.range 48).foldl (fun c i =>
    let top := c / 32768 != b2n (word.testBit (63 - i))
    ((c * 2) % 65536) ^^^ (if top then 0x1021 else 0)) 0xFFFF

/-- The heartbeat word this device sends. CLAIMING is sent as 1. DEDUCED (log entry 84). -/
def heartbeatWord (s : State) : Nat :=
  let role := if s.role = 2 then 1 else s.role
  let fail := s.mate.failing || allPages.any (fun p => (s.page p).escalated)
  let w := 0xA5 * 2 ^ 56 + s.mate.hbSeq * 2 ^ 48 + s.mateId * 2 ^ 47 + role * 2 ^ 45
    + s.rd pMATE F.MATE_STATUS_CLAIM_OUT * 2 ^ 44 + b2n fail * 2 ^ 43 + b2n (mateUp s) * 2 ^ 42 + s.mateMode * 2 ^ 40
  w + crc16 w

/-- Whether heartbeats are sent (R443, R467), and whether they are watched: also while the block is stopped only for a while, which R577
rests on. -/
def beating (s : State) : Bool := s.inState pMATE .run && s.mateMode != 0
def watching (s : State) : Bool := stateIn s pMATE [.run, .fenced, .reinit, .halted] && s.mateMode != 0

def execHeartbeatSend (s : State) : Res :=
  .next (if beating s then
      let w := heartbeatWord s
      let s1 := { s with mate := { s.mate with hbSeq := (s.mate.hbSeq + 1) % 256 } }
      emit (.heartbeat w) (if mateUp s1 then mateSend 0 0 0 (beBytes 8 w) s1 else s1)
    else s)

/-- The fields of a path. -/
def pathF (path : Nat) : Field := if path = 0 then F.MATE_STATUS_PATH_A_OK else F.MATE_STATUS_PATH_B_OK
def State.path (s : State) (path : Nat) : HbPath := if path = 0 then s.mate.pathA else s.mate.pathB
def State.updHb (s : State) (path : Nat) (f : HbPath → HbPath) : State :=
  if path = 0 then { s with mate := { s.mate with pathA := f s.mate.pathA } }
  else { s with mate := { s.mate with pathB := f s.mate.pathB } }

/-- The peer's state by the paths (R457); FAILED is held until both are good and the last heartbeat shows no FAIL. -/
def peerNow (s : State) (fail : Bool) : Nat :=
  let a := s.rdB pMATE F.MATE_STATUS_PATH_A_OK
  let b := s.rdB pMATE F.MATE_STATUS_PATH_B_OK
  if !(s.mate.pathA.seen || s.mate.pathB.seen) then 0
  else if fail then 4
  else if a && b then 1
  else if s.peerState = 4 then 4
  else if a || b then 2
  else 3

/-- PEER_STATE with its copy in SUBSTATE. -/
def setPeer (n : Nat) (s : State) : State :=
  (s.wr pMATE F.MATE_STATUS_PEER_STATE n).updPage pMATE (fun h => { h with substate := n })

/-- What a change of the peer's state from `old` starts: a takeover (R457), and what a return does (R453, R465). -/
def peerChanged (old : Nat) (s : State) : State :=
  let n := s.peerState
  if n = old then s
  else if (n = 3 || n = 4) && (old = 1 || old = 2) then
    if s.mateMode = 1 then (if s.rdB pMATE F.MATE_EVENT_ID_CONFLICT || !s.inState pMATE .run then s else takeover1 s)
    else srcEvent 333 s
  else if n = 1 then
    let s1 := if s.mate.claim = .waiting && !s.mate.taking then dropClaim s else s
    if s1.mate.taken then resync ((s1.setF pMATE F.MATE_EVENT_PEER_RETURN) |> fun s => { s with mate := { s.mate with taken := false } })
    else s1
  else s

/-- The CLAIM a heartbeat shows beside the pin (R455). -/
def checkClaim (claim : Bool) (s : State) : State :=
  let n := if s.mateMode = 1 && claim != s.rdB pMATE F.MATE_STATUS_CLAIM_IN then satAdd 3 s.mate.mismatch 1 else 0
  let s1 := { s with mate := { s.mate with mismatch := n } }
  if n = 3 && s.mate.mismatch = 2 then srcEvent 334 (s1.setF pMATE F.MATE_EVENT_CLAIM_MISMATCH) else s1

/-- Both devices PRIMARY in arbiter mode (R466). DEDUCED (log entry 87). -/
def checkRoles (role : Nat) (s : State) : State :=
  if s.mateMode = 2 && role = 3 && s.rdB pMATE F.MATE_STATUS_ARB_GRANT && !s.mate.barred then
    let s1 := withLine 335 (fun s => s.setF pMATE F.MATE_EVENT_ROLE_CONFLICT) s
    if s1.mateId = 1 then setRole 1 { s1 with mate := { s1.mate with barred := true } } else s1
  else s

/-- A valid heartbeat. -/
def heartbeat (path word : Nat) (s : State) : State :=
  let old := s.peerState
  let fail := word.testBit 43
  let claim := word.testBit 44
  let role := bitsOf word 46 45
  let s1 := withFwd (fun s =>
    let x := s.path path
    let run := satAdd 3 x.run 1
    let good := s.rdB pMATE (pathF path) || !x.seen || run = 3
    let s1 := (s.updHb path (fun _ => ⟨true, some (bitsOf word 55 48), run⟩)).wr pMATE (pathF path) (b2n good)
    setPeer (peerNow s1 fail) { s1 with mate := { s1.mate with hb := some (claim, s1.now) } }) s
  let s2 := s1.wr pMATE F.MATE_STATUS_PEER_ROLE role
  let s3 := if fail then s2.setF pMATE F.MATE_EVENT_FAIL_RX else s2
  let s4 := if b2n (word.testBit 47) = s3.mateId then s3.setF pMATE F.MATE_EVENT_ID_CONFLICT else s3
  checkRoles role (checkClaim claim (peerChanged old s4))

/-- A heartbeat word comes (R456): an invalid one breaks the run of valid ones. -/
def heartbeatRx (path word : Nat) (crc : Bool) (s : State) : State :=
  if path = 0 && !mateUp s then s
  else
    let s1 := if path = 0 && !crc then count (cChip 80) s else s
    if !watching s1 then s1
    else
      let valid := (path != 0 || crc) && bitsOf word 63 56 = 0xA5 && crc16 word = word % 65536
        && (s1.path path).seq != some (bitsOf word 55 48)
      if valid then heartbeat path word s1 else s1.updHb path (fun x => { x with run := 0 })

def execHeartbeatRx (path word : Nat) (crc : Bool) (s : State) : Res := .next (heartbeatRx path word crc s)

/-- A path stops being good, and the peer's state follows (R457). -/
def pathDown (path : Nat) (s : State) : State :=
  let s1 := (s.updHb path (fun x => { x with run := 0 })).wr pMATE (pathF path) 0
  setPeer (peerNow s1 false) s1

/-- No valid heartbeat on a path for 6 µs (R457). -/
def pathLoss (path : Nat) (s : State) : State :=
  if !watching s || !s.rdB pMATE (pathF path) then s
  else
    let s1 := withFwd (pathDown path) s
    peerChanged s.peerState (srcEvent 332 (s1.setF pMATE (if path = 0 then F.MATE_EVENT_PATH_A_LOST else F.MATE_EVENT_PATH_B_LOST)))

def execPathLoss (path : Nat) (s : State) : Res := .next (pathLoss path s)

/-- After 6 µs of FAIL heartbeats (R458). -/
def failEnd (s : State) : State :=
  if !s.mate.failing then s
  else withFwd (fun s => (releaseFns { s with mate := { s.mate with failing := false } }).wr pMATE F.MATE_STATUS_FWD_HOLD 1) s

def execFailHeartbeatEnd (s : State) : Res := .next (failEnd s)

/-! ### The claim (R453, R454) -/

def execClaim (pg ag arg : Nat) (s : State) : Res :=
  .next (command pg ag 0x42 (pg = pMATE && arg = 0)
    (s.inState pMATE .run && s.mateMode = 1 && !s.rdB pMATE F.MATE_EVENT_ID_CONFLICT)
    (fun s => (if s.role = 3 || s.mate.claim != .idle then s else claimStart s, rDONE)) s)

/-- Whether the last valid heartbeat came within 6 µs and shows CLAIM 1 (R453, R455). -/
def peerClaims (s : State) : Bool := s.mate.hb.any (fun h => h.1 && s.now ≤ h.2 + 6 * usU)

/-- The pin has been low for 1 µs and no young heartbeat shows CLAIM 1: the claim goes out. -/
def claimAssert (s : State) : State :=
  if s.mate.claim = .waiting && s.inState pMATE .run && !s.rdB pMATE F.MATE_STATUS_CLAIM_IN && !peerClaims s then
    { s with mate := { s.mate with claim := .guard } }.wr pMATE F.MATE_STATUS_CLAIM_OUT 1
  else s

def execClaimAssert (s : State) : Res := .next (claimAssert s)

/-- The end of a claim, and of the takeover that waited for it. -/
def claimOver (s : State) : State :=
  let s1 := { s with mate := { s.mate with claim := .idle } }
  if s1.mate.taking then takeoverEnd s1 else s1

/-- The 200 ns guard has passed, or the rival's claim has been low for 100 ns. -/
def claimGuard (s : State) : State :=
  let high := s.rdB pMATE F.MATE_STATUS_CLAIM_IN
  match s.mate.claim with
  | .guard =>
    if !high then claimOver (setRole 3 s)
    else if s.mateId = 1 then
      claimOver (setRole 1 ((s.wr pMATE F.MATE_STATUS_CLAIM_OUT 0).setF pMATE F.MATE_EVENT_CLAIM_LOST))
    else { s with mate := { s.mate with claim := .yield } }
  | .yield => if high then s else claimOver (setRole 3 s)
  | _ => s

def execClaimGuardExpiry (s : State) : Res := .next (claimGuard s)

def execClaimInChange (level : Bool) (s : State) : Res := .next (s.wr pMATE F.MATE_STATUS_CLAIM_IN (b2n level))

/-- The first wait has lasted 10 µs: the takeover it belongs to completes without the functions (R453, R462). -/
def claimBlocked (s : State) : State :=
  if s.mate.claim != .waiting then s
  else
    let s1 := srcEvent 334 (s.setF pMATE F.MATE_EVENT_CLAIM_BLOCKED)
    if s1.mate.taking then takeoverEnd s1 else s1

def execClaimBlockedTimeout (s : State) : Res := .next (claimBlocked s)

def execMateRelease (pg ag arg : Nat) (s : State) : Res :=
  .next (command pg ag 0x43 (pg = pMATE && arg = 0) (s.inState pMATE .run && s.mateMode = 1)
    (fun s =>
      let s1 := dropClaim s
      (if s1.mate.taking then takeoverEnd s1 else s1, rDONE)) s)

/-! ### Arbiter mode (R466) -/

/-- ARB_GRANT_IN as filtered. A rise runs takeover steps 1, 2, 4 and 5. -/
def arbGrant (level : Bool) (s : State) : State :=
  let was := s.rdB pMATE F.MATE_STATUS_ARB_GRANT
  let s1 := s.wr pMATE F.MATE_STATUS_ARB_GRANT (b2n level)
  let s2 := if level then s1 else { s1 with mate := { s1.mate with barred := false } }
  if was = level || s2.mateMode != 2 || !s2.inState pMATE .run then s2
  else if level then takeoverEnd (setRole 3 (takeoverBegin s2))
  else setRole 1 s2

def execArbGrantChange (level : Bool) (s : State) : Res := .next (arbGrant level s)

/-! ### Forwarding and the link (R446, R450, R459, R465) -/

def execRejoin (pg ag arg : Nat) (s : State) : Res :=
  .next (command pg ag 0x44 (pg = pMATE && arg = 0) (s.inState pMATE .run && matePresent s)
    (fun s => (withFwd (fun s => s.wr pMATE F.MATE_STATUS_FWD_HOLD 0) s, rDONE)) s)

def execResync (pg ag arg : Nat) (s : State) : Res :=
  .next (command pg ag 0x45 (pg = pMATE && arg = 0) (s.inState pMATE .run) (fun s => (resync s, rDONE)) s)

/-- The mate link comes UP; with the peer PRESENT the learned groups are sent again. -/
def mateLinkUp (s : State) : State :=
  let l := s.rd pMATE F.MATE_STATUS_LINK_STATE
  if !s.rdB pMATE F.MATE_CFG_LINK_EN || !(l = lTRAINING || l = lDOWN) || !stateIn s pMATE [.ready, .run] then s
  else
    let s1 := withFwd (fun s => s.wr pMATE F.MATE_STATUS_LINK_STATE lUP) s
    if s1.inState pMATE .run && s1.peerState = 1 then resync s1 else s1

def execMateLinkUp (s : State) : Res := .next (mateLinkUp s)

def execMateLinkDown (s : State) : Res :=
  .next (if mateUp s then withFwd (fun s => s.wr pMATE F.MATE_STATUS_LINK_STATE lDOWN) s else s)

/-! ### What comes over the mate link (R447, R448, R459) -/

/-- A frame of the mate link is taken while the link is UP and the block is RUN; one whose CRC fails is discarded and counted. -/
def onMate (crc : Bool) (f : State → State) (s : State) : State :=
  if !mateUp s || pinsTested s then s
  else if !crc then count (cChip 80) s
  else if s.inState pMATE .run then f s
  else s

/-- A data frame enters the walk at step 5 for queue PEER_Q (R448). -/
def mateFrame (tc q : Nat) (d : List Byte) (s : State) : State :=
  let a := s.newFrame { frameOf (s.qPort q) (d ++ leBytes 4 (crc32 d)) true false tc {} with
    src := .mate, region := s.qRegion q, stage := .retired, verdict := { kind := .queue q, tc := tc }, why := (0, 0) }
  storeFrame a.1 a.2

def execMateDataFrameRx (tc q : Nat) (data : List Byte) (crc : Bool) (s : State) : Res := .next (onMate crc (mateFrame tc q data) s)

/-- The fields of a record of R154. -/
def recKey (n : Nat) : Nat := n / 2 ^ 64
def recKind (n : Nat) : Nat := bitsOf n 63 56
def recPort (n : Nat) : Nat := bitsOf n 55 48
def recMate (n : Nat) : Bool := n.testBit 30

/-- A mirror record is applied through the insert sequencer (R155): its port is on the peer unless the record says that it is the
mate's. -/
def mirrorRx (n : Nat) (s : State) : State :=
  if recKind n = 1 || recKind n = 2 then
    queueSeq ⟨true, recKey n, 0, learnedAction (recPort n), false, !recMate n, none, recKind n, s.tick, false, true⟩ s
  else if recKind n = 3 then queueSeq ⟨false, recKey n, 0, 0, false, false, none, 3, s.tick, false, true⟩ s
  else s

def execMateMirrorRecordRx (rec_ : Nat) (crc : Bool) (s : State) : Res := .next (onMate crc (mirrorRx rec_) s)

/-- A learning event of the peer, which the holder of the learning authority applies (R155): R152 where it concerns the group that is
there, else R141. -/
def learnRx (n : Nat) (s : State) : State :=
  let g := (emFind s 0 (recKey n)).map (fun e => e.2.2)
  if !singleOwner s || 48 ≤ recPort n then s
  else match g.filter (fun g => moves g (recPort n)) with
    | some g => moveRule (recPort n) (recKey n) g true s
    | none => learnEvent (recPort n) (recKind n) (recKey n) true s

def execMateLearnEventRx (rec_ : Nat) (crc : Bool) (s : State) : Res := .next (onMate crc (learnRx rec_) s)

/-- A touch refreshes the receiver's copy of a group (R459). -/
def touchRx (d : List Byte) (s : State) : State :=
  (List.range (d.length / 8)).foldl (fun s i =>
    match emFind s 0 (ofBe (slice d (8 * i) 8)) with
    | some (l, _, g) => setGroups (s.tab.groups.insert l { g with ts := s.tick }) s
    | none => s) s

def execAgerTouchRx (data : List Byte) (crc : Bool) (s : State) : Res := .next (onMate crc (touchRx data) s)

/-- Up to 4,096 keys hit since the last send go to the peer, 2,000 to a frame; the excess is counted (R459). -/
def touchSend (s : State) : State :=
  if !beating s then s
  else
    let l := s.tab.touched
    let s1 := countBy (cChip 83) (l.length - 4096) { s with tab := { s.tab with touched := [] } }
    let k := l.take 4096
    [k.take 2000, (k.drop 2000).take 2000, k.drop 4000].foldl (fun s g =>
      if g.isEmpty then s else mateSend 7 0 0 (g.flatMap (beBytes 8)) s) s1

def execAgerTouchSend (s : State) : Res := .next (touchSend s)

/-- The servo part of a snapshot: ρ, I and the state of both domains (R459, R468). DESIGN CHOICE (log entry 83). -/
def servoPayload (s : State) : List Byte :=
  [0, 1].flatMap (fun d => beBytes 4 (ofSigned 32 (wholePpt (s.dom d).rho)) ++ beBytes 4 (ofSigned 32 (wholePpt (s.dom d).integ))
    ++ beBytes 4 (s.domState d))

/-- The snapshot of a run of policers: the first one's number, then Tc and Tp of each in bytes. -/
def policerPayload (s : State) (n len : Nat) : List Byte :=
  beBytes 4 n ++ (List.range len).flatMap (fun k =>
    let x := (s.policer (n + k)).fill s.now
    beBytes 4 (x.tc / 1024) ++ beBytes 4 (x.tp / 1024))

/-- A snapshot goes to the peer: the servos, then the mirrored policers, 1,024 to a frame. -/
def snapshotSend (s : State) : State :=
  if !beating s then s
  else
    let base := s.rd pMATE F.MATE_POL_MIR_POL_BASE
    let cnt := s.rd pMATE F.MATE_POL_MIR_POL_COUNT
    (List.range ((cnt + 1023) / 1024)).foldl (fun s i =>
      mateSend 6 0 0 (policerPayload s (base + 1024 * i) (min 1024 (cnt - 1024 * i))) s) (mateSend 6 0 0 (servoPayload s) s)

def execSnapshotSend (s : State) : Res := .next (snapshotSend s)

/-- A snapshot is held for a takeover: the servo part is the one of 24 bytes (R459, R463). -/
def snapshotRx (d : List Byte) (s : State) : State :=
  if d.length = 24 then
    (List.range 6).foldl (fun s i => s.wr pMATE F.MATE_PEER_SERVO_DATA (ofBe (slice d (4 * i) 4)) (i / 3) (i % 3)) s
  else
    let n := ofBe (slice d 0 4)
    { s with mate := { s.mate with peerPol := (List.range ((d.length - 4) / 8)).foldl (fun (m : SMap (Nat × Nat)) k =>
        m.insert (n + k) (ofBe (slice d (4 + 8 * k) 4), ofBe (slice d (8 + 8 * k) 4))) s.mate.peerPol } }

def execServoSnapshotRx (data : List Byte) (crc : Bool) (s : State) : Res := .next (onMate crc (snapshotRx data) s)

/-! ### The pair lock (R460) -/

/-- Whether a write of MATE_PLOCK acquires, and whether it releases. -/
def plAcq (l : List NewVal) : Bool := l.any (fun x => x.f = F.MATE_PLOCK_ACQ && x.v = 1)
def plRel (l : List NewVal) : Bool := l.any (fun x => x.f = F.MATE_PLOCK_REL && x.v = 1)

/-- The result of the checks of R56 on a write of MATE_PLOCK; a request that waits for its answer makes it BUSY. -/
def plockCode (s : State) (ag : Nat) (w : View) (v : Nat) : Nat :=
  let l := newVals s pMATE .mate 0x054 w v
  firstFail (lockedBy s pMATE ag) (rangeOk s pMATE .mate 0x054 w v) (stateOk s pMATE ag .mate 0x054)
    (busy s pMATE .mate 0x054 || ((plAcq l || plRel l) && !singleOwner s && s.mate.plReq.isSome))

/-- A write of MATE_PLOCK: the holder of the claim, or an unpaired device, decides it; else it goes to the primary, whose answer or
TIMEOUT is its result. -/
def plockWrite (w : View) (ag v : Nat) (s : State) : State :=
  let l := newVals s pMATE .mate 0x054 w v
  let acq := plAcq l
  let rel := plRel l
  let c := plockCode s ag w v
  if c != rDONE then record pMATE ag 21 0xFF c s
  else if !(acq || rel) then record pMATE ag 21 0xFF rDONE s
  else if (acq && rel) || (acq && (v % 2 ^ 20 = 0 || 1000000 < v % 2 ^ 20)) then record pMATE ag 21 0xFF rRANGE s
  else if singleOwner s then
    let q := plDecide s.mateId ag v s
    record pMATE ag 21 0xFF q.2 q.1
  else mateSend 4 0 0 (plPayload 0 (16 * s.mateId + ag) v) { s with mate := { s.mate with plReq := some (ag, v) } }

def execPlockAcquire (w : View) (ag v : Nat) (s : State) : Res := .next (plockWrite w ag v s)
def execPlockRelease (w : View) (ag v : Nat) (s : State) : Res := .next (plockWrite w ag v s)

def execPlockTimeout (s : State) : Res :=
  .next (match s.mate.plReq with
    | some (ag, _) => record pMATE ag 21 0xFF rTIMEOUT { s with mate := { s.mate with plReq := none } }
    | none => s)

/-- Whether a pair-lock frame says something of the pair lock: an agent of R15 of one of the two devices, and a result code of R14 in an answer,
a lease of R70 in a change. -/
def plSpeaks (what who v : Nat) : Bool :=
  who < 32 && !(8 ≤ who % 16 && who % 16 < 12) && (what != 1 || v ≤ 9) && (what != 2 || v ≤ 1000000)

/-- A pair-lock frame: a request for the holder of the claim, the answer to one, or a change the holder mirrors. -/
def plockRx (d : List Byte) (s : State) : State :=
  let what := byteAt d 0
  let who := byteAt d 1
  let v := ofBe (slice d 4 4)
  if !plSpeaks what who v then s
  else if what = 0 then
    if singleOwner s then
      let q := plDecide (who / 16) (who % 16) v s
      mateSend 4 0 0 (plPayload 1 who q.2) q.1
    else s
  else if what = 1 then
    match s.mate.plReq with
    | some (ag, _) => if who = 16 * s.mateId + ag then record pMATE ag 21 0xFF v { s with mate := { s.mate with plReq := none } } else s
    | none => s
  else if singleOwner s then s
  else setPlock (if v = 0 then none else some ⟨who / 16, who % 16, s.now + v * usU⟩) s

def execPlockFrameRx (data : List Byte) (crc : Bool) (s : State) : Res := .next (onMate crc (plockRx data) s)

/-! ### Mirrored gate commits (R461) -/

/-- The words a mirrored commit writes to the gate registers of a port: each register's offset and value. -/
def gateWords (d : List Byte) (i : Nat) : List (Nat × Nat) :=
  let vals := gateFields.zipIdx.map (fun e => (e.1, ofBe (slice d (4 + 4 * e.2) 4)))
  (gateFields.map (fun f => f.at i 0)).eraseDups.map (fun o =>
    (o, (vals.filter (fun e => e.1.at i 0 = o)).foldl (fun n e => n + e.2 * 2 ^ e.1.lo) 0))

/-- One write as agent 13, and whether all so far were performed. -/
def asPeer (pg : Nat) (f : State → State) (q : Bool × State) : Bool × State :=
  if q.1 then
    let t := f q.2
    ((t.page pg).resCode = rDONE, t)
  else q

/-- The receiver writes the pending bank and the gate fields, then GO, as agent 13: whether all were performed, and the state they leave. -/
def gateCommit (d : List Byte) (s : State) : Bool × State :=
  let p := ofBe (slice d 0 4) % 48
  let pg := pPORT (portRegion p)
  let i := portCell p
  let bank := 1 - s.rd pg F.GATE_STATUS_OPER_BANK i
  let n := (d.length - 36) / 4
  let q0 := (List.range n).foldl (fun q k => asPeer pg (gateListWrite p bank k 13 (ofBe (slice d (36 + 4 * k) 4))) q) (true, s)
  let q1 := (gateWords d i).foldl (fun q e => asPeer pg (regWrite pg e.1 .normal 13 e.2 noCheck noCheck noBusy noEff) q) q0
  asPeer pg (commitWrite pg 13 1) q1

/-- A mirrored gate commit; a refusal of any of its writes is counted and raised. DEDUCED (log entry 68). -/
def gateCommitRx (d : List Byte) (s : State) : State :=
  let q := gateCommit d s
  if q.1 then q.2 else srcEvent 334 (count (cChip 84) q.2)

def execGateCommitRx (data : List Byte) (crc : Bool) (s : State) : Res := .next (onMate crc (gateCommitRx data) s)

end Sys2Proof.Machine
end

