-- ==== Sys2Proof/Machine/Time.lean ====
section
/-! DEFINITION. The meanings of the time unit's steps (R394 to R442): samples and the servo, the commands, banked time and the model, pulses, captures,
timed outputs and cycle triggers. -/
namespace Sys2Proof.Machine

/-! ### Samples from PTP (R404) -/

/-- Whether a message is a PTP version 2 message of type `ty` that domain `d` takes from port `p` (R404). -/
def domTakes (s : State) (d p ty : Nat) (m : List Byte) : Bool :=
  s.rd pTIME F.DOM_CFG_SRC d = 0 && s.rd pTIME F.DOM_CFG_PORT d = p && 44 ≤ m.length
    && byteAt m 0 % 16 = ty && byteAt m 1 % 16 = 2 && byteAt m 4 = s.rd pTIME F.DOM_CFG_DOMAIN_NUM d
    && byteAt m 0 / 16 = s.rd pTIME F.DOM_CFG_SDO_ID d
    && beAt m 20 4 = s.rd pTIME F.DOM_PARENT_0_CLOCK_ID d && beAt m 24 4 = s.rd pTIME F.DOM_PARENT_1_CLOCK_ID d
    && beAt m 28 2 = s.rd pTIME F.DOM_PARENT_2_PORT_NUM d

/-- The timestamp field and the correctionField of a message, in 1/65,536 ns. -/
def msgTime (m : List Byte) : Int := timeOf (beAt m 34 6) (beAt m 40 4) 0
def msgCorr (m : List Byte) : Int := toSigned 64 (beAt m 8 8)

/-- o = t2 − t1 − MPD − ASYM. -/
def syncOffset (s : State) (d : Nat) (t2 t1 : Int) : Int := t2 - t1 - s.rd pTIME F.DOM_MPD_MPD d - s.rdS pTIME F.DOM_ASYM_ASYM d

/-- A Sync whose SFD crossed the reference plane when the local counter read `l`. DEDUCED (log entry 80). -/
def syncSample (d p : Nat) (m : List Byte) (l : Nat) (s : State) : State :=
  if s.now < l || s.domState d = dOFF || !domTakes s d p 0 m then s
  else
    let t2 := capturedIn s d l (-(1024 * s.rdS pTIME F.TS_ASYM_RX_ASYM p))
    if (byteAt m 6).testBit 1 then
      s.updDom d (fun x => { x with wait := x.wait ++ [(⟨beAt m 30 2, l, t2, msgCorr m⟩ : SyncWait)] })
    else sample d l (syncOffset s d t2 (msgTime m + msgCorr m)) s

def execSyncSample (d p : Nat) (m : List Byte) (l : Nat) (s : State) : Res := .next (syncSample d p m l s)

/-- A Follow_Up completes the sample of its Sync. -/
def followUp (d p : Nat) (m : List Byte) (s : State) : State :=
  if !domTakes s d p 8 m then s
  else match (s.dom d).wait.find? (fun w => w.seqId = beAt m 30 2) with
    | none => s
    | some w =>
      let s1 := s.updDom d (fun x => { x with wait := x.wait.erase w })
      sample d w.at_ (syncOffset s1 d w.t2 (msgTime m + msgCorr m + w.corr)) s1

def execFollowUpRx (d p : Nat) (m : List Byte) (s : State) : Res := .next (followUp d p m s)

def execFollowUpTimeout (d seqId : Nat) (s : State) : Res :=
  .next (match (s.dom d).wait.find? (fun w => w.seqId = seqId) with
    | none => s
    | some w => count (cChip (66 + d)) (s.updDom d (fun x => { x with wait := x.wait.erase w })))

/-! ### Register writes of the TIME page (R396, R404, R418, R434, R438, R441) -/

/-- The ranges that fields of the page set each other. -/
def timeRange (s : State) (l : List NewVal) : Bool :=
  l.all (fun x =>
    let g := fun f => nv s pTIME l f x.i
    let o := x.f.off
    if 0x100 ≤ o && o < 0x140 then g F.DOM_CFG_SRC != 3 && g F.DOM_CFG_PORT < 48 && g F.DOM_THRESH_LOCK_TH ≤ g F.DOM_THRESH_UNLOCK_TH
    else if o = 0x200 then g F.RCLK_CTRL_SRC_PORT < 48 && divOk s (g F.RCLK_CTRL_SRC_PORT) (g F.RCLK_CTRL_DIV)
    else if 0x240 ≤ o && o < 0x260 then
      g F.TOUT_CFG_MODE != 3 && (g F.TOUT_CFG_MODE != 1 || g F.TOUT_WIDTH_WIDTH < g F.TOUT_PERIOD_PERIOD)
        && (toSigned 32 (g F.TOUT_OFFSET_OFFSET)).natAbs ≤ 1000000000
    else if o = 0x340 then g F.TIN_CFG_EDGE != 3
    else if o = 0x40C then x.i < 48 || g F.TS_PTP_PTP_MODE < 2
    else true)

/-- The states in which its fields may change. -/
def timeState (s : State) (l : List NewVal) : Bool :=
  (!changes s pTIME l F.TIME_SEL_CLK_25M || (s.inState pTIME .ready && s.domState 0 = dOFF && s.domState 1 = dOFF))
  && l.all (fun x =>
    let c := fun f => changes s pTIME l f x.i
    let o := x.f.off
    if 0x100 ≤ o && o < 0x140 then
      s.domState x.i = dOFF || !(c F.DOM_CFG_SRC || c F.DOM_CFG_PORT || c F.DOM_CFG_DOMAIN_NUM || c F.DOM_CFG_SDO_ID)
    else if 0xB00 ≤ o && o < 0xB14 then !trigInUse s x.i
    else true)

/-- A write to a register of the page. -/
def timeWrite (off : Nat) (w : View) (ag v : Nat) (s : State) : State :=
  regWrite pTIME off w ag v (timeRange s) (timeState s) noBusy noEff s

/-- The offset a host wrote, as a sample of its domain. -/
def offsetTaken (d : Nat) (l : List NewVal) (s : State) : State :=
  match l.find? (fun x => x.f = F.DOM_HOST_OFS_OFS) with
  | some x => if s.rd pTIME F.DOM_CFG_SRC d = 2 then sample d s.now (toSigned 32 x.v) s else s
  | none => s

/-- A write of DOM_HOST_OFS is a sample at once. -/
def hostOffset (d : Nat) (w : View) (ag v : Nat) (s : State) : State :=
  regWrite pTIME (0x118 + 0x40 * d) w ag v noCheck noCheck noBusy (offsetTaken d) s

def execHostOffsetWrite (d : Nat) (w : View) (ag v : Nat) (s : State) : Res := .next (hostOffset d w ag v s)
def execDomRateWrite (d : Nat) (w : View) (ag v : Nat) (s : State) : Res := .next (timeWrite (0x130 + 0x40 * d) w ag v s)
def execDomainEnable (d : Nat) (w : View) (ag v : Nat) (s : State) : Res := .next (timeWrite (0x100 + 0x40 * d) w ag v s)
def execTrigWrite (n off : Nat) (w : View) (ag v : Nat) (s : State) : Res := .next (timeWrite (0xB00 + 0x20 * n + off) w ag v s)

/-- What the delivery of posted values of the page does once they stand in their fields (R66, R405, R409, R421, R435, R438): `hit` tells which
offsets were written, `was` which domains were enabled. -/
def timeDelivered (hit : Nat → Bool) (was : Nat → Bool) (s : State) : State :=
  let range := fun (a n : Nat) => (List.range n).any (fun k => hit (a + 4 * k))
  let s1 := [0, 1].foldl (fun s d =>
    let s1 := if hit (0x130 + 0x40 * d) then rateDelivered d s else s
    if hit (0x100 + 0x40 * d) then domDelivered d (was d) s1 else s1) s
  let s2 := if hit 0x188 then s1.wr pTIME F.BANK_STATUS_TEMP_STALE 0 else s1
  let s3 := (List.range 8).foldl (fun s n => if range (0xB00 + 0x20 * n) 5 then trigDelivered n s else s) s2
  let s4 := (List.range 8).foldl (fun s n => if range (0x240 + 0x20 * n) 7 then toutDelivered n s else s) s3
  let s5 := if range 0x200 2 then
      syncRclk ([0, 1].foldl (fun s k => if hit (0x200 + 4 * k) then s.wr pTIME F.RCLK_CTRL_DIV_HIGH 0 k else s) s4) else s4
  checkSelect s5

/-! ### The domains' timers (R403, R408, R409) -/

def execDomainLossTimeout (d : Nat) (s : State) : Res :=
  .next (if s.domState d = dACQUIRING || s.domState d = dLOCKED then checkSelect (enterDom d dLOST s) else s)

def execRevertTimer (s : State) : Res :=
  .next (
    let y := s.rd pTIME F.TIME_SEL_PREF
    if s.rdB pTIME F.TIME_SEL_AUTO_SEL && s.rdB pTIME F.TIME_SEL_REVERT_EN && s.selDom != y && s.domState y = dLOCKED && !s.banked then
      switchTo y s
    else s)

def execSlewEnd (s : State) : Res := .next (if s.phase s.now = 0 && !s.banked then setPhase 0 s else s)

/-- R396: TIME_CLK is lost. DEDUCED (log entry 79). -/
def execTimeClkLoss (s : State) : Res :=
  .next (if s.time.onSerdes || s.inState pTIME .reset then s
    else
      let s1 := withLine 322 (fun s => s.setF pTIME F.TIME_EVENT_CLK_FAIL) { s with time := { s.time with onSerdes := true } }
      escalate pTIME (ledgerEvent 0x04 0 s1))

def execTimePllLock (s : State) : Res := .next (s.setF pTIME F.TIME_STATUS_PLL_LOCK)

/-- R401: the fixed delays of a port are measured. DESIGN CHOICE (log entry 28). -/
def execTsCalDone (p : Nat) (s : State) : Res :=
  .next (if !s.raw p || 48 ≤ p then s
    else
      let f := nextFree s
      let c := Config.calDelay p f.1
      (((f.2.wr pTIME F.TS_CAL_RX_DELAY c.1 p).wr pTIME F.TS_CAL_TX_DELAY c.2 p).wr pTIME F.TS_CAL_RX_CAL_DONE 1 p))

/-! ### Commands (R417, R440) -/

/-- The domains ARG names. -/
def domArg (arg : Nat) : List Nat := if arg = 2 then [0, 1] else [arg]

/-- Step a domain by an amount in 1/65,536 ns by command (R406, R407). -/
def stepByCommand (d : Nat) (x : Int) (s : State) : State := (stepDom d x s).updDom d (fun y => { y with writtenAt := s.now })

def execTimeSet (pg ag arg : Nat) (s : State) : Res :=
  .next (command pg ag 0x42 (pg = pTIME && arg < 3) (stateIn s pTIME [.ready, .run])
    (fun s =>
      let t : Int := timeOf (s.rd pTIME F.TIME_SET_SEC_HI_SEC_HI * 2 ^ 32 + s.rd pTIME F.TIME_SET_SEC_LO_SEC_LO)
        (s.rd pTIME F.TIME_SET_NS_NS) (s.rd pTIME F.TIME_SET_SEC_HI_FRAC)
      ((domArg arg).foldl (fun s d => stepByCommand d (t * timeDen - (s.dom d).fine s.now) s) s, rDONE)) s)

/-- The adjustment staged, in 1/65,536 ns. -/
def stagedAdj (s : State) : Int := toSigned 64 (s.rd pTIME F.TIME_ADJ_HI_ADJ_HI * 2 ^ 32 + s.rd pTIME F.TIME_ADJ_LO_ADJ_LO)

def execTimeAdj (pg ag arg : Nat) (s : State) : Res :=
  .next (command pg ag 0x43 (pg = pTIME && arg < 3 && (stagedAdj s).natAbs ≤ 1000000000 * nsU) (stateIn s pTIME [.ready, .run])
    (fun s => ((domArg arg).foldl (fun s d => stepByCommand d (stagedAdj s * timeDen) s) s, rDONE)) s)

/-- SELECT of domain `y` (R408, R409, R426). -/
def selectDom (y : Nat) (s : State) : State :=
  if s.selDom = y then s
  else if s.banked then
    if s.domState y = dLOCKED then noteSwitch (bankEnd y s)
    else checkSelect (noteSwitch (s.wr pTIME F.TIME_STATUS_SEL_DOM y))
  else checkSelect (switchTo y s)

def execSelect (pg ag arg : Nat) (s : State) : Res :=
  .next (command pg ag 0x44 (pg = pTIME && arg < 2) (stateIn s pTIME [.ready, .run]) (fun s => (selectDom arg s, rDONE)) s)

/-- Show a time in the snapshot registers of place `k`. -/
def snapTime (k t : Nat) (s : State) : State :=
  (((s.wr pTIME F.TIME_SNAP_NS (tNs t) k).wr pTIME F.TIME_SNAP_SEC_LO (tSec t % 2 ^ 32) k).wr pTIME F.TIME_SNAP_SEC_HI (tSec t / 2 ^ 32) k).wr
    pTIME F.TIME_SNAP_FRAC (tFrac t) k

/-- R394: the four scales at one instant. -/
def timeSnap (s : State) : State :=
  let l := s.now
  let s1 := ((s.wr pTIME F.TIME_SNAP_L_NS (l / nsU % 2 ^ 32) 0).wr pTIME F.TIME_SNAP_L_NS (l / nsU / 2 ^ 32) 1).wr pTIME F.TIME_SNAP_L_FRAC (l % nsU)
  snapTime 2 (s.selAt l) (snapTime 1 (s.time.domB.time l) (snapTime 0 (s.time.domA.time l) s1))

def execTimeSnap (pg ag arg : Nat) (s : State) : Res :=
  .next (command pg ag 0x45 (pg = pTIME && arg = 0) (!s.inState pTIME .reset) (fun s => (timeSnap s, rDONE)) s)

def execServoReset (pg ag arg : Nat) (s : State) : Res :=
  .next (command pg ag 0x46 (pg = pTIME && arg < 3) (stateIn s pTIME [.ready, .run])
    (fun s => (checkSelect ((domArg arg).foldl (fun s d =>
      if s.domState d = dOFF then s else enterDom d dFREERUN (s.updDom d (fun x => { x with run := 0 }))) s), rDONE)) s)

/-! ### The model and banked time (R420 to R430) -/

/-- The temperature in use, when the die sensor reads `theta` (R421). -/
def thetaOf (s : State) (theta : Int) : Int := if s.rdB pTIME F.BANK_CFG_TEMP_SRC then s.rdS pTIME F.BANK_TEMP_TEMP else theta

/-- The evaluation of every 100 ms. -/
def modelEvaluate (theta : Int) (s : State) : State :=
  if s.inState pTIME .reset then s
  else
    let th := thetaOf s theta
    let s1 := s.wrS pTIME F.BANK_THETA_THETA th
    let rho := modelRho s1.time.model th (tSec s1.sNow) / 64
    let s2 := s1.wrS pTIME F.BANK_RHO_RHO (clampInt (-(2 ^ 31)) (2 ^ 31 - 1) rho)
    if s2.banked then checkSelect (syncElapsed (chooseBank th s2)) else s2

def execModelEvaluate (theta : Int) (s : State) : Res := .next (modelEvaluate theta s)

/-- A new second of the model's mean begins. -/
def newSecond (s : State) : State :=
  let s1 := rebaseDom 1 (rebaseDom 0 s)
  { s1 with time := { s1.time with secAt := s1.now, domA := { s1.time.domA with rhoAcc := 0 }, domB := { s1.time.domB with rhoAcc := 0 } } }

/-- One learning step, at the end of its second. DESIGN CHOICE (log entry 25). -/
def modelLearn (theta : Int) (s : State) : State :=
  if !learning s then newSecond s
  else
    let s0 := rebaseDom s.selDom s
    let x := s0.dom s0.selDom
    let dt := s0.now - s0.time.secAt
    let mean : Int := if dt = 0 then x.rho else x.rhoAcc / (dt : Int)
    let th := thetaOf s theta
    let m := s0.time.model
    let m1 := if m.refSet then m else { m with theta0 := th, t0 := tSec s0.sNow, refSet := true }
    let f := nextFree s0
    let c := Config.modelFit f.1 th mean (s.rd pTIME F.BANK_CFG_LEARN_TAU_H)
    let lim := clampInt (-(2 ^ 31)) (2 ^ 31 - 1)
    let m2 := { m1 with c0 := lim c.1, c1 := lim c.2.1, c2 := lim c.2.2.1, a := lim c.2.2.2, steps := m1.steps + 1 }
    newSecond (syncTime { f.2 with time := { f.2.time with model := m2 } })

def execModelLearn (theta : Int) (s : State) : Res := .next (modelLearn theta s)

def execTempStaleTimeout (s : State) : Res :=
  .next (if s.rdB pTIME F.BANK_CFG_TEMP_SRC then syncTime (s.setF pTIME F.BANK_STATUS_TEMP_STALE) else s)

/-- R427. -/
def execBankExpiry (s : State) : Res :=
  .next (if !s.banked then s
    else
      let s1 := withLine 326 (fun s => s.setF pTIME F.BANK_STATUS_EXPIRED) (syncElapsed s)
      { s1 with time := { s1.time with ppsHeld := true, ppsOut := s1.time.ppsOut && !s1.rdB pTIME F.BANK_LIMIT_PPS_SQ_EXP } })

/-- The operating model in the units of the staging registers, by register. -/
def modelWords (s : State) : List Nat :=
  let m := s.time.model
  [ofSigned 32 m.c0, ofSigned 32 m.c1, ofSigned 32 m.c2, ofSigned 32 m.a, m.hours * 2 ^ 16 + ofSigned 16 m.theta0, m.t0 % 2 ^ 32, m.t0 / 2 ^ 32 % 2 ^ 16]

def modelSnap (s : State) : State :=
  let m := s.time.model
  let s1 := (((s.wrS pTIME F.BANK_C0_C0 m.c0).wrS pTIME F.BANK_C1_C1 m.c1).wrS pTIME F.BANK_C2_C2 m.c2).wrS pTIME F.BANK_AGING_A m.a
  let s2 := (s1.wr pTIME F.BANK_META_LEARN_H m.hours).wrS pTIME F.BANK_META_THETA0 m.theta0
  (s2.wr pTIME F.BANK_T0_LO_SEC_LO (m.t0 % 2 ^ 32)).wr pTIME F.BANK_T0_HI_SEC_HI (m.t0 / 2 ^ 32)

/-- The staging registers become the model. -/
def modelLoad (s : State) : State :=
  let m : Model := { c0 := s.rdS pTIME F.BANK_C0_C0, c1 := s.rdS pTIME F.BANK_C1_C1, c2 := s.rdS pTIME F.BANK_C2_C2, a := s.rdS pTIME F.BANK_AGING_A
                     theta0 := s.rdS pTIME F.BANK_META_THETA0, t0 := s.rd pTIME F.BANK_T0_HI_SEC_HI * 2 ^ 32 + s.rd pTIME F.BANK_T0_LO_SEC_LO
                     steps := 3600 * s.rd pTIME F.BANK_META_LEARN_H, refSet := true }
  syncTime ({ s with time := { s.time with model := m } }.setF pTIME F.BANK_STATUS_RESTORED)

def execModelSnap (pg ag arg : Nat) (s : State) : Res :=
  .next (command pg ag 0x47 (pg = pTIME && arg = 0) (!s.inState pTIME .reset) (fun s => (modelSnap s, rDONE)) s)

def execModelLoad (pg ag arg : Nat) (s : State) : Res :=
  .next (command pg ag 0x48 (pg = pTIME && arg = 0) (stateIn s pTIME [.ready, .run] && !s.banked) (fun s => (modelLoad s, rDONE)) s)

def execModelClear (pg ag arg : Nat) (s : State) : Res :=
  .next (command pg ag 0x49 (pg = pTIME && arg = 0) (stateIn s pTIME [.ready, .run] && !s.banked)
    (fun s => (syncTime ({ s with time := { s.time with model := { s.time.model with c0 := 0, c1 := 0, c2 := 0, a := 0, steps := 0, refSet := false } } }.wr
      pTIME F.BANK_STATUS_RESTORED 0), rDONE)) s)

/-- DEDUCED (log entry 81). -/
def execModelSave (pg ag arg : Nat) (s : State) : Res :=
  .next (command pg ag 0x4A (pg = pTIME && arg = 0) (stateIn s pTIME [.ready, .run])
    (fun s => (queueRecord ⟨5, s.ldg.open_.hour, (modelWords s).flatMap (leBytes 4), false⟩ s, rDONE)) s)

/-! ### Pulses, outputs and captures (R431 to R436) -/

/-- The nearest whole second of a time in 1/65,536 ns. DESIGN CHOICE (log entry 29). -/
def nearestSec (t : Nat) : Nat :=
  let r := t % secU
  if 2 * r < secU || (2 * r = secU && Config.roundHalfDown) then t - r else t - r + secU

/-- An edge of PPS_IN whose first transition was at `l` and whose level held for the filter time. -/
def ppsInEdge (rise : Bool) (l : Nat) (s : State) : State :=
  if s.now < l + s.rd pTIME F.PPS_IN_CFG_FILT * 4 * nsU || !s.rdB pTIME F.PPS_IN_CFG_EN || rise = s.rdB pTIME F.PPS_IN_CFG_EDGE then s
  else if (match s.time.ppsInAt with | some t => decide (l < t + 900000000 * nsU) | none => false) then s.addSat pTIME F.PPS_IN_STAT_EXTRA
  else
    let s1 := { s with time := { s.time with ppsInAt := some l } }.setF pTIME F.PPS_IN_STAT_SEEN
    [0, 1].foldl (fun s d =>
      if s.rd pTIME F.DOM_CFG_SRC d = 1 then
        let t := capturedIn s d l (-(1024 * s.rdS pTIME F.PPS_IN_DELAY_DELAY))
        sample d l ((t : Int) - nearestSec t) s
      else s) s1

def execPpsInEdge (rise : Bool) (l : Nat) (s : State) : Res := .next (ppsInEdge rise l s)

/-- Whether S, advanced by PPS_OUT_DELAY, is within 1 ns of a whole second. -/
def ppsDue (s : State) : Bool :=
  let x := moveTime s.sNow (1024 * s.rdS pTIME F.PPS_OUT_DELAY_ADV) % secU
  x ≤ nsU || secU - nsU ≤ x

/-- Whether banked time that has run past its limit holds PPS_OUT low (R427). -/
def ppsSilent (s : State) : Bool := s.time.ppsHeld && s.rdB pTIME F.BANK_LIMIT_PPS_SQ_EXP

def ppsOutEdge (rise : Bool) (s : State) : State :=
  if !rise then { s with time := { s.time with ppsOut := false } }
  else if s.rdB pTIME F.PPS_OUT_CFG_EN && (!s.rdB pTIME F.PPS_OUT_CFG_SQ_NOLOCK || s.time.everLocked) && !ppsSilent s && sharedDriven s && ppsDue s then
    { s with time := { s.time with ppsOut := true } }
  else s

/-- The PPS_OUT pin: none while it is high-impedance. -/
def ppsPin (s : State) : Option Bool := if sharedDriven s then some (s.time.ppsOut && !ppsSilent s) else none

/-- What a recovered-clock output does (R97, R611): high-impedance, held low, switched to the SerDes reference of 156.25 MHz, or the source port's
symbol rate divided by DIV. -/
inductive ClkOut where
  | highZ | low | reference | recovered (port div : Nat)
  deriving DecidableEq, Repr

/-- RCLK_OUT_`k` as it is driven. -/
def rclkPin (s : State) (k : Nat) : ClkOut :=
  if !sharedDriven s then .highZ
  else if !s.rdB pTIME F.RCLK_CTRL_EN k then .low
  else if s.rdB pTIME F.RCLK_CTRL_SQUELCHED k then (if s.rdB pTIME F.RCLK_CTRL_SQUELCH k then .reference else .low)
  else .recovered (s.rd pTIME F.RCLK_CTRL_SRC_PORT k) (s.rd pTIME F.RCLK_CTRL_DIV k)

def execPpsOutEdge (rise : Bool) (s : State) : Res := .next (ppsOutEdge rise s)

/-- Whether a schedule's next instant has come, within the 1 ns of R434. -/
def instantDue (s : State) (p : Plan) (c : Sched) : Bool := !c.done && p.instant c ≤ (s.sNow + nsU : Nat)

/-- An edge of a timed output, before POL. -/
def toutEdge (n : Nat) (rise : Bool) (s : State) : State :=
  if !rise then setTout n false s
  else match toutPlan s n with
    | some p => if instantDue s p (s.toutS n) then setTout n true (setToutS n (p.fired (s.toutS n)) s) else s
    | none => s

def execToutEdge (n : Nat) (rise : Bool) (s : State) : Res := .next (toutEdge n rise s)

/-- The level at the ball of a timed output. -/
def toutLevel (s : State) (n : Nat) : Bool := s.time.tout.get false n != s.rdB pTIME F.TOUT_CFG_POL n

/-- An edge of capture input `k` whose first transition was at `l`. -/
def tinEdge (k : Nat) (rise : Bool) (l : Nat) (s : State) : State :=
  let e := s.rd pTIME F.TIN_CFG_EDGE k
  if s.now < l + s.rd pTIME F.TIN_CFG_FILT k * 4 * nsU || !s.rdB pTIME F.TIN_CFG_EN k || !(e = 2 || (e = 0 && rise) || (e = 1 && !rise)) then s
  else
    let q := s.time.tin.get [] k
    let s1 := srcEvent 328 s
    if 16 ≤ q.length then s1.addSat pTIME F.TIN_CFG_LOST 1 k
    else
      { s1 with time := { s1.time with tin := s1.time.tin.put [] k (q ++ [(⟨rise, s.selAt l / 1024 * 1024⟩ : TinRec)]) } }.wr pTIME F.TIN_CFG_COUNT (q.length + 1) k

def execTinEdge (k : Nat) (rise : Bool) (l : Nat) (s : State) : Res := .next (tinEdge k rise l s)

/-- A read of TIN_POP. -/
def tinPop (k : Nat) (s : State) : State :=
  match s.time.tin.get [] k with
  | [] => s.wr pTIME F.TIN_POP_VALID 0 k
  | x :: t =>
    let s1 := { s with time := { s.time with tin := s.time.tin.put [] k t } }.wr pTIME F.TIN_CFG_COUNT t.length k
    let s2 := ((s1.wr pTIME F.TIN_POP_VALID 1 k).wr pTIME F.TIN_POP_RISE (b2n x.rise) k).wr pTIME F.TIN_POP_NS (tNs x.time) k
    ((s2.wr pTIME F.TIN_SEC_SEC_LO (tSec x.time % 2 ^ 32) k).wr pTIME F.TIN_FRAC_SEC_HI (tSec x.time / 2 ^ 32) k).wr pTIME F.TIN_FRAC_FRAC (tFrac x.time) k

def execTinPop (k : Nat) (s : State) : Res := .next (tinPop k s)

/-! ### Cycle triggers (R195, R317, R318, R437) -/

/-- A firing at time `t` reaches the gate list of a port. -/
def fireGate (p n t : Nat) (s : State) : State :=
  let g := pPORT (portRegion p)
  let i := portCell p
  let x := s.gate p
  if x.takeover = some none && s.rdShadow g F.GATE_CTRL_TRIG_EN i != 0 && s.rdShadow g F.GATE_CTRL_TRIG i = n && x.goAt + 10 * usU ≤ t then
    takeover p t s
  else if s.rdB g F.GATE_CTRL_TRIG_EN i && s.rd g F.GATE_CTRL_TRIG i = n && s.rdB g F.GATE_CTRL_GATE_EN i then
    let want : Int := x.start + (x.fires + 1) * (s.rd g F.GATE_CYCLE_CYCLE_TIME i * nsU : Nat)
    let s1 := refreshPort p s
    let s2 := if t + nsU < want || want + nsU < t then s1.setF g F.GATE_EVENT_TRIG_SLIP i else s1
    let s3 := s2.updGate p (fun x => { x with cyc := t, fires := x.fires + 1 })
    gateChange p (if t = x.cyc + s.rd g F.GATE_CYCLE_CYCLE_TIME i * nsU then s3 else planCut p s3)
  else s

/-- A firing makes an event routine due in a region, or raises the count of one that is. -/
def fireEngine (r n t : Nat) (s : State) : State :=
  if (s.rd (pENG r) F.ENG_CTRL_EVENT_MASK).testBit n then
    let d := (s.eng.due.find? (8 * r + n)).getD (0, t)
    { s with eng := { s.eng with due := s.eng.due.insert (8 * r + n) (min 65535 (d.1 + 1), d.2) } }
  else s

/-- A cycle trigger fires. -/
def triggerFire (n : Nat) (s : State) : State :=
  match trigPlan s n with
  | none => s
  | some p =>
    let c := s.trigS n
    if !instantDue s p c then s
    else
      let t := (p.instant c).toNat
      let s1 := setTrigS n (p.fired c) (s.wr pTIME F.TRIG_COUNT_COUNT (c.next % s.rd pTIME F.TRIG_CFG_MODULUS n) n)
      let s2 := (List.range 48).foldl (fun s k => fireGate k n t s) s1
      (List.range 4).foldl (fun s r => fireEngine r n t s) s2

def execCycleTriggerFire (n : Nat) (s : State) : Res := .next (triggerFire n s)

end Sys2Proof.Machine
end

