-- ==== Sys2Proof/Machine/Registers.lean ====
section
/-! DEFINITION. The register pages and table windows as an agent sees them (R49 to R73, R628, R629): where a write goes, the common header,
the common commands, and how posted writes and long commands end. A write of a register that has a row of its own takes that row's
meaning. -/
namespace Sys2Proof.Machine

/-! ### T fields and their votes (R67 to R69) -/

/-- The field a key names. -/
def keyField (k : Nat) : Option (Field × Nat × Nat) :=
  match pageBlk (k / 32768) with
  | some b => (regFields b (k / 32 % 1024 * 4)).find? (fun x => x.1.lo = k % 32)
  | none => none

/-- One copy of a T field is struck. DESIGN CHOICE (log entry 12). -/
def strike (u : Upset) (s : State) : State :=
  match keyField u.key with
  | some x =>
    if x.1.com != .trip then s
    else
      let v := s.reg.op.get x.1.reset u.key
      let c := s.reg.copies.get (v, v, v) u.key
      let f := u.flips % 2 ^ (x.1.hi - x.1.lo + 1)
      let d := match u.copy with
        | 1 => (c.1 ^^^ f, c.2.1, c.2.2)
        | 2 => (c.1, c.2.1 ^^^ f, c.2.2)
        | _ => (c.1, c.2.1, c.2.2 ^^^ f)
      if d.1 = d.2.1 && d.2.1 = d.2.2 then
        { s with reg := { s.reg with op := s.reg.op.put x.1.reset u.key d.1, copies := s.reg.copies.erase u.key } }
      else { s with reg := { s.reg with copies := s.reg.copies.insert u.key d } }
  | none => s

/-- A field's three copies take one value. -/
def settleCopies (k v : Nat) (s : State) : State :=
  match keyField k with
  | some x => { s with reg := { s.reg with op := s.reg.op.put x.1.reset k v, copies := s.reg.copies.erase k } }
  | none => s

/-- The vote of one field of page `p` (R67, R69): a lone copy is outvoted; three that differ give way to the reset value and fence the block.
DEDUCED (log entry 13). -/
def voteKey (p : Nat) (s : State) (k : Nat) : State :=
  let idx := k / 32 % 1024
  match s.reg.copies.find? k with
  | none => s
  | some (a, b, c) =>
    let fixed := fun (v n : Nat) =>
      report p .corrected ((settleCopies k v s).updPage p (fun h => { h with corrCnt := satAdd 65535 h.corrCnt 1, lastReg := idx, lastCopy := n }))
    if b = c then fixed b 1
    else if a = c then fixed a 2
    else if a = b then fixed a 3
    else
      let z := (keyField k).elim 0 (fun x => x.1.reset)
      let s1 := report p .contained ((settleCopies k z s).updPage p (fun h => { h with uncorr := true, lastReg := idx, lastCopy := 0 }))
      if stateIn s1 p [.fenced, .reset] then s1 else enterFenced p 3 s1

/-- Every T field of a page is voted. -/
def votePage (s : State) (p : Nat) : State :=
  (s.reg.copies.keys.filter (keyOnPage p)).foldl (voteKey p) s

/-! ### The common header (R58) -/

/-- The bits of a header word that are no RSV bits; 0x028 to 0x03C hold no register. -/
def headerMask (off : Nat) : Option Nat :=
  match off / 4 with
  | 0 => some 0xFFFF0FFF
  | 1 => some 0xFFFF0000
  | 2 => some 0x000FFF0F
  | 3 => some 0xFCF0FFFF
  | 4 => some 0xFFFF00FF
  | 5 => some 0xF3FFFFFF
  | 6 => some 0x00000007
  | 7 => some 0xFFFF0001
  | 8 => some 0xE0FFFFFF
  | 9 => some 0xFFFFFFF8
  | _ => none

/-- What a write through the clear view does to the sticky bits and counts of BLK_ERR and BLK_VOTE_ERR (R54). -/
def clearHeader (p off v : Nat) (s : State) : State :=
  s.updPage p (fun h =>
    if off = 0x00C then { h with
      escalated := h.escalated && !v.testBit 31, contained := h.contained && !v.testBit 30
      corrected := h.corrected && !v.testBit 29, noted := h.noted && !v.testBit 28
      accErr := h.accErr && !v.testBit 27, leaseLapsed := h.leaseLapsed && !v.testBit 26
      stateCnt := if bitsOf v 15 8 = 0 then h.stateCnt else 0, refuseCnt := if bitsOf v 7 0 = 0 then h.refuseCnt else 0 }
    else if off = 0x024 then { h with corrCnt := if bitsOf v 31 16 = 0 then h.corrCnt else 0, uncorr := h.uncorr && !v.testBit 3 }
    else h)

/-- The word a header register reads (R58). A lease is shown in whole µs, a fraction that is left as one more. DESIGN CHOICE (log entry 123). -/
def headerRead (s : State) (p off : Nat) : Nat :=
  let h := s.page p
  let reg := if p < 0x010 then 0xFF else pageRegion p
  match off / 4 with
  | 0 => ((pageBlk p).elim 0 blkType) * 2 ^ 24 + reg * 2 ^ 16 + p
  | 1 => 0xB0010000
  | 2 => h.fenceCause * 2 ^ 16 + h.substate * 2 ^ 8 + (match h.state with
      | .reset => 0 | .boot => 1 | .ready => 2 | .run => 3 | .fenced => 4 | .reinit => 5 | .halted => 6)
  | 3 => b2n h.escalated * 2 ^ 31 + b2n h.contained * 2 ^ 30 + b2n h.corrected * 2 ^ 29 + b2n h.noted * 2 ^ 28 + b2n h.accErr * 2 ^ 27
      + b2n h.leaseLapsed * 2 ^ 26 + h.lastCode * 2 ^ 20 + h.stateCnt * 2 ^ 8 + h.refuseCnt
  | 5 => h.seq * 2 ^ 28 + h.resIndex * 2 ^ 16 + h.resOp * 2 ^ 8 + h.resAgent * 2 ^ 4 + h.resCode
  | 6 => b2n h.commitPending * 4 + b2n h.cmd.isSome * 2 + b2n (!h.posted.isEmpty)
  | 7 => h.appliedSeq * 2 ^ 16
  | 8 => match h.lock with
    | some l => 2 ^ 31 + l.owner * 2 ^ 20 + (l.leaseEnd - s.now + usU - 1) / usU
    | none => 0
  | 9 => h.corrCnt * 2 ^ 16 + h.lastReg * 2 ^ 6 + h.lastCopy * 2 ^ 4 + b2n h.uncorr * 2 ^ 3
  | _ => 0

/-! ### Common commands (R60) -/

/-- The states in which most common commands are legal. -/
def servable (s : State) (p : Nat) : Bool := stateIn s p [.ready, .run, .fenced]

def execCmdNop (pg ag arg : Nat) (s : State) : Res :=
  .next (command pg ag 0x00 (arg = 0) (!s.inState pg .reset) (fun s => (s, rDONE)) s)

def execReinit (pg ag arg : Nat) (s : State) : Res :=
  .next (commandLong pg ag 0x01 arg (arg = 0) (servable s pg) [] (fun s => setState pg .reinit (blockStops pg s)) s)

def execFence (pg ag arg : Nat) (s : State) : Res :=
  .next (command pg ag 0x02 (arg = 0) (stateIn s pg [.ready, .run]) (fun s => (enterFenced pg 2 s, rDONE)) s)

def execRelease (pg ag arg : Nat) (s : State) : Res :=
  .next (commandLong pg ag 0x03 arg (arg = 0) (s.inState pg .fenced) [] (fun s => setState pg .reinit (blockStops pg s)) s)

def execScrub (pg ag arg : Nat) (upsets : List Upset) (s : State) : Res :=
  .next (
    let s1 := upsets.foldl (fun s u => strike u s) s
    command pg ag 0x04 (arg = 0) (servable s1 pg) (fun s => (votePage s pg, rDONE)) s1)

/-- DEDUCED (log entry 14). -/
def execDiscard (pg ag arg : Nat) (s : State) : Res :=
  .next (command pg ag 0x05 (arg = 0) (servable s pg)
    (fun s => (if (s.page pg).commitPending then s else dropShadows pg s, rDONE)) s)

/-- R67: the background scrub. -/
def execScrubPass (upsets : List Upset) (s : State) : Res :=
  .next (
    let s1 := upsets.foldl (fun s u => strike u s) s
    (allPages.filter (fun p => !s1.inState p .reset)).foldl votePage s1)

/-! ### BLOCK_RUN and BLOCK_STOP (R59) -/

/-- The opcodes of BLOCK_RUN and BLOCK_STOP; some blocks have neither. -/
def runOp (b : Blk) : Option Nat :=
  match b with
  | .port => some 0x43
  | .sns | .boot | .xbar | .sfab => none
  | _ => some 0x40

/-- Entry to RUN, and what the ledger does first in it. -/
def blockRun (pg : Nat) (s : State) : State :=
  let s1 := enterState pg .run s
  if pg = pLDG then ledgerBoot s1 else s1

def execBlockRun (pg ag arg : Nat) (s : State) : Res :=
  .next (
    let op := (pageBlk pg).bind runOp
    let timed := pg != pPEAT || (List.range 14).all (fun k => s.rd pPEAT F.PEAT_TIM_VALUE k != 0)
    command pg ag (op.getD 0x40) (op.isSome && arg = 0) (s.inState pg .ready && timed) (fun s => (blockRun pg s, rDONE)) s)

/-- The blocks whose stop ends in the step that accepts it. -/
def stopsAtOnce (b : Blk) : Bool := [Blk.port, .rpl, .time, .mate, .int, .emb].contains b

/-- Whether the block's own state lets it stop (R99, R545). -/
def mayStop (s : State) (pg : Nat) : Bool :=
  match pageBlk pg with
  | some .port => (s.page pg).substate = 0
  | some .emb => smState s = 0
  | _ => true

/-- The stop of a block that ends at once: the mate interface releases its claim first (R467). -/
def stopNow (pg : Nat) (s : State) : State :=
  setState pg .ready (if pg = pMATE then mateStop s else s)

/-- What a stop does at acceptance: the host interface evicts the clean lines it holds (R507). -/
def stopBegins (pg : Nat) (s : State) : State :=
  if pg = pHIF then
    setLines (s.hif.lines.filter (fun x => !x.data.isEmpty || s.hif.slots.any (fun y => y.ring = x.ring && y.idx = x.idx))) s
  else s

def execBlockStop (pg ag arg : Nat) (s : State) : Res :=
  .next (
    let op := ((pageBlk pg).bind runOp).map (· + 1)
    let range := op.isSome && arg = 0
    let st := s.inState pg .run && mayStop s pg
    if (pageBlk pg).any stopsAtOnce then command pg ag (op.getD 0x41) range st (fun s => (stopNow pg s, rDONE)) s
    else commandLong pg ag (op.getD 0x41) arg range st [] (stopBegins pg) s)

/-- Whether the outstanding work of a stopping block has ended. -/
def workEnded (s : State) (pg : Nat) : Bool :=
  let r := pageRegion pg
  match pageBlk pg with
  | some .prs | some .eng => !s.eng.ctx.entries.any (fun (e : Nat × Ctx) => e.1 / 128 = r && e.2.busy)
  | some .lkp => (s.eng.orphans.entries.all (fun (e : Nat × List Orphan) => e.1 / 16 != r || e.2.isEmpty))
      && !s.eng.ctx.entries.any (fun (e : Nat × Ctx) => e.1 / 128 = r && e.2.tags.any (fun t => t.st = .busy))
  | some .buf => !s.buf.link.entries.any (fun (e : Nat × Link) => billetRegion e.1 = r && e.2.alloc)
  | some .qsc => (knownQueues s).all (fun q => s.qRegion q != r || !queueHolds s q)
  | some .peat => !s.queues.entries.any (fun (e : Nat × Queue) => e.2.spill)
  | some .hif => s.hif.lines.isEmpty && s.hif.slots.isEmpty && s.hif.dones.isEmpty && (openRings s).all (fun n => !ringBusy s n)
  | some .ldg => !s.boot.flashOp.any (fun o => o.ldg)
      && (s.ldg.queue.isEmpty || s.ldg.wstate = .stopped || slotCount s = 0 || !mayStartOp s (recordNeeds s))
  | _ => false

/-- R59: a stopping block whose work has ended enters READY. -/
def execBlockStopComplete (pg : Nat) (s : State) : Res :=
  .next (
    if s.inState pg .run && pg != pBOOT && (s.page pg).cmd.any (fun c => c.op = 0x41) && workEnded s pg then
      finishCmd pg rDONE (setState pg .ready s)
    else s)

/-! ### Commits and locks -/

def execCommitGo (pg ag v : Nat) (s : State) : Res := .next (commitWrite pg ag v s)
def execCommitApply (pg kind : Nat) (s : State) : Res := .next (commitApply pg kind s)
def execLockAcquire (pg ag lease : Nat) (s : State) : Res := .next (lockCommand pg ag true false lease s)
def execLockRelease (pg ag : Nat) (s : State) : Res := .next (lockCommand pg ag false true 0 s)
def execLeaseExpiry (pg : Nat) (pair : Bool) (s : State) : Res := .next (if pair then pairLeaseEnds s else leaseEnds pg s)

/-! ### Faults (R28, R484) -/

/-- R28: `between` says whose handshake it is: within a cell, between two cells of the block, or between two blocks of a region. -/
def execHandshakeTimeout (pg between fails : Nat) (s : State) : Res :=
  let other := match between with
    | 1 => pg
    | 2 => if pg % 0x010 = 0 then pg + 1 else pg - 1
    | _ => 0x00F
  .next (handshakeTimeout pg other (fails + 1) s)

def execFenceSweep (r : Nat) (s : State) : Res := .next (fenceSweep r s)

/-! ### Command words -/

/-- The block-specific commands by opcode. -/
def blockCommand (b : Blk) (op : Nat) : Option (Nat → Nat → Nat → State → Res) :=
  match b, op with
  | .port, 0x40 => some execPortEnable
  | .port, 0x41 => some execPortDisable
  | .port, 0x42 => some execPortRetrain
  | .prs, 0x42 => some execTreeSwap
  | .prs, 0x43 => some execNodeWrite
  | .prs, 0x44 => some execNodeRead
  | .lkp, 0x42 => some (fun pg ag arg => execEmInsert pg ag arg [])
  | .lkp, 0x43 => some (fun pg ag arg => execEmDelete pg ag arg [])
  | .lkp, 0x44 => some (fun pg ag arg => execEmSearch pg ag arg [])
  | .lkp, 0x45 => some (fun pg ag arg => execEmRead pg ag arg [])
  | .lkp, 0x46 => some execLpmWrite
  | .lkp, 0x47 => some (fun pg ag arg => execLpmRead pg ag arg [])
  | .lkp, 0x48 => some execTableClear
  | .eng, 0x42 => some execCntSnap
  | .eng, 0x43 => some execEngCntClear
  | .eng, 0x44 => some execCsScrub
  | .eng, 0x45 => some execDbgResume
  | .buf, 0x42 => some (fun pg ag arg => execLinkRead pg ag arg 0)
  | .buf, 0x43 => some (fun pg ag arg => execCordFree pg ag arg [])
  | .buf, 0x44 => some execOwnerSweep
  | .qsc, 0x42 => some (fun pg ag arg => execQFlush pg ag arg none)
  | .qsc, 0x43 => some execPolWrite
  | .qsc, 0x44 => some execPolRead
  | .qsc, 0x45 => some execSfWrite
  | .qsc, 0x46 => some execSfRead
  | .qsc, 0x47 => some execSfUnblock
  | .rpl, 0x42 => some execHamperWrite
  | .rpl, 0x43 => some execHamperRead
  | .rpl, 0x44 => some execCapReset
  | .peat, 0x42 => some execTurfRead
  | .peat, 0x43 => some execTurfSweep
  | .peat, 0x44 => some execQPeatRead
  | .time, 0x42 => some execTimeSet
  | .time, 0x43 => some execTimeAdj
  | .time, 0x44 => some execSelect
  | .time, 0x45 => some execTimeSnap
  | .time, 0x46 => some execServoReset
  | .time, 0x47 => some execModelSnap
  | .time, 0x48 => some execModelLoad
  | .time, 0x49 => some execModelClear
  | .time, 0x4A => some execModelSave
  | .mate, 0x42 => some execClaim
  | .mate, 0x43 => some execMateRelease
  | .mate, 0x44 => some execRejoin
  | .mate, 0x45 => some execResync
  | .hif, 0x42 => some execCacheFlush
  | .int, 0x42 => some execStackClear
  | .emb, 0x42 => some execSmoulderEnter
  | .emb, 0x43 => some execSmoulderExit
  | .ldg, 0x42 => some execLdgCntClear
  | .ldg, 0x43 => some execReadRec
  | .ldg, 0x44 => some execLdgRestart
  | .boot, 0x40 => some (fun pg ag arg s => .next (chipReset pg ag arg s))
  | .boot, 0x41 => some execRbAdvance
  | .boot, 0x42 => some execOtpWrite
  | .boot, 0x43 => some execUnlock
  | .boot, 0x44 => some execFlashRead
  | .boot, 0x45 => some execFlashProg
  | .boot, 0x46 => some execFlashErase
  | _, _ => none

/-- Any command by opcode. -/
def commandOf (b : Blk) (op : Nat) : Option (Nat → Nat → Nat → State → Res) :=
  if op = 0x00 then some execCmdNop
  else if op = 0x01 then some execReinit
  else if op = 0x02 then some execFence
  else if op = 0x03 then some execRelease
  else if op = 0x04 then some (fun pg ag arg => execScrub pg ag arg [])
  else if op = 0x05 then some execDiscard
  else if runOp b = some op then some execBlockRun
  else if (runOp b).map (· + 1) = some op then some execBlockStop
  else blockCommand b op

/-- The state a meaning answers. -/
def after (r : Res) (s : State) : State := match r with | .next t => t | _ => s

/-- A write of BLK_CMD through the normal view (R56, R58): an RSV bit or an opcode that is not defined is refused with RANGE. DEDUCED (log entry 7). -/
def commandWrite (pg ag v : Nat) (s : State) : State :=
  let op := v % 256
  match (pageBlk pg).bind (fun b => commandOf b op) with
  | some f => if v / 256 % 256 = 0 then after (f pg ag (v / 65536) s) s
    else command pg ag op false true (fun s => (s, rDONE)) s
  | none => command pg ag op false true (fun s => (s, rDONE)) s

/-- A write to the common header. A write of BLK_CMD through the set, clear or toggle view is no command: it changes nothing and is not held up
by a posted write. DESIGN CHOICE (log entry 124). -/
def headerWrite (p off : Nat) (w : View) (ag v : Nat) (s : State) : State :=
  let ok := match headerMask off with | some m => v &&& m = v && v < 2 ^ 32 | none => false
  if off = 0x010 && w = .normal then commandWrite p ag v s
  else if off = 0x01C && w = .normal then commitWrite p ag v s
  else if off = 0x020 then
    if !ok then record p ag 8 0xFF rRANGE s
    else if w = .normal then lockCommand p ag (v.testBit 30) (v.testBit 29) (v % 2 ^ 20) s
    else record p ag 8 0xFF rDONE s
  else
    let c := firstFail (lockedBy s p ag) ok true false
    record p ag (off / 4) 0xFF c (if c = rDONE && w = .clear then clearHeader p off v s else s)

end Sys2Proof.Machine
end

