-- ==== Sys2Proof/Machine/Pages.lean ====
section
/-! DEFINITION. Where a write to BAR0 goes (R49 to R52, R499, R628): the checks that single registers add to R56, the table windows, reserved
space, the delivery of posted writes (R66) and the completion of long commands (R57). -/
namespace Sys2Proof.Machine

/-! ### Registers with checks or effects of their own -/

/-- Whether an offset is one of those that only the page of region 0 operates (R157, R251, R279). -/
def chipWide (b : Blk) (off : Nat) : Bool :=
  match b with
  | .lkp => 0x040 ≤ off && off ≤ 0x05C
  | .rpl => 0x040 ≤ off && off ≤ 0x0CC
  | .buf => off = 0x054 || off = 0x074
  | _ => false

/-- The ranges that fields of a register, or of a page, set each other. -/
def ownRange (s : State) (p : Nat) (b : Blk) (off : Nat) (l : List NewVal) : Bool :=
  let g := fun (f : Field) (i : Nat) => nv s p l f i
  match b with
  | .sns => off != 0x048 || (720 ≤ g F.SNS_AVS_LIMITS_VMIN_MV 0 && g F.SNS_AVS_LIMITS_VMIN_MV 0 ≤ g F.SNS_AVS_LIMITS_VMAX_MV 0
      && g F.SNS_AVS_LIMITS_VMAX_MV 0 ≤ 850)
  | .ldg => (off != 0x040 || g F.LDG_PART_SECTORS 0 = 0 || 4 ≤ g F.LDG_PART_SECTORS 0)
      && (off != 0x04C || g F.LDG_HU_NEED_PROG_MJ 0 ≤ g F.LDG_HU_NEED_ERASE_MJ 0)
  | .int => off != 0x044 || (listedEntries s 0x50000 2048 F.SRC_EN).all (fun n => s.rd (wISRC n) F.SRC_TARGET != g F.INT_FAULT_CFG_FAULT_TARGET 0)
  | .emb => l.all (fun x => x.f != F.EMB_WATCH_SOURCE || srcConnected x.v)
  | .mate => off != 0x050 || g F.MATE_POL_MIR_POL_BASE 0 + g F.MATE_POL_MIR_POL_COUNT 0 ≤ 16384
  | .peat => (off != 0x0C0 || g F.PEAT_DLY_SEL_IDX 0 ≤ 60) && l.all (fun x => x.f != F.PEAT_TIM_VALUE || x.i < 14 || x.v = 0)
  | .port => l.all (fun x => x.f != F.PORT_PREEMPT_EXPRESS_MASK || x.v.testBit 7)
  | .prs => g F.PRS_CTRL_ECPRI_UDP_EN 0 = 0 || g F.PRS_UDP_B_ECPRI_PORT 0 != 0 || (off != 0x040 && off != 0x04C)
  | .eng => l.all (fun x => x.f != F.ENG_PCFG_EVENT || (1 ≤ x.v && x.v ≤ 0xF))
  | .lkp => off != 0x048 || g F.LKP_HASH_ROT_ROT_0 0 != g F.LKP_HASH_ROT_ROT_1 0
  | .qsc => (off != 0x304 || g F.QSC_POL_MODE_MODE 0 != 3)
      && l.all (fun x => (x.f != F.QSC_WRED_TH_MIN_TH && x.f != F.QSC_WRED_TH_MAX_TH)
        || nv s p l F.QSC_WRED_TH_MIN_TH x.i x.j ≤ nv s p l F.QSC_WRED_TH_MAX_TH x.i x.j)
      && l.all (fun x => x.f != F.QSC_PORT_ARB_TC_CLASS || (List.range 7).all (fun k => x.v / 8 ^ k % 8 != 7))
      && (off != 0x24C || (12 * pageRegion p ≤ g F.QSC_SHP_CFG_PORT 0 && g F.QSC_SHP_CFG_PORT 0 < 12 * pageRegion p + 12))
  | .rpl => l.all (fun x =>
      if x.f = F.RPL_MIR_A_DEST_KIND || x.f = F.RPL_MIR_A_DEST then
        g F.RPL_MIR_A_DEST_KIND x.i != 3 && (g F.RPL_MIR_A_DEST_KIND x.i != 1 || g F.RPL_MIR_A_DEST x.i ≤ 4095)
      else if x.f = F.RPL_MIR_B_TRUNC then x.v = 0 || (64 ≤ x.v && x.v ≤ 9728)
      else if x.f = F.RPL_CAP_BASE_TURF || x.f = F.RPL_CAP_SIZE_TURVES then
        (g F.RPL_CAP_BASE_TURF 0 + g F.RPL_CAP_SIZE_TURVES 0) * 4096 ≤ windowBytes (s.rd pPEAT F.PEAT_CTRL_WIN_GIB)
      else true)
  | _ => true

/-- The states in which such a register may be written. -/
def ownState (s : State) (p : Nat) (b : Blk) (off : Nat) : Bool :=
  match b with
  | .ldg => !(0x040 ≤ off && off ≤ 0x04C && s.inState p .run)
  | .lkp => !(0x040 ≤ off && off ≤ 0x048) || (s.rd (pLKP 0) F.LKP_TBL_FILL_EM_USED = 0 && s.rd (pLKP 0) F.LKP_OVF_FILL_OVF_USED = 0)
  | _ => true

/-- What a write that passed does beside storing its values, `was` being the state before it: AGER_EN sends the ager to bucket 0 or abandons its
pass (R148), and a write of a mirror session restarts its count (R268). -/
def ownEffect (b : Blk) (off : Nat) (w : View) (v : Nat) (was s : State) : State :=
  match b with
  | .int | .hif => faultSync s
  | .lkp =>
    if was.rdB (pLKP 0) F.LKP_AGE_CFG_AGER_EN = s.rdB (pLKP 0) F.LKP_AGE_CFG_AGER_EN then s
    else { s with tab := { s.tab with agerPlace := 0, agerReads := [] } }
  | .rpl => if 0x040 ≤ off && off < 0x0C0 then { s with mirrorCount := s.mirrorCount.erase ((off - 0x040) / 8) } else s
  | .ldg =>
    if off = 0x074 && w = .clear then
      let g := s.rd pLDG F.LDG_OVF_IDX_GROUP
      { s with cnt := { s.cnt with ovf := s.cnt.ovf.filter (fun i _ => i / 32 != g || !v.testBit (i % 32)) } }
    else s
  | _ => s

/-- A write to a register without a row of its own. -/
def plainWrite (p : Nat) (b : Blk) (off : Nat) (w : View) (ag v : Nat) (s : State) : State :=
  regWrite p off w ag v (fun l => ownRange s p b off l && !(chipWide b off && pageRegion p != 0)) (fun _ => ownState s p b off) noBusy
    (fun _ => ownEffect b off w v s) s

/-- PEAT_DLY_DATA: the selected delay entry's shadow (R369). -/
def delayWrite (w : View) (ag v : Nat) (s : State) : State :=
  let k := 64 * s.rd pPEAT F.PEAT_DLY_SEL_CH + s.rd pPEAT F.PEAT_DLY_SEL_IDX
  let cur := match s.peat.delayShadow.find? k with | some (x, _) => x | none => s.peat.delay.get 0 k
  let x := viewOutcome w cur (v % 1024) 10
  let sh := if x = s.peat.delay.get 0 k then s.peat.delayShadow.erase k else s.peat.delayShadow.insert k (x, ag)
  regGate pPEAT 0x0C4 w ag v noCheck noCheck noBusy (fun _ s => { s with peat := { s.peat with delayShadow := sh } }) s

/-- ENG_DBG_LO: the low half is held until the write of ENG_DBG_HI (R223). -/
def debugLow (r : Nat) (w : View) (ag v : Nat) (s : State) : State :=
  let p := pENG r
  let x := s.ctx (16 * r + s.rd p F.ENG_DBG_SEL_ENGINE) (s.rd p F.ENG_DBG_SEL_CONTEXT)
  let k := s.rd p F.ENG_DBG_SEL_WORD
  let cur := match x.trap with | some t => t.get k % 2 ^ 32 | none => 0
  regGate p 0x064 w ag v noCheck (fun _ => x.halted && 2 ≤ k && k ≤ 16) noBusy
    (fun _ s => s.wr p F.ENG_DBG_DATA (viewOutcome w cur v 32) 0) s

/-- Whether a register has a row of its own, or is one of the time page, whose writes all have its own checks. -/
def ownRow (b : Blk) (off : Nat) : Bool :=
  match b with
  | .sns => off = 0x044
  | .int => 0x400 ≤ off && off < 0x400 + 4 * 258
  | .time => true
  | .hif => (0x060 ≤ off && off < 0x080) || [0x100, 0x104, 0x120, 0x124].contains off
  | .mate => off = 0x040 || off = 0x054 || 0x800 ≤ off
  | .peat => off = 0x040 || off = 0x0C4
  | .port => (0x380 ≤ off && off < 0x3E0 && off % 0x20 ≤ 4) || (0x080 ≤ off && off < 0x380 && off % 0x40 = 8)
  | .eng => [0x040, 0x064, 0x068].contains off || (0x200 ≤ off && off < 0x400)
  | .qsc => off = 0x200
  | _ => false

/-- A write to such a register takes its row's meaning. DEDUCED (log entry 6). -/
def rowWrite (p : Nat) (b : Blk) (off : Nat) (w : View) (ag v : Nat) (s : State) : State :=
  let r := pageRegion p
  match b with
  | .sns => avsWrite w ag v none s
  | .int => completeSource ((off - 0x400) / 4) ag w v s
  | .time =>
    if off = 0x200 || off = 0x204 then after (execRclkCtrlWrite ((off - 0x200) / 4) w ag v s) s
    else if off = 0x118 || off = 0x158 then hostOffset ((off - 0x118) / 0x40) w ag v s
    else timeWrite off w ag v s
  | .hif =>
    if off < 0x080 then partitionWrite ((off - 0x060) / 4) w ag v s
    else if off % 0x20 = 0 then mgmtWrite ((off - 0x100) / 0x20) w ag v s
    else after (execLinkFilterWrite (48 + (off - 0x104) / 0x20) w ag v s) s
  | .mate =>
    if off = 0x040 then modeWrite w ag v s
    else if off = 0x054 then plockWrite w ag v s
    else fwdWrite ((off - 0x800) / 8) (off / 4 % 2) w ag v s
  | .peat => if off = 0x040 then after (execWinGibWrite w ag v s) s else delayWrite w ag v s
  | .port =>
    if off < 0x380 then after (execLinkFilterWrite (12 * r + (off - 0x080) / 0x40) w ag v s) s
    else if off % 0x20 = 0 then after (execQuadModeWrite r ((off - 0x380) / 0x20) w ag v s) s
    else after (execQuadLaneWrite r ((off - 0x380) / 0x20) w ag v s) s
  | .eng =>
    if off = 0x040 then after (execInjParWrite r w ag v s) s
    else if off = 0x064 then debugLow r w ag v s
    else if off = 0x068 then after (execDbgWordWrite r w ag v s) s
    else if off % 8 = 0 then after (execScratchLoWrite r ((off - 0x200) / 8) w ag v s) s
    else after (execScratchHiWrite r ((off - 0x200) / 8) w ag v s) s
  | _ => after (execShaperSelect r w ag v s) s

/-- A write to a register of a page from 0x040 on. -/
def registerWrite (p : Nat) (b : Blk) (off : Nat) (w : View) (ag v : Nat) (s : State) : State :=
  if ownRow b off then rowWrite p b off w ag v s else plainWrite p b off w ag v s

/-- An aligned 32-bit write to a page. -/
def pageWrite (p off : Nat) (w : View) (ag v : Nat) (s : State) : State :=
  match pageBlk p with
  | none => count (cChip 104) s
  | some b => if off < 0x040 then headerWrite p off w ag v s else registerWrite p b off w ag v s

/-- A write of `width` bytes at an offset of a page: an aligned 64-bit one is two of 32 bits, the lower first; a narrower or misaligned one is
not performed (R52, R499). -/
def pageAccess (p off : Nat) (w : View) (ag width v : Nat) (s : State) : State :=
  if width = 4 && off % 4 = 0 then pageWrite p off w ag v s
  else if width = 8 && off % 8 = 0 then pageWrite p (off + 4) w ag (v / 2 ^ 32) (pageWrite p off w ag (v % 2 ^ 32) s)
  else narrowWrite p off ag s

/-- R51: the write is discarded and counted. -/
def execReservedPageWrite (pg _ag : Nat) (s : State) : Res :=
  .next (if s.boot.inReset || (pageBlk pg).isSome then s else count (cChip 104) s)

/-! ### Table windows (R50, R628) -/

/-- The page that owns the window at a BAR0 offset; none for reserved space. DEDUCED (log entry 9). -/
def windowPage (s : State) (a : Nat) : Option Nat :=
  if 0x400000 ≤ a && a < 0x800000 then some pLDG
  else if 0x800000 ≤ a && a < 0x810000 then some pINT
  else if 0x840000 ≤ a && a < 0x844000 then some pHIF
  else if 0x880000 ≤ a && a < 0x898000 then some (pPORT (portRegion ((a - 0x880000) / 0x800)))
  else if 0x8A0000 ≤ a && a < 0x8C0000 then some (recPage ((a - 0x8A0000) / 32))
  else if 0x8C0000 ≤ a && a < 0x900000 then some (pPORT ((a - 0x8C0000) / 64 / 1024))
  else if 0x900000 ≤ a && a < 0x980000 then (if (a - 0x900000) % 0x20000 < 0x12000 then some (pENG ((a - 0x900000) / 0x20000)) else none)
  else if 0xA00000 ≤ a && a < 0xA40000 then some pHIF
  else if 0xC00000 ≤ a && a < 0x1000000 then some (pQSC (s.qRegion ((a - 0xC00000) / 64)))
  else none

/-- A write of word `k` of entry `e` of the MSI-X table (R518): the vectors of a function appear to it as its entries from 0 on; the pending
bits are read only. -/
def msixWrite (a ag v : Nat) (s : State) : State :=
  let e := (a - 0x840000) / 16
  let k := a / 4 % 4
  let vec := s.rd pHIF F.HIF_MSIX_VEC_BASE ag + e
  let table := a < 0x841000
  let range := if table then ag < 8 && fnPresent s ag && e < s.rd pHIF F.HIF_MSIX_VEC_COUNT ag && v < 2 ^ 32 && !(k = 3 && 1 < v)
    else 0x841000 ≤ a && a < 0x841020
  let c := firstFail (lockedBy s pHIF ag) range (windowState s pHIF) false
  let s1 := if c = rDONE && table then
      faultSync { s with hif := { s.hif with msix := s.hif.msix.upd {} vec (fun x =>
        match k with
        | 0 => { x with addrLo := v / 4 * 4 }
        | 1 => { x with addrHi := v }
        | 2 => { x with data := v }
        | _ => { x with mask := v.testBit 0 }) } }
    else s
  windowResult pHIF a ag c s1

/-- An aligned 32-bit write to a window. -/
def windowWord (a ag v : Nat) (s : State) : State :=
  if a < 0x800000 then
    let i := (a - 0x400000) / 8
    if a / 4 % 2 = 0 then after (execStatLowWrite i ag v s) s else statHighWrite i ag v s
  else if a < 0x840000 then sourceWrite ((a - 0x800000) / 32) (a / 4 % 8) ag v s
  else if a < 0x880000 then msixWrite a ag v s
  else if a < 0x8A0000 then gateListWrite ((a - 0x880000) / 0x800) (a / 0x400 % 2) (a / 4 % 256) ag v s
  else if a < 0x8C0000 then recWrite ((a - 0x8A0000) / 32) (a / 4 % 8) ag v s
  else if a < 0x900000 then idWrite ((a - 0x8C0000) / 64) (a / 4 % 16) ag v s
  else if a < 0xA00000 then
    let off := (a - 0x900000) % 0x20000
    csWrite ((a - 0x900000) / 0x20000) (off / 16) (off / 4 % 4) ag v s
  else if a < 0xC00000 then ringWrite ((a - 0xA00000) / 64) (a / 4 % 16) ag v s
  else queueWrite ((a - 0xC00000) / 64) (a / 4 % 16) ag v s

/-- A write of the whole of a counter at once (R552). -/
def statWhole (a ag v : Nat) (s : State) : State := statWrite a ag (setCounter ((a - 0x400000) / 8) v) s

/-- A write that is no aligned access of 32 or 64 bits; one to the control store leaves its code and word index in ENG_CS_WSTAT too (R201). -/
def narrowWindow (p a ag : Nat) (s : State) : State :=
  let c := if lockedBy s p ag then rLOCKED else rRANGE
  let s1 := if c = rLOCKED then s else s.updPage p (fun h => { h with accErr := true })
  windowResult p ag a c (if isBlk p .eng then (s1.wr p F.ENG_CS_WSTAT_CODE c).wr p F.ENG_CS_WSTAT_WORD ((a - 0x900000) % 0x20000 / 16) else s1)

/-- A write to a BAR0 offset that no page holds. An aligned 64-bit write of a host is split into aligned 32-bit accesses (R499); of another
agent it is accepted where the window's chapter has 64-bit accesses, which is the statistics window (R550). -/
def windowAccess32 (a ag width v : Nat) (s : State) : State :=
  match windowPage s a with
  | none => count (cChip 104) s
  | some p =>
    if width = 4 && a % 4 = 0 then windowWord a ag v s
    else if width = 8 && a % 8 = 0 then
      if a < 0x800000 then statWhole a ag v s
      else if 8 ≤ ag then narrowWindow p a ag s
      else windowWord (a + 4) ag (v / 2 ^ 32) (windowWord a ag (v % 2 ^ 32) s)
    else narrowWindow p a ag s

/-- The view at a page offset (R54). -/
def viewAt (off : Nat) : View :=
  match off / 0x1000 % 4 with | 0 => .normal | 1 => .set | 2 => .clear | _ => .toggle

/-- A write to BAR0 by an agent. -/
def busWrite (a ag width v : Nat) (s : State) : State :=
  if (pageBlk (a / 0x4000)).isSome then pageAccess (a / 0x4000) (a % 0x1000) (viewAt a) ag width v s
  else windowAccess32 a ag width v s

/-! ### The delivery of posted writes (R66) -/

/-- The page's posted values reach their fields. -/
def takePosted (p : Nat) (s : State) : State :=
  let op := (s.page p).posted.foldl (fun (m : SMap Nat) (e : Nat × Nat) => match keyField e.1 with
    | some x => m.put x.1.reset e.1 e.2
    | none => m) s.reg.op
  { s with reg := { s.reg with op := op } }.updPage p (fun h => { h with posted := [] })

/-- PEAT_MRW: the mode register written on each channel named (R363). -/
def modeRegsWrite (s : State) : State :=
  let m := s.rd pPEAT F.PEAT_MRW_CH_MASK
  { s with peat := { s.peat with modeRegs := (List.range 16).foldl (fun (t : SMap Nat) ch =>
      if m.testBit ch then t.insert (256 * ch + s.rd pPEAT F.PEAT_MRW_MR) (s.rd pPEAT F.PEAT_MRW_DATA) else t) s.peat.modeRegs } }

/-- A posted write is delivered, with what the block makes of it. -/
def postedDelivery (p : Nat) (s : State) : State :=
  let hit := fun (off : Nat) => (s.page p).posted.any (fun e => e.1 / 32 = p * 1024 + off / 4)
  if (s.page p).posted.isEmpty then s
  else match pageBlk p with
    | some .time =>
      let was := fun (d : Nat) => s.rdB pTIME F.DOM_CFG_EN d
      timeDelivered hit was (takePosted p (rebasePhase s))
    | some .port =>
      (List.range 3).foldl (fun s q => if hit (0x380 + 0x20 * q) || hit (0x384 + 0x20 * q) then syncQuad (pageRegion p) q s else s) (takePosted p s)
    | some .mate => if hit 0x040 then linkEnabled (takePosted p s) else takePosted p s
    | some .hif =>
      let t := (List.range 2).foldl (fun u m =>
        let u1 := if hit (0x100 + 0x20 * m) then mgmtDelivered m (s.rd pHIF F.HIF_MGMT_CFG_MODE m) u else u
        if hit (0x104 + 0x20 * m) then filterNow (48 + m) u1 else u1) (takePosted p s)
      faultSync t
    | some .ldg => syncHoldup (takePosted p s)
    | some .peat => if hit 0x0C8 then modeRegsWrite (takePosted p s) else takePosted p s
    | _ => takePosted p s

def execPostedDelivery (pg : Nat) (s : State) : Res := .next (postedDelivery pg s)

/-! ### Command completion (R57, R629) -/

/-- REINIT and RELEASE end in READY; the last block of a region kept fenced ends that (R480). -/
def reinitDone (p : Nat) (s : State) : State :=
  let s1 := enterState p .ready (leaveReinit p s)
  let r := pageRegion p
  if 0x010 ≤ p && (s1.pool r).fenced && (regionPages r).all (fun q => !stateIn s1 q [.fenced, .reinit]) then
    s1.updPool r (fun x => { x with fenced := false })
  else s1

/-- A command that takes time ends. -/
def commandDone (p : Nat) (s : State) : State :=
  match (s.page p).cmd with
  | none => s
  | some c =>
    let arg := fun (k : Nat) => (c.ops[k]?).getD 0
    if c.op = 0x01 || c.op = 0x03 then
      if s.inState p .reinit then finishCmd p rDONE (reinitDone p s) else s
    else match pageBlk p, c.op with
      | some .lkp, 0x48 => finishCmd p rDONE (s.updPage p (fun h => { h with substate := 0 }))
      | some .eng, 0x44 =>
        let q := scrubWords (pageRegion p) (badWords s (pageRegion p)) s
        if q.1 then finishCmd p rDONE q.2 else q.2
      | some .buf, 0x44 => finishCmd p rDONE (ownerSwept p (arg 0) s)
      | some .peat, 0x43 => finishCmd p rDONE (turfSweep c.arg (arg 0) (arg 1) s)
      | some .ldg, 0x43 =>
        if s.boot.flashOp.isSome then s
        else
          let q := readRec (arg 0) s
          finishCmd p q.2 q.1
      | some .boot, _ => bootCommandDone c s
      | _, _ => s

end Sys2Proof.Machine
end

