-- ==== Sys2Proof/Machine/Boot.lean ====
section
/-! DEFINITION. Reset and boot (R73, R396, R579 to R596): what a reset keeps, the image and its checks, the records it carries, and the boot
sequence, which one step takes from reset release to its end or to its wait for the host. -/
namespace Sys2Proof.Machine

/-! ### Resets (R582) -/

/-- The part in reset: the OTP, the flash, the pins with what the board shows on them, and the commands yet to come are all that is left. -/
def coldState (s : State) : State :=
  let z := State.reset
  let s1 : State := { z with
    boot := { z.boot with board := s.boot.board, flash := s.boot.flash, otp := s.boot.otp }
    emb := { z.emb with pfLevel := s.emb.pfLevel }
    out := s.out, free := s.free, pending := s.pending }
  ((s1.wr pMATE F.MATE_STATUS_CLAIM_IN (s.rd pMATE F.MATE_STATUS_CLAIM_IN)).wr pMATE F.MATE_STATUS_ARB_GRANT (s.rd pMATE F.MATE_STATUS_ARB_GRANT)).wr
    pLDG F.LDG_HU_STAT_HOLDUP_OK (s.rd pLDG F.LDG_HU_STAT_HOLDUP_OK)

/-- A warm reset keeps the Ember domain with the fields of its page, the ledger's record queue, and VDD_CORE at its last output.
DEDUCED (log entry 107). -/
def warmState (s : State) : State :=
  let c := coldState s
  { c with
    reg := { c.reg with op := s.reg.op.entries.foldl (fun (m : SMap Nat) (e : Nat × Nat) =>
      if keyOnPage pEMB e.1 then m.insert e.1 e.2 else m) c.reg.op }
    emb := s.emb
    ldg := { c.ldg with queue := s.ldg.queue }
    sns := { c.sns with vreq := s.sns.vreq, exponent := s.sns.exponent, hot := s.sns.hot } }

/-- PORST_N low, or VDD_AON below range: a flash operation is cut short (R581). -/
def porst (s : State) : State :=
  coldState (match s.boot.flashOp with
    | some o => flashTear o s
    | none => s)

def execPorstNAssert (s : State) : Res := .next (porst s)

/-! ### The image (R215, R586, R587) -/

/-- A range of bytes that are all 0. -/
def zeros (d : List Byte) (o n : Nat) : Bool := (slice d o n).all (· = 0)

/-- The words `k` to `k + n - 1` of the OTP as one number, the first lowest. -/
def otpNum (s : State) (k n : Nat) : Nat := (List.range n).foldl (fun a i => a + s.boot.otpRead.get 0 (k + i) * 2 ^ (32 * i)) 0

/-- Steps 1 to 5 of R588 on a header: the DETAIL of the first that fails, 0 when none does. DESIGN CHOICE (log entry 30). DEDUCED (log entry 108). -/
def headerCode (s : State) (h : List Byte) : Nat :=
  let sel := beAt h 6 1
  let flags := s.boot.otpRead.get 0 12
  let key := slice h 0x20 97
  if !(beAt h 0 4 = 0x5348494D && beAt h 4 2 = 1 && sel ≤ 1 && beAt h 7 1 ≤ 64 && 1024 ≤ beAt h 12 4 && beAt h 12 4 ≤ 4194304
      && 1 ≤ beAt h 16 1 && beAt h 16 1 ≤ 8 && zeros h 0x11 15 && zeros h 0x81 31 && zeros h 0x360 32 && zeros h 0x3E0 32) then 2
  else if (sel = 0 && flags.testBit 1) || (sel = 1 && !flags.testBit 0) then 14
  else if Config.sha384 key != (if sel = 0 then Config.vendorHash else beBytes 48 (otpNum s 0 12)) then 3
  else if !Config.ecdsaOk key (Config.sha384 (h.take 0x380)) (slice h 0x380 96) then 4
  else if beAt h 7 1 < rollbackOf s.boot.otpRead then 5
  else 0

/-- Field `o`, `n` bytes long, of component entry `i`. -/
def compAt (d : List Byte) (i o n : Nat) : Nat := beAt d (0xA0 + 88 * i + o) n
/-- The stored bytes of a component. -/
def compData (d : List Byte) (i : Nat) : List Byte := slice d (compAt d i 4 4) (compAt d i 8 4)

/-- Step 6 of R588. -/
def imageLayoutOk (d : List Byte) : Bool :=
  let n := beAt d 16 1
  let l := List.range n
  let fits := fun (i : Nat) =>
    let ty := compAt d i 0 1
    let enc := compAt d i 1 1
    1 ≤ ty && ty ≤ 3 && enc ≤ 1 && (ty != 1 || enc = 1) && compAt d i 2 2 = 0 && compAt d i 4 4 % 16 = 0 && 0x400 ≤ compAt d i 4 4
      && compAt d i 4 4 + compAt d i 8 4 ≤ beAt d 12 4 && (enc = 1 || compAt d i 0x18 16 = 0)
      && l.all (fun j => j = i || (compAt d j 0 1 != ty && !overlap (compAt d i 4 4) (compAt d i 8 4) (compAt d j 4 4) (compAt d j 8 4)))
  l.all fits && l.any (fun i => compAt d i 0 1 = 1) && (List.range 8).all (fun i => i < n || zeros d (0xA0 + 88 * i) 88)

/-- A component in the clear, none when its GCM tag fails. -/
def compPlain (s : State) (d : List Byte) (i : Nat) : Option (List Byte) :=
  let e := 0xA0 + 88 * i
  if compAt d i 1 1 = 0 then some (compData d i)
  else Config.gcmOpen (if beAt d 6 1 = 0 then Config.vendorKey else beBytes 32 (otpNum s 13 8)) (slice d (e + 12) 12) (slice d e 12)
    (compData d i) (slice d (e + 0x18) 16)

/-- The component of a type, in the clear; none where the image has no such component. -/
def component (s : State) (d : List Byte) (ty : Nat) : Option (List Byte) :=
  ((List.range (beAt d 16 1)).find? (fun i => compAt d i 0 1 = ty)).bind (compPlain s d)

/-- An entry of DISPATCH or TRAP_VEC (R215). -/
def vectorOk (v : Nat) : Bool := v / 8192 % 4 = 0 && v % 8192 ≤ maxPc

/-- R215 and R216. -/
def kindlingOk (k : List Byte) : Bool :=
  64 ≤ k.length && beAt k 0 4 = 0x4B494E44 && beAt k 4 2 = 1 && zeros k 6 2 && beAt k 12 2 ≤ 4096 && beAt k 14 2 ≤ 512
    && (List.range 20).all (fun i => vectorOk (beAt k (0x10 + 2 * i) 2)) && 32 ≤ beAt k 0x38 2 && beAt k 0x38 2 ≤ 4095 && zeros k 0x3B 5
    && k.length = 64 + 16 * (beAt k 12 2 + beAt k 14 2)

/-- Steps 6 to 9 of R588 on an image whose header has passed. -/
def imageCode (s : State) (d : List Byte) : Nat :=
  let l := List.range (beAt d 16 1)
  if !imageLayoutOk d then 8
  else if !l.all (fun i => Config.sha384 (compData d i) = slice d (0xA0 + 88 * i + 0x28) 48) then 6
  else if !l.all (fun i => (compPlain s d i).isSome) then 7
  else if !(component s d 1).any kindlingOk then 9
  else 0

/-! ### The control store (R216) -/

/-- The control store and settings of the engine block of region `r` from a Kindling image; the words it does not supply are 0. -/
def loadKindling (k : List Byte) (s : State) (r : Nat) : State :=
  let p := pENG r
  let base := beAt k 12 2
  let word := fun (i : Nat) => beAt k (0x40 + 16 * i) 16
  let s1 := (List.range base).foldl (fun s i => csSet r i (word i) s) s
  let s2 := (List.range (beAt k 14 2)).foldl (fun s i => csSet r (4096 + i) (word (base + i)) s) s1
  let s3 := (List.range 20).foldl (fun s i =>
    let v := beAt k (0x10 + 2 * i) 2
    (s.wr p F.ENG_DISPATCH_VALID (v / 32768) i).wr p F.ENG_DISPATCH_PC (v % 8192) i) s2
  ((s3.wr p F.ENG_CTRL_MAX_STEPS (beAt k 0x38 2)).wr p F.ENG_CTRL_EVENT_MASK (beAt k 0x3A 1)).wr p F.ENG_IMAGE_VER_VER (beAt k 8 4)

/-! ### Table defaults (R590) -/

/-- A command of the boot sequencer ends within its own bound. -/
def endCommand (p : Nat) (s : State) : State :=
  let s1 := commandDone p s
  let s2 := after (execBlockStopComplete p s1) s1
  match pageBlk p, (s2.page p).cmd with
  | some .prs, some _ => after (execTreeSwapRootSwitch (pageRegion p) s2) s2
  | some .port, some c => after (execPortDisableDone (12 * pageRegion p + c.arg) s2) s2
  | _, _ => s2

/-- A gate takeover due within 10 ms arrives, and time with it. -/
def reachTakeover (s : State) (p : Nat) : State :=
  match (s.gate p).takeover with
  | some (some t) =>
    if t ≤ s.sNow + 10 * msU then
      let s1 := { s with time := { s.time with local_ := s.time.local_ + (t - s.sNow) } }
      after (execGateTakeover p s1) s1
    else s
  | _ => s

/-- The boundaries of a page whose commit is pending arrive (R63), arbitration rounds among them. -/
def endCommit (p : Nat) (s : State) : State :=
  let s1 := if p = pPEAT then (List.range 16).foldl (fun s ch => after (execPerBankRefresh ch s) s) s else s
  let s2 := commitApply p 1 (commitApply p 0 (s1.updPage p (fun h => { h with rounds := 2 })))
  if isBlk p .port then (List.range 12).foldl (fun s i => reachTakeover s (12 * pageRegion p + i)) s2 else s2

/-- One WRITE of the boot sequencer (R590): what it leaves, and the code of its outcome. -/
def bootWrite (a v : Nat) (s : State) : Nat × State :=
  let owner := if (pageBlk (a / 0x4000)).isSome then some (a / 0x4000) else windowPage s a
  match owner with
  | none => (rRANGE, count (cChip 104) s)
  | some p =>
    let s1 := busWrite a 12 4 v s
    let s2 := if (s1.page p).cmd.isSome then endCommand p s1 else s1
    if (s2.page p).seq = (s.page p).seq then (rTIMEOUT, s2)
    else if (s2.page p).resCode != rDONE then ((s2.page p).resCode, s2)
    else
      let s3 := postedDelivery p s2
      let s4 := if (s3.page p).commitPending then endCommit p s3 else s3
      (if (s4.page p).commitPending then rTIMEOUT else rDONE, s4)

/-- Whether a record may address an offset: never BLK_LOCK, the BOOT page or page 0x004; LP_CONFIG only the PEAT page. DEDUCED (log entry 109). -/
def recordMay (lp : Bool) (a : Nat) : Bool :=
  let p := a / 0x4000
  !((pageBlk p).isSome && a % 0x1000 = 0x020) && p != pBOOT && p != pEMB && (!lp || p = pPEAT)

/-- One record: none for END, else its code and what it leaves. -/
def bootRecord (lp : Bool) (x : Nat) (s : State) : Option (Nat × State) :=
  let op := x / 2 ^ 60
  let a := x / 2 ^ 32 % 2 ^ 26
  let v := x % 2 ^ 32
  if x / 2 ^ 58 % 4 != 0 then some (rRANGE, s)
  else if op = 0xF then none
  else if op = 1 && recordMay lp a then some (bootWrite a v s)
  else if op = 2 && v ≤ 100000 then some (rDONE, { s with time := { s.time with local_ := s.time.local_ + v * usU } })
  else some (rRANGE, s)

/-- The records in order: the index and code of the one that fails, and the state. -/
def bootRecords (lp : Bool) : List Nat → Nat → State → Option (Nat × Nat) × State
  | [], i, s => (some (i, rRANGE), s)
  | x :: t, i, s =>
    match bootRecord lp x s with
    | none => (none, s)
    | some (c, s1) => if c = rDONE then bootRecords lp t (i + 1) s1 else (some (i, c), s1)

/-- The 8 B records of a component. -/
def recordWords (d : List Byte) : List Nat := (List.range (d.length / 8)).map (fun i => beAt d (8 * i) 8)

/-- A component of records applied, where the image has one. -/
def applyRecords (lp : Bool) (d : Option (List Byte)) (s : State) : Option (Nat × Nat) × State :=
  match d with
  | some x => bootRecords lp (recordWords x) 0 s
  | none => (none, s)

/-! ### The boot sequence (R592 to R596) -/

def setBoot (f : Field) (v : Nat) (s : State) : State := s.wr pBOOT f v
def setDetail (n : Nat) (s : State) : State := setBoot F.BOOT_STATUS_DETAIL n s

/-- PHASE 0x0 and 0x1 after a reset: the OTP and the straps are read, every page passes to BOOT with its lock held by agent 12, and the PLLs
lock. A warm reset found `mode` set; a cold one takes the straps. -/
def bootStart (cause : Nat) (mode : Option Nat) (s : State) : State :=
  let b := s.boot.board
  let s1 : State := { s with boot := { s.boot with inReset := false, otpRead := s.boot.otp, flashSize := b.flashSize } }
  let s2 := allPages.foldl (fun (s : State) p => setState p .boot (s.updPage p (fun h => { h with lock := some ⟨12, 1000000 * usU⟩ }))) s1
  let w := s2.boot.otpRead.get 0 12
  let s3 := (List.range 12).foldl (fun s k => s.wr pBOOT F.BOOT_CUST_HASH_HASH (s.boot.otpRead.get 0 k) k) s2
  let s4 := [(F.BOOT_OTP_CUST_VALID, b2n (w.testBit 0)), (F.BOOT_OTP_VENDOR_DIS, b2n (w.testBit 1)), (F.BOOT_OTP_BSCAN_OPEN, b2n (w.testBit 2)),
      (F.BOOT_OTP_LOCK, b2n (w.testBit 3)), (F.BOOT_JTAG_LOCKED, b2n (w.testBit 3)), (F.BOOT_ROLLBACK_OTP_RB, rollbackOf s2.boot.otpRead),
      (F.BOOT_STRAP_MATE_ID, b2n b.mateId), (F.BOOT_STRAP_BOOT_MODE, b.bootMode),
      (F.BOOT_STATUS_MODE, mode.getD b.bootMode), (F.BOOT_STATUS_LAST_RESET, cause), (F.BOOT_STATUS_SLOT, 3)].foldl
    (fun s (e : Field × Nat) => setBoot e.1 e.2 s) s3
  let s5 := (s4.wr pTIME F.TIME_SEL_CLK_25M (b2n (b.clk = 1))).setF pTIME F.TIME_STATUS_PLL_LOCK
  let s6 := if b.clk < 2 then s5
    else queueRecord ⟨4, 0, leBytes 4 0x04 ++ leBytes 4 0, false⟩
      (withLine 322 (fun s => s.setF pTIME F.TIME_EVENT_CLK_FAIL) { s5 with time := { s5.time with onSerdes := true } })
  setBoot F.BOOT_STATUS_PHASE 2 (newNonce (syncScopes s6))

/-- Boot ends: every lock is released and agent 12 reset, NOW starts at 0 (R158), and the time it took is shown. -/
def bootEnd (safe : Bool) (s : State) : State :=
  let s1 := allPages.foldl (fun (s : State) p => s.updPage p (fun h => { h with lock := none })) s
  let f := nextFree ((agentReset 12 s1).wr (pLKP 0) F.LKP_AGE_NOW_NOW 0)
  let t := Config.bootTime f.1
  let s2 := { f.2 with time := { f.2.time with local_ := f.2.time.local_ + t.1 * 1024 } }
  [(F.BOOT_STATUS_PHASE, 8), (F.BOOT_STATUS_DONE, 1), (F.BOOT_STATUS_SAFE, b2n safe), (F.BOOT_STATUS_BOOT_MS, min 4095 t.2)].foldl
    (fun s (e : Field × Nat) => setBoot e.1 e.2 s) s2

/-- Every block enters READY. -/
def allReady (s : State) : State := allPages.foldl (fun s p => setState p .ready s) s

/-- R252: the pools of a region as boot builds them. -/
def buildPools (s : State) : State :=
  (List.range 4).foldl (fun s r => syncFree r (s.updPool r (fun _ => Pool.fresh []))) s

/-- Safe boot, and a boot that found no image (R596). DEDUCED (log entry 110). -/
def bootSafe (s : State) : State := bootEnd true (buildPools (allReady s))

/-- PHASE 0x5 once LP_CONFIG is applied: the channels that come up, the turf table, the free ring and the window; with a channel that fails
the store stays out of service. DEDUCED (log entry 111). -/
def bootPeat (s : State) : State :=
  let bad := s.boot.board.lpFail % 65536
  let s1 := (List.range 16).foldl (fun s c => s.wr pPEAT F.PEAT_CH_STAT_UP (b2n (!bad.testBit c)) c) (s.wr pPEAT F.PEAT_STATUS_CH_UP (65535 - bad))
  let s2 := if bad = 0 then s1
    else setDetail 11 ((List.range 16).foldl (fun (s : State) k => s.wr pPEAT F.PEAT_TIM_VALUE 0 k)
      ({ s1 with peat := { s1.peat with zeroing := false } }.wr pPEAT F.PEAT_CTRL_WIN_GIB 0))
  windowReady (rebuildRing s2)

/-- The model record restored at boot (R430): the newest valid record of kind 5. -/
def bootModel (s : State) : State :=
  match (List.range (slotCount s)).foldl (fun (b : Option (List Byte)) k =>
      let d := recAt s k
      if !(validRec d && byteAt d 5 = 5) then b
      else match b with
        | some d0 => if recSeq d0 < recSeq d then some d else b
        | none => some d) none with
  | none => s
  | some d =>
    let w := fun (i : Nat) => ofLe (slice d (0x20 + 4 * i) 4)
    let m : Model := { c0 := toSigned 32 (w 0), c1 := toSigned 32 (w 1), c2 := toSigned 32 (w 2), a := toSigned 32 (w 3)
                       theta0 := toSigned 16 (w 4), t0 := w 6 % 2 ^ 16 * 2 ^ 32 + w 5, steps := 3600 * (w 4 / 2 ^ 16), refSet := true }
    syncTime ({ s with time := { s.time with model := m } }.setF pTIME F.BANK_STATUS_RESTORED)

/-- PHASE 0x7: CS_SCRUB on every region, the ledger scan and the model. DESIGN CHOICE (log entry 31). -/
def bootLast (s : State) : State :=
  let s1 := (List.range 4).foldl (fun s r => commandDone (pENG r) (after (execCsScrub (pENG r) 12 0 s) s)) s
  if s1.rd pLDG F.LDG_PART_SECTORS = 0 then s1 else bootModel (ledgerScan s1)

/-- PHASE 0x4 to 0x8 with an accepted image of a slot: none when a record fails, with the records of R591. -/
def bootImage (slot : Nat) (d : List Byte) (s : State) : Option (Nat × Nat) × State :=
  let k := (component s d 1).getD []
  let s1 : State := { s with boot := { s.boot with pubKey := slice d 0x20 97 } }
  let s2 := [(F.BOOT_STATUS_CODE, rDONE), (F.BOOT_STATUS_SLOT, slot), (F.BOOT_IMAGE_VER_VER, beAt d 8 4), (F.BOOT_ROLLBACK_IMG_RB, beAt d 7 1)].foldl
    (fun s (e : Field × Nat) => setBoot e.1 e.2 s) s1
  let s3 := buildPools (allReady ((List.range 4).foldl (loadKindling k) s2))
  let a := applyRecords true (component s d 2) s3
  if a.1.isSome then a
  else
    let b := applyRecords false (component s d 3) (bootPeat a.2)
    if b.1.isSome then b else (none, bootEnd false (bootLast (windowReady b.2)))

/-- A record has failed: a warm reset that keeps its index and code, and does not try the slot again (R591). -/
def bootRetry (slot : Nat) (f : Nat × Nat) (s : State) : State :=
  let mode := s.rd pBOOT F.BOOT_STATUS_MODE
  let s1 := bootStart 2 (some mode) { warmState s with boot := { (warmState s).boot with skip := slot :: s.boot.skip } }
  setDetail 10 ((s1.wr pBOOT F.BOOT_FAIL_REC_CODE f.2).wr pBOOT F.BOOT_FAIL_REC_INDEX f.1)

/-- A rejected image. -/
def reject (detail : Nat) (s : State) : State := setDetail detail (setBoot F.BOOT_STATUS_CODE rAUTH s)

/-- No flash slot is accepted: boot mode (1, 1) goes on with the host, the others end safe. -/
def noImage (s : State) : State :=
  if s.rd pBOOT F.BOOT_STATUS_MODE = 3 then setBoot F.BOOT_STATUS_PHASE 9 s else bootSafe s

/-- The directory's slot addresses (R586), none when it is not valid. -/
def directory (s : State) : Option (Nat × Nat) :=
  let d := flashRead s 0 16
  let ok := fun (a : Nat) => a % 4096 = 0
  if beAt d 0 4 = 0x53484452 && beAt d 12 4 = crc32 (d.take 12) && ok (beAt d 4 4) && ok (beAt d 8 4) then some (beAt d 4 4, beAt d 8 4) else none

/-- The headers of the slots not excluded, A first: each that passes is a candidate, as (slot, address, IMAGE_VER). -/
def candidates (l : List (Nat × Nat)) (s : State) : List (Nat × Nat × Nat) × State :=
  l.foldl (fun q (e : Nat × Nat) =>
    if e.2 = 0 || q.2.boot.skip.contains e.1 then q
    else
      let h := flashRead q.2 e.2 1024
      let c := headerCode q.2 h
      if c = 0 then (q.1 ++ [(e.1, e.2, beAt h 8 4)], q.2) else (q.1, reject c q.2)) ([], s)

/-- The candidates in the order of R593. -/
def tryOrder (l : List (Nat × Nat × Nat)) : List (Nat × Nat × Nat) :=
  match l with
  | [a, b] => if a.2.2 < b.2.2 then [b, a] else [a, b]
  | _ => l

/-- The first candidate that passes the later checks, with its bytes. -/
def pickImage : List (Nat × Nat × Nat) → State → Option (Nat × List Byte) × State
  | [], s => (none, s)
  | e :: t, s =>
    let d := flashRead s e.2.1 (beAt (flashRead s e.2.1 1024) 12 4)
    let c := imageCode s d
    if c = 0 then (some (e.1, d), s) else pickImage t (reject c s)

/-- Flash boot (R593): at most one attempt more than there are slots. -/
def bootFlash : Nat → State → State
  | 0, s => noImage s
  | n + 1, s =>
    if s.boot.board.flashDead then noImage (setDetail 12 s)
    else match directory s with
      | none => noImage (setDetail 1 s)
      | some (a, b) =>
        let q := candidates [(0, a), (1, b)] s
        let x := pickImage (tryOrder q.1) q.2
        match x.1 with
        | none => noImage x.2
        | some (slot, d) =>
          let y := bootImage slot d x.2
          match y.1 with
          | none => y.2
          | some f => bootFlash n (bootRetry slot f y.2)

/-- PHASE 0x2 on, by the boot mode. -/
def bootOn (s : State) : State :=
  match s.rd pBOOT F.BOOT_STATUS_MODE with
  | 1 => setBoot F.BOOT_STATUS_PHASE 9 s
  | 2 => bootSafe s
  | _ => bootFlash 3 s

/-- R580: cold reset. -/
def coldReset (b : Board) (cells : List (Nat × Nat)) (s : State) : State :=
  let s1 := porst s
  let s2 := cells.foldl (fun (s : State) (c : Nat × Nat) => setFlash c.1 [BitVec.ofNat 8 c.2] s) s1
  bootOn (bootStart 0 none { s2 with boot := { s2.boot with board := b } })

def execColdReset (board : Board) (cells : List (Nat × Nat)) (s : State) : Res := .next (coldReset board cells s)

/-- R583: the warm reset asked for begins once no flash operation runs. -/
def settleReset (s : State) : State :=
  match s.boot.warm with
  | some arg =>
    if s.boot.flashOp.isSome then s
    else bootOn (bootStart 1 (match arg with | 1 => some 2 | 2 => some 1 | _ => none) (warmState s))
  | none => s

def execChipReset (pg ag arg : Nat) (board : Board) (s : State) : Res :=
  .next (settleReset (chipReset pg ag arg { s with boot := { s.boot with board := board } }))

/-! ### Host-load (R594) -/

/-- The image fetched from host memory, none for a DMA error. -/
def hostImage (d : Option (List Byte)) (s : State) : State :=
  let len := s.hif.imgLen
  if s.rd pBOOT F.BOOT_STATUS_PHASE != 9 || s.rd pHIF F.HIF_LINK_LINK_MODE = 0 || !s.hif.busMaster.get false 0 || len < 1024 || 4194304 < len then s
  else match d with
    | none => setDetail 13 s
    | some x =>
      let y := x.take len
      let h := headerCode s (y.take 1024)
      let c := if h = 0 then imageCode s y else h
      if c != 0 then reject c s
      else
        let q := bootImage 2 y s
        match q.1 with
        | none => q.2
        | some f => bootOn (bootRetry 2 f q.2)

def execImageLoadGo (image : Option (List Byte)) (s : State) : Res := .next (hostImage image s)

/-! ### Steps that may let a warm reset begin -/

/-- R56. DEDUCED (log entry 114). -/
def execRegisterWrite (pg off : Nat) (view : View) (ag width v : Nat) (s : State) : Res :=
  .next (if s.boot.inReset then s else settleReset (pageAccess pg off view ag width v s))

/-- R628. -/
def execWindowWrite (addr ag width v : Nat) (s : State) : Res :=
  .next (if s.boot.inReset then s else settleReset (busWrite addr ag width v s))

def execCommandCompletion (pg : Nat) (s : State) : Res := .next (settleReset (commandDone pg s))

/-- R564, R600. -/
def execFlashOperationComplete (s : State) : Res := .next (settleReset (flashDone s))

/-- R566: an operation of the ledger that did not end in time. -/
def flashTimeout (s : State) : State :=
  match s.boot.flashOp with
  | some o => if o.ldg then flashFree (ledgerFail (setFlashOp none (flashTear o s))) else s
  | none => s

def execFlashTimeout (s : State) : Res := .next (settleReset (flashTimeout s))

end Sys2Proof.Machine
end

