-- ==== Sys2Proof/Machine/Dispatch.lean ====
section
/-! DEFINITION. The dispatch: one arm per command, each one direct call of the command's own meaning. -/
namespace Sys2Proof.Machine

/-- The effect of a command on everything but the queue. DESIGN CHOICE (log entry 1). DESIGN CHOICE (log entry 120). -/
def exec (i : Instr) (s : State) : Host.Outcome State Fault Refusal :=
  match i with
  | .registerWrite pg off view ag width v => Sys2Proof.Machine.execRegisterWrite pg off view ag width v s
  | .reservedPageWrite pg ag => Sys2Proof.Machine.execReservedPageWrite pg ag s
  | .windowWrite addr ag width v => Sys2Proof.Machine.execWindowWrite addr ag width v s
  | .cmdNop pg ag arg => Sys2Proof.Machine.execCmdNop pg ag arg s
  | .reinit pg ag arg => Sys2Proof.Machine.execReinit pg ag arg s
  | .fence pg ag arg => Sys2Proof.Machine.execFence pg ag arg s
  | .release pg ag arg => Sys2Proof.Machine.execRelease pg ag arg s
  | .scrub pg ag arg upsets => Sys2Proof.Machine.execScrub pg ag arg upsets s
  | .discard pg ag arg => Sys2Proof.Machine.execDiscard pg ag arg s
  | .blockRun pg ag arg => Sys2Proof.Machine.execBlockRun pg ag arg s
  | .blockStop pg ag arg => Sys2Proof.Machine.execBlockStop pg ag arg s
  | .blockStopComplete pg => Sys2Proof.Machine.execBlockStopComplete pg s
  | .commitGo pg ag v => Sys2Proof.Machine.execCommitGo pg ag v s
  | .commitApply pg kind => Sys2Proof.Machine.execCommitApply pg kind s
  | .lockAcquire pg ag lease => Sys2Proof.Machine.execLockAcquire pg ag lease s
  | .lockRelease pg ag => Sys2Proof.Machine.execLockRelease pg ag s
  | .leaseExpiry pg pair => Sys2Proof.Machine.execLeaseExpiry pg pair s
  | .postedDelivery pg => Sys2Proof.Machine.execPostedDelivery pg s
  | .scrubPass upsets => Sys2Proof.Machine.execScrubPass upsets s
  | .handshakeTimeout pg between fails => Sys2Proof.Machine.execHandshakeTimeout pg between fails s
  | .fenceSweep r => Sys2Proof.Machine.execFenceSweep r s
  | .speedSample r margin => Sys2Proof.Machine.execSpeedSample r margin s
  | .avsEval => Sys2Proof.Machine.execAvsEval s
  | .avsEnable ag v mode vout acks => Sys2Proof.Machine.execAvsEnable ag v mode vout acks s
  | .pmbusNack => Sys2Proof.Machine.execPmbusNack s
  | .minRearm ag v => Sys2Proof.Machine.execMinRearm ag v s
  | .quadModeWrite r q view ag v => Sys2Proof.Machine.execQuadModeWrite r q view ag v s
  | .quadLaneWrite r q view ag v => Sys2Proof.Machine.execQuadLaneWrite r q view ag v s
  | .rawLinkFail p cause => Sys2Proof.Machine.execRawLinkFail p cause s
  | .rawLinkGood p => Sys2Proof.Machine.execRawLinkGood p s
  | .downFilterExpiry p => Sys2Proof.Machine.execDownFilterExpiry p s
  | .upFilterExpiry p => Sys2Proof.Machine.execUpFilterExpiry p s
  | .trainingComplete p good => Sys2Proof.Machine.execTrainingComplete p good s
  | .anFail p => Sys2Proof.Machine.execAnFail p s
  | .linkFilterWrite p view ag v => Sys2Proof.Machine.execLinkFilterWrite p view ag v s
  | .frameReceive p bytes complete frags broken stopped fec => Sys2Proof.Machine.execFrameReceive p bytes complete frags broken stopped fec s
  | .verifyTimeout p => Sys2Proof.Machine.execVerifyTimeout p s
  | .verifyResponseRx p => Sys2Proof.Machine.execVerifyResponseRx p s
  | .verifyMpacketRx p => Sys2Proof.Machine.execVerifyMpacketRx p s
  | .rclkCtrlWrite k view ag v => Sys2Proof.Machine.execRclkCtrlWrite k view ag v s
  | .portEnable pg ag arg => Sys2Proof.Machine.execPortEnable pg ag arg s
  | .portDisable pg ag arg => Sys2Proof.Machine.execPortDisable pg ag arg s
  | .portDisableDone p => Sys2Proof.Machine.execPortDisableDone p s
  | .portRetrain pg ag arg => Sys2Proof.Machine.execPortRetrain pg ag arg s
  | .parseFrame f => Sys2Proof.Machine.execParseFrame f s
  | .tailArrival p rest frags broken => Sys2Proof.Machine.execTailArrival p rest frags broken s
  | .nodeWrite pg ag arg => Sys2Proof.Machine.execNodeWrite pg ag arg s
  | .nodeRead pg ag arg => Sys2Proof.Machine.execNodeRead pg ag arg s
  | .treeWalkComplete e c n upsets => Sys2Proof.Machine.execTreeWalkComplete e c n upsets s
  | .treeSwap pg ag arg => Sys2Proof.Machine.execTreeSwap pg ag arg s
  | .treeSwapRootSwitch r => Sys2Proof.Machine.execTreeSwapRootSwitch r s
  | .emLookupComplete e c n upsets => Sys2Proof.Machine.execEmLookupComplete e c n upsets s
  | .lpmLookupComplete e c n upsets => Sys2Proof.Machine.execLpmLookupComplete e c n upsets s
  | .sequencerInsert upsets => Sys2Proof.Machine.execSequencerInsert upsets s
  | .sequencerDelete upsets => Sys2Proof.Machine.execSequencerDelete upsets s
  | .tick => Sys2Proof.Machine.execTick s
  | .agerVisit later upsets => Sys2Proof.Machine.execAgerVisit later upsets s
  | .emInsert pg ag arg upsets => Sys2Proof.Machine.execEmInsert pg ag arg upsets s
  | .emDelete pg ag arg upsets => Sys2Proof.Machine.execEmDelete pg ag arg upsets s
  | .emSearch pg ag arg upsets => Sys2Proof.Machine.execEmSearch pg ag arg upsets s
  | .emRead pg ag arg upsets => Sys2Proof.Machine.execEmRead pg ag arg upsets s
  | .lpmWrite pg ag arg => Sys2Proof.Machine.execLpmWrite pg ag arg s
  | .lpmRead pg ag arg upsets => Sys2Proof.Machine.execLpmRead pg ag arg upsets s
  | .tableClear pg ag arg => Sys2Proof.Machine.execTableClear pg ag arg s
  | .dispatch r => Sys2Proof.Machine.execDispatch r s
  | .eventRoutineDispatch r => Sys2Proof.Machine.execEventRoutineDispatch r s
  | .opNop e c => Sys2Proof.Machine.execOpNop e c s
  | .opRetire e c => Sys2Proof.Machine.execOpRetire e c s
  | .opDropr e c => Sys2Proof.Machine.execOpDropr e c s
  | .opTrapSlow e c => Sys2Proof.Machine.execOpTrapSlow e c s
  | .opBrk e c => Sys2Proof.Machine.execOpBrk e c s
  | .opCall e c => Sys2Proof.Machine.execOpCall e c s
  | .opRetn e c => Sys2Proof.Machine.execOpRetn e c s
  | .opJind e c => Sys2Proof.Machine.execOpJind e c s
  | .opMov e c => Sys2Proof.Machine.execOpMov e c s
  | .opAdd e c => Sys2Proof.Machine.execOpAdd e c s
  | .opSub e c => Sys2Proof.Machine.execOpSub e c s
  | .opAnd e c => Sys2Proof.Machine.execOpAnd e c s
  | .opOr e c => Sys2Proof.Machine.execOpOr e c s
  | .opXor e c => Sys2Proof.Machine.execOpXor e c s
  | .opAndn e c => Sys2Proof.Machine.execOpAndn e c s
  | .opShl e c => Sys2Proof.Machine.execOpShl e c s
  | .opShr e c => Sys2Proof.Machine.execOpShr e c s
  | .opSar e c => Sys2Proof.Machine.execOpSar e c s
  | .opRotl e c => Sys2Proof.Machine.execOpRotl e c s
  | .opMin e c => Sys2Proof.Machine.execOpMin e c s
  | .opMax e c => Sys2Proof.Machine.execOpMax e c s
  | .opCmp e c => Sys2Proof.Machine.execOpCmp e c s
  | .opTst e c => Sys2Proof.Machine.execOpTst e c s
  | .opMul e c => Sys2Proof.Machine.execOpMul e c s
  | .opExt e c => Sys2Proof.Machine.execOpExt e c s
  | .opIns e c => Sys2Proof.Machine.execOpIns e c s
  | .opBswap e c => Sys2Proof.Machine.execOpBswap e c s
  | .opClz e c => Sys2Proof.Machine.execOpClz e c s
  | .opPopc e c => Sys2Proof.Machine.execOpPopc e c s
  | .opHash e c => Sys2Proof.Machine.execOpHash e c s
  | .opHrd e c => Sys2Proof.Machine.execOpHrd e c s
  | .opHwr e c => Sys2Proof.Machine.execOpHwr e c s
  | .opHins e c => Sys2Proof.Machine.execOpHins e c s
  | .opHdel e c => Sys2Proof.Machine.execOpHdel e c s
  | .opHfix e c => Sys2Proof.Machine.execOpHfix e c s
  | .opKclr e c => Sys2Proof.Machine.execOpKclr e c s
  | .opKput e c => Sys2Proof.Machine.execOpKput e c s
  | .opKhdr e c => Sys2Proof.Machine.execOpKhdr e c s
  | .opLem e c => Sys2Proof.Machine.execOpLem e c s
  | .opLpm e c => Sys2Proof.Machine.execOpLpm e c s
  | .opLtree e c => Sys2Proof.Machine.execOpLtree e c s
  | .opWait e c => Sys2Proof.Machine.execOpWait e c s
  | .opWaitm e c => Sys2Proof.Machine.execOpWaitm e c s
  | .opTrel e c => Sys2Proof.Machine.execOpTrel e c s
  | .opSetv e c => Sys2Proof.Machine.execOpSetv e c s
  | .opCnt e c => Sys2Proof.Machine.execOpCnt e c s
  | .opSld e c => Sys2Proof.Machine.execOpSld e c s
  | .opSst e c => Sys2Proof.Machine.execOpSst e c s
  | .opSadd e c => Sys2Proof.Machine.execOpSadd e c s
  | .routineLimit e c => Sys2Proof.Machine.execRoutineLimit e c s
  | .machineCheck e c => Sys2Proof.Machine.execMachineCheck e c s
  | .pcntOverflow e n => Sys2Proof.Machine.execPcntOverflow e n s
  | .overflowCapture e c => Sys2Proof.Machine.execOverflowCapture e c s
  | .cntSnap pg ag arg => Sys2Proof.Machine.execCntSnap pg ag arg s
  | .engCntClear pg ag arg => Sys2Proof.Machine.execEngCntClear pg ag arg s
  | .csScrub pg ag arg => Sys2Proof.Machine.execCsScrub pg ag arg s
  | .dbgResume pg ag arg => Sys2Proof.Machine.execDbgResume pg ag arg s
  | .csWindowWrite r w q ag v => Sys2Proof.Machine.execCsWindowWrite r w q ag v s
  | .injParWrite r view ag v => Sys2Proof.Machine.execInjParWrite r view ag v s
  | .samplePop r => Sys2Proof.Machine.execSamplePop r s
  | .dbgWordWrite r view ag v => Sys2Proof.Machine.execDbgWordWrite r view ag v s
  | .scratchLoRead r k ag => Sys2Proof.Machine.execScratchLoRead r k ag s
  | .scratchLoWrite r k view ag v => Sys2Proof.Machine.execScratchLoWrite r k view ag v s
  | .scratchHiWrite r k view ag v => Sys2Proof.Machine.execScratchHiWrite r k view ag v s
  | .arbitrationRound a reqs err => Sys2Proof.Machine.execArbitrationRound a reqs err s
  | .refcntInc r ptr err => Sys2Proof.Machine.execRefcntInc r ptr err s
  | .refcntDec r ptr err => Sys2Proof.Machine.execRefcntDec r ptr err s
  | .cordFreeWalk r ptr tag errs => Sys2Proof.Machine.execCordFreeWalk r ptr tag errs s
  | .linkRead pg ag arg err => Sys2Proof.Machine.execLinkRead pg ag arg err s
  | .cordFree pg ag arg errs => Sys2Proof.Machine.execCordFree pg ag arg errs s
  | .ownerSweep pg ag arg => Sys2Proof.Machine.execOwnerSweep pg ag arg s
  | .admission f => Sys2Proof.Machine.execAdmission f s
  | .queueEntryWrite q word ag v => Sys2Proof.Machine.execQueueEntryWrite q word ag v s
  | .holdExpiry q => Sys2Proof.Machine.execHoldExpiry q s
  | .qFlush pg ag arg err => Sys2Proof.Machine.execQFlush pg ag arg err s
  | .hamperWrite pg ag arg => Sys2Proof.Machine.execHamperWrite pg ag arg s
  | .hamperRead pg ag arg => Sys2Proof.Machine.execHamperRead pg ag arg s
  | .capReset pg ag arg => Sys2Proof.Machine.execCapReset pg ag arg s
  | .captureRecordWrite ecc err => Sys2Proof.Machine.execCaptureRecordWrite ecc err s
  | .queueSample r => Sys2Proof.Machine.execQueueSample r s
  | .transmitStart p err => Sys2Proof.Machine.execTransmitStart p err s
  | .transmitEnd p => Sys2Proof.Machine.execTransmitEnd p s
  | .shaperUpdate j => Sys2Proof.Machine.execShaperUpdate j s
  | .starvationFlag a k => Sys2Proof.Machine.execStarvationFlag a k s
  | .shaperSelect r view ag v => Sys2Proof.Machine.execShaperSelect r view ag v s
  | .polWrite pg ag arg => Sys2Proof.Machine.execPolWrite pg ag arg s
  | .polRead pg ag arg => Sys2Proof.Machine.execPolRead pg ag arg s
  | .sfWrite pg ag arg => Sys2Proof.Machine.execSfWrite pg ag arg s
  | .sfRead pg ag arg => Sys2Proof.Machine.execSfRead pg ag arg s
  | .sfUnblock pg ag arg => Sys2Proof.Machine.execSfUnblock pg ag arg s
  | .gateEntryChange p => Sys2Proof.Machine.execGateEntryChange p s
  | .gateTakeover p => Sys2Proof.Machine.execGateTakeover p s
  | .gateListWrite p b k ag v => Sys2Proof.Machine.execGateListWrite p b k ag v s
  | .spillWrite q ecc err => Sys2Proof.Machine.execSpillWrite q ecc err s
  | .drainRecord r err => Sys2Proof.Machine.execDrainRecord r err s
  | .perBankRefresh ch => Sys2Proof.Machine.execPerBankRefresh ch s
  | .refreshRatePoll ch rate => Sys2Proof.Machine.execRefreshRatePoll ch rate s
  | .activateTableClear ch bank => Sys2Proof.Machine.execActivateTableClear ch bank s
  | .neighbourRefresh ch bank row => Sys2Proof.Machine.execNeighbourRefresh ch bank row s
  | .patrolRead err => Sys2Proof.Machine.execPatrolRead err s
  | .winGibWrite view ag v => Sys2Proof.Machine.execWinGibWrite view ag v s
  | .windowReady => Sys2Proof.Machine.execWindowReady s
  | .turfRead pg ag arg => Sys2Proof.Machine.execTurfRead pg ag arg s
  | .turfSweep pg ag arg => Sys2Proof.Machine.execTurfSweep pg ag arg s
  | .qPeatRead pg ag arg => Sys2Proof.Machine.execQPeatRead pg ag arg s
  | .windowAccess off data late err => Sys2Proof.Machine.execWindowAccess off data late err s
  | .twinArrival f => Sys2Proof.Machine.execTwinArrival f s
  | .recoveryHoldExpiry k => Sys2Proof.Machine.execRecoveryHoldExpiry k s
  | .recoveryResetTimeout k => Sys2Proof.Machine.execRecoveryResetTimeout k s
  | .latentCheck k => Sys2Proof.Machine.execLatentCheck k s
  | .recoveryEntryWrite k word ag v => Sys2Proof.Machine.execRecoveryEntryWrite k word ag v s
  | .idEntryWrite h word ag v => Sys2Proof.Machine.execIdEntryWrite h word ag v s
  | .syncSample d p msg l => Sys2Proof.Machine.execSyncSample d p msg l s
  | .followUpRx d p msg => Sys2Proof.Machine.execFollowUpRx d p msg s
  | .followUpTimeout d seqId => Sys2Proof.Machine.execFollowUpTimeout d seqId s
  | .hostOffsetWrite d view ag v => Sys2Proof.Machine.execHostOffsetWrite d view ag v s
  | .domainLossTimeout d => Sys2Proof.Machine.execDomainLossTimeout d s
  | .revertTimer => Sys2Proof.Machine.execRevertTimer s
  | .slewEnd => Sys2Proof.Machine.execSlewEnd s
  | .timeClkLoss => Sys2Proof.Machine.execTimeClkLoss s
  | .tsCalDone p => Sys2Proof.Machine.execTsCalDone p s
  | .timeSet pg ag arg => Sys2Proof.Machine.execTimeSet pg ag arg s
  | .timeAdj pg ag arg => Sys2Proof.Machine.execTimeAdj pg ag arg s
  | .select pg ag arg => Sys2Proof.Machine.execSelect pg ag arg s
  | .timeSnap pg ag arg => Sys2Proof.Machine.execTimeSnap pg ag arg s
  | .servoReset pg ag arg => Sys2Proof.Machine.execServoReset pg ag arg s
  | .domRateWrite d view ag v => Sys2Proof.Machine.execDomRateWrite d view ag v s
  | .domainEnable d view ag v => Sys2Proof.Machine.execDomainEnable d view ag v s
  | .modelEvaluate theta => Sys2Proof.Machine.execModelEvaluate theta s
  | .modelLearn theta => Sys2Proof.Machine.execModelLearn theta s
  | .tempStaleTimeout => Sys2Proof.Machine.execTempStaleTimeout s
  | .bankExpiry => Sys2Proof.Machine.execBankExpiry s
  | .modelSnap pg ag arg => Sys2Proof.Machine.execModelSnap pg ag arg s
  | .modelLoad pg ag arg => Sys2Proof.Machine.execModelLoad pg ag arg s
  | .modelClear pg ag arg => Sys2Proof.Machine.execModelClear pg ag arg s
  | .modelSave pg ag arg => Sys2Proof.Machine.execModelSave pg ag arg s
  | .ppsInEdge rise l => Sys2Proof.Machine.execPpsInEdge rise l s
  | .ppsOutEdge rise => Sys2Proof.Machine.execPpsOutEdge rise s
  | .toutEdge n rise => Sys2Proof.Machine.execToutEdge n rise s
  | .tinEdge k rise l => Sys2Proof.Machine.execTinEdge k rise l s
  | .tinPop k => Sys2Proof.Machine.execTinPop k s
  | .cycleTriggerFire n => Sys2Proof.Machine.execCycleTriggerFire n s
  | .trigWrite n off view ag v => Sys2Proof.Machine.execTrigWrite n off view ag v s
  | .mateModeWrite view ag v => Sys2Proof.Machine.execMateModeWrite view ag v s
  | .heartbeatSend => Sys2Proof.Machine.execHeartbeatSend s
  | .heartbeatRx path word crc => Sys2Proof.Machine.execHeartbeatRx path word crc s
  | .pathLoss path => Sys2Proof.Machine.execPathLoss path s
  | .claim pg ag arg => Sys2Proof.Machine.execClaim pg ag arg s
  | .claimAssert => Sys2Proof.Machine.execClaimAssert s
  | .claimGuardExpiry => Sys2Proof.Machine.execClaimGuardExpiry s
  | .claimInChange level => Sys2Proof.Machine.execClaimInChange level s
  | .claimBlockedTimeout => Sys2Proof.Machine.execClaimBlockedTimeout s
  | .mateRelease pg ag arg => Sys2Proof.Machine.execMateRelease pg ag arg s
  | .rejoin pg ag arg => Sys2Proof.Machine.execRejoin pg ag arg s
  | .resync pg ag arg => Sys2Proof.Machine.execResync pg ag arg s
  | .mateLinkUp => Sys2Proof.Machine.execMateLinkUp s
  | .arbGrantChange level => Sys2Proof.Machine.execArbGrantChange level s
  | .failHeartbeatEnd => Sys2Proof.Machine.execFailHeartbeatEnd s
  | .mateDataFrameRx tc q data crc => Sys2Proof.Machine.execMateDataFrameRx tc q data crc s
  | .mateMirrorRecordRx rec_ crc => Sys2Proof.Machine.execMateMirrorRecordRx rec_ crc s
  | .mateLearnEventRx rec_ crc => Sys2Proof.Machine.execMateLearnEventRx rec_ crc s
  | .plockFrameRx data crc => Sys2Proof.Machine.execPlockFrameRx data crc s
  | .gateCommitRx data crc => Sys2Proof.Machine.execGateCommitRx data crc s
  | .servoSnapshotRx data crc => Sys2Proof.Machine.execServoSnapshotRx data crc s
  | .agerTouchRx data crc => Sys2Proof.Machine.execAgerTouchRx data crc s
  | .snapshotSend => Sys2Proof.Machine.execSnapshotSend s
  | .agerTouchSend => Sys2Proof.Machine.execAgerTouchSend s
  | .plockAcquire view ag v => Sys2Proof.Machine.execPlockAcquire view ag v s
  | .plockRelease view ag v => Sys2Proof.Machine.execPlockRelease view ag v s
  | .plockTimeout => Sys2Proof.Machine.execPlockTimeout s
  | .mateFwdWrite k half view ag v => Sys2Proof.Machine.execMateFwdWrite k half view ag v s
  | .mmioTimeout read => Sys2Proof.Machine.execMmioTimeout read s
  | .ringDoorbell n ag v => Sys2Proof.Machine.execRingDoorbell n ag v s
  | .rxRingDelivery => Sys2Proof.Machine.execRxRingDelivery s
  | .rxSlotWrite n addr len ecc => Sys2Proof.Machine.execRxSlotWrite n addr len ecc s
  | .txDescriptorFetch n len dest ctrl tc rsv data => Sys2Proof.Machine.execTxDescriptorFetch n len dest ctrl tc rsv data s
  | .txCompletion n => Sys2Proof.Machine.execTxCompletion n s
  | .recordRingWrite => Sys2Proof.Machine.execRecordRingWrite s
  | .ringEntryWrite n k ag v => Sys2Proof.Machine.execRingEntryWrite n k ag v s
  | .dmaError n kind late => Sys2Proof.Machine.execDmaError n kind late s
  | .hostSnoop n idx => Sys2Proof.Machine.execHostSnoop n idx s
  | .lineWriteback n idx => Sys2Proof.Machine.execLineWriteback n idx s
  | .cacheFlush pg ag arg => Sys2Proof.Machine.execCacheFlush pg ag arg s
  | .hdmCommit size => Sys2Proof.Machine.execHdmCommit size s
  | .timeWindowRead k => Sys2Proof.Machine.execTimeWindowRead k s
  | .bar2TimeRead f off len => Sys2Proof.Machine.execBar2TimeRead f off len s
  | .timeWindowWrite => Sys2Proof.Machine.execTimeWindowWrite s
  | .msixPartitionWrite f view ag v => Sys2Proof.Machine.execMsixPartitionWrite f view ag v s
  | .mgmtFrameRx m data stopped => Sys2Proof.Machine.execMgmtFrameRx m data stopped s
  | .mgmtModeWrite m view ag v => Sys2Proof.Machine.execMgmtModeWrite m view ag v s
  | .hostLinkReset => Sys2Proof.Machine.execHostLinkReset s
  | .functionLevelReset f => Sys2Proof.Machine.execFunctionLevelReset f s
  | .interruptEvent n => Sys2Proof.Machine.execInterruptEvent n s
  | .levelDeassert n => Sys2Proof.Machine.execLevelDeassert n s
  | .interruptDelivery t => Sys2Proof.Machine.execInterruptDelivery t s
  | .intClaimRead t ag view => Sys2Proof.Machine.execIntClaimRead t ag view s
  | .intComplete t ag view v => Sys2Proof.Machine.execIntComplete t ag view v s
  | .holdoffExpiry g => Sys2Proof.Machine.execHoldoffExpiry g s
  | .stackClear pg ag arg => Sys2Proof.Machine.execStackClear pg ag arg s
  | .fire n ag v => Sys2Proof.Machine.execFire n ag v s
  | .intSourceWrite n k ag v => Sys2Proof.Machine.execIntSourceWrite n k ag v s
  | .powerFailAssert => Sys2Proof.Machine.execPowerFailAssert s
  | .powerFailDeassert => Sys2Proof.Machine.execPowerFailDeassert s
  | .watchedWake k => Sys2Proof.Machine.execWatchedWake k s
  | .smoulderEnter pg ag arg => Sys2Proof.Machine.execSmoulderEnter pg ag arg s
  | .smoulderExit pg ag arg => Sys2Proof.Machine.execSmoulderExit pg ag arg s
  | .vcoreStep => Sys2Proof.Machine.execVcoreStep s
  | .smoulderEntryDone => Sys2Proof.Machine.execSmoulderEntryDone s
  | .smoulderExitDone => Sys2Proof.Machine.execSmoulderExitDone s
  | .ledgerSample temp => Sys2Proof.Machine.execLedgerSample temp s
  | .periodRecord => Sys2Proof.Machine.execPeriodRecord s
  | .hourClose => Sys2Proof.Machine.execHourClose s
  | .ledgerWrite => Sys2Proof.Machine.execLedgerWrite s
  | .holdupSample uv => Sys2Proof.Machine.execHoldupSample uv s
  | .flashTimeout => Sys2Proof.Machine.execFlashTimeout s
  | .ldgCntClear pg ag arg => Sys2Proof.Machine.execLdgCntClear pg ag arg s
  | .readRec pg ag arg => Sys2Proof.Machine.execReadRec pg ag arg s
  | .ldgRestart pg ag arg => Sys2Proof.Machine.execLdgRestart pg ag arg s
  | .statLowRead idx ag => Sys2Proof.Machine.execStatLowRead idx ag s
  | .statLowWrite idx ag v => Sys2Proof.Machine.execStatLowWrite idx ag v s
  | .statHighWrite idx ag v => Sys2Proof.Machine.execStatHighWrite idx ag v s
  | .smbRecordSelect w => Sys2Proof.Machine.execSmbRecordSelect w s
  | .smbRecordRead => Sys2Proof.Machine.execSmbRecordRead s
  | .smbLdgStatus => Sys2Proof.Machine.execSmbLdgStatus s
  | .smbBootStatusLo => Sys2Proof.Machine.execSmbBootStatusLo s
  | .smbBootStatusHi => Sys2Proof.Machine.execSmbBootStatusHi s
  | .smbTemperature shared temp => Sys2Proof.Machine.execSmbTemperature shared temp s
  | .smbAlarm shared => Sys2Proof.Machine.execSmbAlarm shared s
  | .smbAlertResponse => Sys2Proof.Machine.execSmbAlertResponse s
  | .smbTimeout => Sys2Proof.Machine.execSmbTimeout s
  | .coldReset board cells => Sys2Proof.Machine.execColdReset board cells s
  | .chipReset pg ag arg board => Sys2Proof.Machine.execChipReset pg ag arg board s
  | .imageLoadGo image => Sys2Proof.Machine.execImageLoadGo image s
  | .rbAdvance pg ag arg => Sys2Proof.Machine.execRbAdvance pg ag arg s
  | .otpWrite pg ag arg => Sys2Proof.Machine.execOtpWrite pg ag arg s
  | .unlock pg ag arg => Sys2Proof.Machine.execUnlock pg ag arg s
  | .flashRead pg ag arg => Sys2Proof.Machine.execFlashRead pg ag arg s
  | .flashProg pg ag arg => Sys2Proof.Machine.execFlashProg pg ag arg s
  | .flashErase pg ag arg => Sys2Proof.Machine.execFlashErase pg ag arg s
  | .tapReset => Sys2Proof.Machine.execTapReset s
  | .jtagInstruction idx => Sys2Proof.Machine.execJtagInstruction idx s
  | .commandCompletion pg => Sys2Proof.Machine.execCommandCompletion pg s
  | .porstNAssert => Sys2Proof.Machine.execPorstNAssert s
  | .hostLinkUp mode width speed => Sys2Proof.Machine.execHostLinkUp mode width speed s
  | .mateLinkDown => Sys2Proof.Machine.execMateLinkDown s
  | .configSpaceWrite f k v => Sys2Proof.Machine.execConfigSpaceWrite f k v s
  | .holdupOkChange level => Sys2Proof.Machine.execHoldupOkChange level s
  | .flashOperationComplete => Sys2Proof.Machine.execFlashOperationComplete s
  | .dieTemperatureAlarm hot => Sys2Proof.Machine.execDieTemperatureAlarm hot s
  | .timePllLock => Sys2Proof.Machine.execTimePllLock s

end Sys2Proof.Machine
end

