-- ==== Sys2Proof/Machine/Reads.lean ====
section
/-! DEFINITION. A read of a register, or of an entry of a table window: what it returns, and what it does (R51, R52, R55, R58, R67, R628). A read
votes the T fields of its register, and pops or latches where the register says so; the table has rows for the latter alone. The status words that
State holds elsewhere are put together here. -/
namespace Sys2Proof.Machine

/-- A number from bits, the first lowest. -/
def ofBits (n : Nat) (f : Nat → Bool) : Nat := (List.range n).foldl (fun a b => a + b2n (f b) * 2 ^ b) 0

/-- The words of a page that are views of other state; none for a register that the field file holds. -/
def viewWord (s : State) (p off ag : Nat) : Option Nat :=
  let k := fun (base : Nat) => (off - base) / 4
  if p = pSNS then
    if off = 0x04C then some (s.rd p F.SNS_AVS_STATUS_PMBUS_FAIL * 2 ^ 31 + s.rd p F.SNS_AVS_STATUS_SPEED_LOW * 2 ^ 30 + b2n (atVmax s) * 2 ^ 29
      + s.rd p F.SNS_AVS_STATUS_VREQ_MV * 2 ^ 16)
    else none
  else if p = pINT then
    if 0x100 ≤ off && off < 0x200 then
      let left := match s.int.holdEnd.find? (k 0x100) with | some t => (t - s.now + 250 * nsU - 1) / (250 * nsU) | none => 0
      some (min 65535 left * 2 ^ 16 + s.rd pINT F.INT_HOLDOFF_HOLDOFF (k 0x100))
    else if 0x200 ≤ off && off < 0x300 then some (ofBits 32 (fun b => (s.src (32 * k 0x200 + b)).pending))
    else if 0x300 ≤ off && off < 0x400 then some (ofBits 32 (fun b => (s.src (32 * k 0x300 + b)).active))
    else if 0x840 ≤ off && off < 0x840 + 4 * 258 then
      some (match s.stack (k 0x840) with
        | e :: t => b2n (s.src e.source).claimed * 2 ^ 31 + (t.length + 1) * 2 ^ 16 + e.prio * 2 ^ 12 + e.source
        | [] => 0)
    else none
  else if p = pLDG then
    if off = 0x054 then some (ldgStatus s)
    else if off = 0x074 then some (ovfBits s (s.rd pLDG F.LDG_OVF_IDX_GROUP))
    else if off = 0x078 then some (b2n (ovfAny s) * 2 ^ 31)
    else if 0x080 ≤ off && off < 0x0C0 then some (ovfSum s (k 0x080))
    else none
  else if p = pBOOT then
    if off = 0x058 then some (Config.dieId.toNat % 2 ^ 32)
    else if off = 0x05C then some (Config.dieId.toNat / 2 ^ 32)
    else none
  else if p = pPEAT && off = 0x0C4 then some (s.peat.delay.get 0 (64 * s.rd pPEAT F.PEAT_DLY_SEL_CH + s.rd pPEAT F.PEAT_DLY_SEL_IDX))
  else if isBlk p .eng && off = 0x060 then
    let e := s.rd p F.ENG_DBG_SEL_ENGINE
    let c := s.rd p F.ENG_DBG_SEL_CONTEXT
    some (b2n (s.ctx (16 * pageRegion p + e) c).halted * 2 ^ 31 + e * 2 ^ 12 + c * 2 ^ 8 + s.rd p F.ENG_DBG_SEL_WORD)
  else if isBlk p .eng && 0x200 ≤ off && off < 0x400 then
    let k := (off - 0x200) / 8
    let v := s.eng.scratch.get 0 (64 * pageRegion p + k)
    some (if off % 8 = 0 then v % 2 ^ 32
      else match s.eng.scrLatch.find? (agSlot (pageRegion p) ag) with
        | some (j, l) => (if j = k then l else v) / 2 ^ 32
        | none => v / 2 ^ 32)
  else if isBlk p .eng && (off = 0x064 || off = 0x068) then
    some (match (s.ctx (16 * pageRegion p + s.rd p F.ENG_DBG_SEL_ENGINE) (s.rd p F.ENG_DBG_SEL_CONTEXT)).trap with
      | some t => t.get (s.rd p F.ENG_DBG_SEL_WORD) / 2 ^ (if off = 0x064 then 0 else 32) % 2 ^ 32
      | none => 0)
  else none

/-- The delay entry's shadow as the set view shows it (R369). -/
def delayShadowWord (s : State) : Option Nat :=
  (s.peat.delayShadow.find? (64 * s.rd pPEAT F.PEAT_DLY_SEL_CH + s.rd pPEAT F.PEAT_DLY_SEL_IDX)).map (·.1)

/-- A register whose value is taken at the read, brought up to the present: the credit of the selected shaper (R306), the
lease of the pair lock (R460), the slew of P and the seconds of banked time (R408, R424), and the gate states of a port (R335). -/
def current (s : State) (p off : Nat) : State :=
  let i := (off - 0x800) / 0x40
  if isBlk p .qsc && off = 0x250 then showCredit (2048 * pageRegion p + s.rd p F.QSC_SHP_SEL_SEL) s
  else if p = pMATE && off = 0x054 then setPlock s.mate.plock s
  else if p = pTIME && off = 0x048 then s.wr pTIME F.TIME_STATUS_SLEWING (b2n (s.phase s.now != 0))
  else if p = pTIME && off = 0x190 then syncElapsed s
  else if isBlk p .port && 0x800 ≤ off && off < 0xB00 && off % 0x40 = 0x14 then syncGate (12 * pageRegion p + i) s
  else s

/-- The page whose fields a register shows: region 0's for those that its page alone operates. -/
def homePage (b : Blk) (p off : Nat) : Nat := if chipWide b off then p % 0x010 + 0x010 else p

/-- The word a page's register returns to an agent through a view (R55): the set view shows the shadows of B fields, the others the operating
values; WO fields and reserved bits read 0. -/
def regWord (s0 : State) (p off : Nat) (w : View) (ag : Nat) : Nat :=
  match pageBlk p with
  | none => 0
  | some b =>
    let s := current s0 p off
    let q := homePage b p off
    if off < 0x040 then headerRead s p off
    else if w = .set && p = pPEAT && off = 0x0C4 && (delayShadowWord s).isSome then (delayShadowWord s).getD 0
    else match viewWord s p off ag with
      | some x => x
      | none => (regFields b off).foldl (fun n (e : Field × Nat × Nat) =>
          n + (if e.1.acc = .wo then 0 else if w = .set then s.viewBase q e.1 e.2.1 e.2.2 else s.rd q e.1 e.2.1 e.2.2) * 2 ^ e.1.lo) 0

/-- The T fields of a register that a read votes, by rising lowest bit (R67). -/
def voteKeys (p off : Nat) : List Nat :=
  match pageBlk p with
  | none => []
  | some b =>
    let q := homePage b p off
    (((regFields b off).filter (fun e => e.1.com = .trip)).map (fun e => fkey q e.1 e.2.1 e.2.2)).mergeSort (· ≤ ·)

/-- A 32-bit read of a page's register by an agent (R51, R55, R67 to R69): its T fields are voted, and it returns the voted values. DEDUCED (log
entry 5). -/
def pageRead (p off : Nat) (w : View) (ag : Nat) (s : State) : State × Nat :=
  let s1 := (voteKeys p off).foldl (fun s k => voteKey (k / 32768) s k) s
  let s2 :=
    if p = pINT && 0x400 ≤ off && off < 0x400 + 4 * 258 then claimRead ((off - 0x400) / 4) ag w s1
    else if p = pTIME && 0x344 ≤ off && off < 0x384 && off % 16 = 4 then tinPop ((off - 0x344) / 16) s1
    else if isBlk p .eng && off = 0x054 then after (execSamplePop (pageRegion p) s1) s1
    else if isBlk p .eng && 0x200 ≤ off && off < 0x400 && off % 8 = 0 then after (execScratchLoRead (pageRegion p) ((off - 0x200) / 8) ag s1) s1
    else s1
  (s2, if p = pINT && 0x400 ≤ off && off < 0x400 + 4 * 258 then
      (match s2.out.getLast? with | some (.claim _ v) => v | _ => 0)
    else regWord s2 p off w ag)

/-- A word of an entry that the field file holds. -/
def entryRead (s : State) (e : Nat) (b : Blk) (off : Nat) : Nat :=
  (regFields b off).foldl (fun n (x : Field × Nat × Nat) => n + (if x.1.acc = .wo then 0 else s.rd e x.1 x.2.1 x.2.2) * 2 ^ x.1.lo) 0

/-- The word a table window returns to an agent. -/
def windowReadWord (s : State) (a ag : Nat) : Nat :=
  if a < 0x400000 then 0
  else if a < 0x800000 then
    (if s.inState pLDG .reset then 0 else if a / 4 % 2 = 0 then s.counter ((a - 0x400000) / 8) % 2 ^ 32 else statHigh s ((a - 0x400000) / 8) ag)
  else if a < 0x810000 then
    let n := (a - 0x800000) / 32
    let x := s.src n
    if !srcConnected n then 0
    else match a / 4 % 8 with
      | 0 => entryRead s (wISRC n) .isrc 0 + b2n (srcLevel n) * 2 ^ 29
      | 1 => b2n x.active * 2 ^ 31 + b2n x.pending * 2 ^ 30 + b2n x.claimed * 2 ^ 29 + b2n x.retracted * 2 ^ 28
          + b2n (srcLevel n && x.line) * 2 ^ 27 + x.claimCount * 2 ^ 8 + x.count
      | _ => 0
  else if 0x840000 ≤ a && a < 0x841000 then
    let e := (a - 0x840000) / 16
    if 8 ≤ ag || !fnPresent s ag || s.rd pHIF F.HIF_MSIX_VEC_COUNT ag ≤ e then 0
    else
      let x := s.hif.msix.get {} (s.rd pHIF F.HIF_MSIX_VEC_BASE ag + e)
      match a / 4 % 4 with | 0 => x.addrLo | 1 => x.addrHi | 2 => x.data | _ => b2n x.mask
  else if 0x841000 ≤ a && a < 0x841020 then
    if 8 ≤ ag then 0
    else ofBits 32 (fun b =>
      let e := 32 * ((a - 0x841000) / 4) + b
      e < s.rd pHIF F.HIF_MSIX_VEC_COUNT ag && pendingBit s (s.rd pHIF F.HIF_MSIX_VEC_BASE ag + e))
  else if 0x880000 ≤ a && a < 0x898000 then (s.gate ((a - 0x880000) / 0x800)).entry (a / 0x400 % 2) (a / 4 % 256)
  else if 0x8A0000 ≤ a && a < 0x8C0000 then entryRead s (wRECOV ((a - 0x8A0000) / 32)) .recov (a % 32)
  else if 0x8C0000 ≤ a && a < 0x900000 then entryRead s (wIDENT ((a - 0x8C0000) / 64)) .ident (a % 64)
  else if 0x900000 ≤ a && a < 0x980000 && (a - 0x900000) % 0x20000 < 0x12000 then
    s.eng.store.get 0 (4608 * ((a - 0x900000) / 0x20000) + (a - 0x900000) % 0x20000 / 16) / 2 ^ (32 * (a / 4 % 4)) % 2 ^ 32
  else if 0xA00000 ≤ a && a < 0xA40000 then entryRead s (wRING ((a - 0xA00000) / 64)) .ring (a % 64)
  else if 0xC00000 ≤ a && a < 0x1000000 then
    let q := (a - 0xC00000) / 64
    entryRead (if a % 64 = 40 then s.wr (wQUEUE q) F.Q_W10_HOLD_LEFT (s.holdLeft q) else if a % 64 = 52 || a % 64 = 60 then listQueue q s else s) (wQUEUE q) .queue (a % 64)
  else 0

/-- An aligned 32-bit read of BAR0 by an agent; the low word of a counter latches the whole of it (R550). -/
def wordRead (a ag : Nat) (s : State) : State × Nat :=
  if (pageBlk (a / 0x4000)).isSome then pageRead (a / 0x4000) (a % 0x1000) (viewAt a) ag s
  else if 0x400000 ≤ a && a < 0x800000 && a / 4 % 2 = 0 then
    let t := after (execStatLowRead ((a - 0x400000) / 8) ag s) s
    (t, windowReadWord s a ag)
  else (s, windowReadWord s a ag)

/-- A read of BAR0 by an agent (R52, R628): a narrow one returns the addressed bytes, one of 64 bits is two of 32, the lower first, but for a counter,
which it reads whole (R550). -/
def busRead (a ag width : Nat) (s : State) : State × Nat :=
  if width = 8 && a % 8 = 0 && 0x400000 ≤ a && a < 0x800000 then (s, if s.inState pLDG .reset then 0 else s.counter ((a - 0x400000) / 8)) else
  let q := wordRead (a / 4 * 4) ag s
  if width = 8 then
    let r := wordRead (a / 4 * 4 + 4) ag q.1
    (r.1, q.2 + r.2 * 2 ^ 32)
  else (q.1, q.2 / 2 ^ (8 * (a % 4)) % 2 ^ (8 * width))

end Sys2Proof.Machine
end

