-- ==== Sys2Proof/Safety.lean ====
section
/-! DEFINITION. The terms the statements are made in: the canonical form of addressed memory, the rule of the priority stacks, the issue and the
retirement of a micro-instruction, and runs in which nothing stops. -/
namespace Sys2Proof.Machine

/-! ### Addressed memory (R340, R593) -/

/-- The flash in canonical form: addresses strictly rising, and no entry equal to the erased 0xFF an unlisted address reads as. -/
def Flash.wf (m : SMap Byte) : Bool := m.wf && m.entries.all (fun e => e.2 != 0xFF)

/-- The Peat window's bytes and the flash are in canonical form. -/
def State.memOk (s : State) : Bool := Memory.wf s.peat.mem && Flash.wf s.boot.flash

/-! ### Priority stacks (R526) -/

/-- Priorities fall strictly from the top of a stack to its bottom. -/
def stackFalls : List StkEntry → Bool
  | [] => true
  | e :: l => (match l with | [] => true | e' :: _ => decide (e'.prio < e.prio)) && stackFalls l

/-- Every target's stack obeys R526. -/
def State.stacksOk (s : State) : Prop := ∀ t, stackFalls (s.stack t) = true

/-! ### Micro-instructions (R159 to R192) -/

/-- An overflow of the engine is captured at the next micro-instruction it retires: its skid of six is up (R220). -/
def captureDue (s : State) (e : Nat) : Bool :=
  (List.range 8).any (fun n => 2 ^ 32 ≤ s.eng.pcnt.get 0 (8 * e + n) && s.eng.passed.get 0 (8 * e + n) + 6 ≤ s.eng.retired.get 0 e + 1)
    || s.eng.captures.any (fun q => q.engine = e && q.place + 6 ≤ s.eng.retired.get 0 e + 1)

/-- Context `c` of engine `e` issues the micro-instruction `mi`, which is legal and of the operation `op`, in this slot (R160, R183, R196): it is the
ready context whose turn it is, it stalls on nothing, its operands are `a` and `b`, and `x` is the context once the tags it read are
freed (R168); no capture falls due with it. -/
structure Issues (s : State) (e c op : Nat) (mi : MI) (a b : Nat) (x : Ctx) : Prop where
  busy : (s.ctx e c).busy = true
  awake : (s.ctx e c).halted = false
  run : s.inState (pENG (engRegion e)) .run = true
  place : (s.ctx e c).pc ≤ maxPc
  parity : csGood s (engRegion e) (s.ctx e c).pc = true
  word : miDecode (csWord s (engRegion e) (s.ctx e c).pc) = mi
  opcode : mi.opcode = op
  legal : mi.legal = true
  slots : (s.ctx e c).slots + opSlots op ≤ s.rd (pENG (engRegion e)) F.ENG_CTRL_MAX_STEPS
  frame : needsFrame op = true → (s.ctx e c).frame.isSome = true
  operands : operands s e c (s.ctx e c) mi = .ok (a, b, x)
  turn : nextTurn s e = some c
  goes : stalls s e (s.ctx e c) mi c = none
  calm : captureDue s e = false

/-- The context after a micro-instruction whose effect left it as `y`: its slots are counted, and it branches on the flags the effect left (R182, R184). -/
def retired (op : Nat) (mi : MI) (x y : Ctx) : Ctx := nextPc mi { y with slots := x.slots + opSlots op }

/-- Command `i` retires a micro-instruction of context `c` of engine `e` whose effect on the context is `y`; no other context changes, and nothing of
the state outside the engines. -/
def Retires (i : Instr) (s : State) (e c op : Nat) (mi : MI) (y : Ctx) : Prop :=
  ∃ t, exec i s = .next t ∧ t.ctx e c = retired op mi (s.ctx e c) y
    ∧ (∀ e' c', ctxIdx e' c' ≠ ctxIdx e c → t.ctx e' c' = s.ctx e' c')
    ∧ t = { s with eng := t.eng }

/-! ### Runs -/

/-- A step that stops nothing. -/
def Answers (i : Instr) (s t : State) : Prop := exec i s = .next t

/-- The state `n` steps on; none where a step stops. -/
def runFor : Nat → State → Option State
  | 0, s => some s
  | n + 1, s => match step s with
    | .next t => runFor n t
    | _ => none

end Sys2Proof.Machine
end

