-- ==== Sys2Proof/Certificates/Slice0/Obligations.lean ====
section
/-! DEFINITION. The statements for the provers: the step and reset, the checks of a write, the completion of every command by family, the rules
of the engines, the interrupt controller, memory, the clocks and the arbiters, and what each leaves alone. -/
open Sys2Proof Sys2Proof.Machine

/-! ### The step and reset -/

/-- A step with `c` at the front of the queue is `exec` of `c` on the state with the queue's rest. -/
def Obligations.StepTakesFrontCommand : Prop :=
  ∀ (c : Instr) (rest : List Instr) (s : State),
    step { s with pending := c :: rest } = exec c { s with pending := rest }

/-- With no command waiting the local counter advances by 1,024 units (15.625 ps) once the time unit's PLL has locked. Nothing else changes unless
a walk resynchronises the peer: that sends the next learned group of the own chip, or ends when none is left. DESIGN CHOICE (log entries 2 and
86). -/
def Obligations.EmptyQueueOnlyAdvancesTime : Prop :=
  ∀ s : State, s.pending = [] →
    ∃ t, step s = .next t ∧ t.now = s.now + (if s.rdB pTIME F.TIME_STATUS_PLL_LOCK then 1024 else 0)
      ∧ (s.mate.walk = none → t = { s with time := { s.time with local_ := t.time.local_ } })
      ∧ (∀ n e, s.mate.walk = some n →
          s.tab.groups.entries.find? (fun e => n ≤ e.1 && isLearned e.2.action && !e.2.mate) = some e →
            t.mate.walk = some (e.1 + 1) ∧ t.tab = s.tab ∧ t.reg = s.reg
              ∧ (s.rd pMATE F.MATE_STATUS_LINK_STATE = lUP →
                  t.out = s.out ++ [.mate (mateBytes 2 0 0 (s.mate.seq.get 0 2)
                    (beBytes 16 (learnWord e.2.key 1 (actionPort e.2.action) e.2.ts true false e.1)))])
              ∧ (s.rd pMATE F.MATE_STATUS_LINK_STATE ≠ lUP → t.out = s.out
                  ∧ (s.inState pLDG .reset = false → t.counter (cChip 82) = (s.counter (cChip 82) + 1) % 2 ^ 64)))
      ∧ (∀ n, s.mate.walk = some n →
          s.tab.groups.entries.find? (fun e => n ≤ e.1 && isLearned e.2.action && !e.2.mate) = none →
            t.mate = { s.mate with walk := none } ∧ t.rd pMATE F.MATE_STATUS_RESYNC_ACTIVE = 0 ∧ t.out = s.out)

/-- The reset state: every page in RESET without lock, command, pending commit or posted write; every shadow equal to its operating value; memory,
tables, queues and stacks empty. -/
def Obligations.ResetStateOfEveryPage : Prop :=
  (∀ p, State.reset.page p = {})
    ∧ (∀ p f i j, State.reset.rdShadow p f i j = State.reset.rd p f i j)
    ∧ (∀ q, State.reset.queue q = {}) ∧ (∀ t, State.reset.stack t = []) ∧ (∀ n, State.reset.src n = {})
    ∧ (∀ a, State.reset.winByte a = 0) ∧ (∀ i, State.reset.counter i = 0) ∧ State.reset.pending = []

/-- The memories of the reset state are in canonical form, and its priority stacks obey R526. -/
def Obligations.ResetMeetsTheInvariants : Prop :=
  State.reset.memOk = true ∧ State.reset.stacksOk

/-- PORST_N low: every page goes to RESET, every table, queue, frame and byte of the window is lost, the flash and the OTP stay while no flash
operation runs, and the commands yet to come stay. -/
def Obligations.PorstLeavesOnlyTheFlash : Prop :=
  ∀ s : State, s.boot.flashOp = none →
    ∃ t, exec .porstNAssert s = .next t ∧ (∀ p, t.page p = {}) ∧ t.boot.inReset = true
      ∧ t.boot.flash = s.boot.flash ∧ t.boot.otp = s.boot.otp ∧ t.pending = s.pending ∧ t.out = s.out
      ∧ t.frames = ⟨[]⟩ ∧ t.queues = ⟨[]⟩ ∧ t.tab = {} ∧ t.eng = {} ∧ t.int = {} ∧ t.cnt = {} ∧ t.peat = {} ∧ t.hif = {} ∧ t.time = {}
      ∧ t.reg.shadow = ⟨[]⟩ ∧ t.reg.copies = ⟨[]⟩

/-! ### Registers (R52 to R72) -/

/-- The value a view leaves in a field (R54): the normal view writes it, the set view ORs, the clear view takes the written bits away, the toggle
view inverts them, bit by bit and within the field's width. -/
def Obligations.ViewsWriteSetClearToggle : Prop :=
  ∀ (w n v k : Nat), v < 2 ^ w → n < 2 ^ w → k < w →
    viewOutcome .normal v n w = n
      ∧ (viewOutcome .set v n w).testBit k = (v.testBit k || n.testBit k)
      ∧ (viewOutcome .clear v n w).testBit k = (v.testBit k && !n.testBit k)
      ∧ (viewOutcome .toggle v n w).testBit k = (v.testBit k != n.testBit k)
      ∧ viewOutcome .set v n w < 2 ^ w ∧ viewOutcome .clear v n w < 2 ^ w ∧ viewOutcome .toggle v n w < 2 ^ w

/-- The order of the checks of R56: LOCKED before RANGE before STATE before BUSY, and DONE only when all four pass. -/
def Obligations.ChecksFailInOrder : Prop :=
  ∀ (locked range state busy_ : Bool),
    (firstFail locked range state busy_ = rLOCKED ↔ locked = true)
      ∧ (firstFail locked range state busy_ = rRANGE ↔ locked = false ∧ range = false)
      ∧ (firstFail locked range state busy_ = rSTATE ↔ locked = false ∧ range = true ∧ state = false)
      ∧ (firstFail locked range state busy_ = rBUSY ↔ locked = false ∧ range = true ∧ state = true ∧ busy_ = true)
      ∧ (firstFail locked range state busy_ = rDONE ↔ locked = false ∧ range = true ∧ state = true ∧ busy_ = false)

/-- A refused write or command changes nothing but its page's BLK_RESULT, its counts, and the memory of a lapsed lease (R56, R57, R72). -/
def Obligations.RefusedWritesChangeOnlyTheHeader : Prop :=
  ∀ (p off : Nat) (w : View) (ag v op : Nat) (xr xs xb : List NewVal → Bool) (eff : List NewVal → State → State) (range state : Bool)
    (body : State → State × Nat) (s : State),
    (pageBlk p ≠ none → gateCode s p off w ag v xr xs xb ≠ rDONE →
      ∃ t, regWrite p off w ag v xr xs xb eff s = t ∧ t = { s with pages := t.pages }
        ∧ (t.page p).resCode = gateCode s p off w ag v xr xs xb ∧ (t.page p).resAgent = ag ∧ (t.page p).resIndex = off / 4
        ∧ (t.page p).seq = ((s.page p).seq + 1) % 16 ∧ (t.page p).state = (s.page p).state ∧ (t.page p).lock = (s.page p).lock
        ∧ (∀ q, q ≠ p → t.page q = s.page q))
      ∧ (cmdCode s p ag range state ≠ rDONE →
      ∃ t, command p ag op range state body s = t ∧ t = { s with pages := t.pages }
        ∧ (t.page p).resCode = cmdCode s p ag range state ∧ (t.page p).resAgent = ag ∧ (t.page p).resOp = op
        ∧ (t.page p).seq = ((s.page p).seq + 1) % 16 ∧ (t.page p).state = (s.page p).state ∧ (t.page p).lock = (s.page p).lock
        ∧ (∀ q, q ≠ p → t.page q = s.page q))

/-- The value in force of a T field is the bitwise majority of its three copies, whatever the copies hold (R67): each bit is the one that at
least two of them hold. -/
def Obligations.TripledFieldsReadTheMajority : Prop :=
  ∀ (s : State) (p : Nat) (f : Field) (i j a b c : Nat), s.reg.copies.find? (fkey p f i j) = some (a, b, c) →
    ∀ k, (s.rd p f i j).testBit k
      = ((a.testBit k && b.testBit k) || (a.testBit k && c.testBit k) || (b.testBit k && c.testBit k))

/-- A field written reads as what was written, cut to its width, with its copies equal again; every other field of the part reads as before. -/
def Obligations.WrittenFieldsReadBack : Prop :=
  ∀ (s : State) (p : Nat) (f : Field) (v i j : Nat),
    (s.wr p f v i j).rd p f i j = v % 2 ^ (f.hi - f.lo + 1)
      ∧ (∀ (q : Nat) (g : Field) (k l : Nat), fkey q g k l ≠ fkey p f i j → (s.wr p f v i j).rd q g k l = s.rd q g k l)
      ∧ s.wr p f v i j = { s with reg := (s.wr p f v i j).reg }

/-- The end of a lease (R72): the lock is freed, the owner's uncommitted shadows are dropped, LEASE_LAPSED is set and the page remembers the owner. The
lock of the boot sequencer does not lapse (DEDUCED, log entry 11). -/
def Obligations.LeaseExpiryFreesTheLock : Prop :=
  ∀ (pg : Nat) (l : Lock) (s : State), (s.page pg).lock = some l → l.owner ≠ 12 →
    ∃ t, exec (.leaseExpiry pg false) s = .next t ∧ (t.page pg).lock = none ∧ (t.page pg).leaseLapsed = true
      ∧ (t.page pg).lapsed = some l.owner ∧ (t.page pg).state = (s.page pg).state
      ∧ ((s.page pg).commitPending = false → ∀ e ∈ t.reg.shadow.entries, keyOnPage pg e.1 = true → e.2.2 ≠ l.owner)
      ∧ t.reg.op = s.reg.op ∧ t = { s with pages := t.pages, reg := t.reg, peat := t.peat }

/-! ### Completion: what every command does when its conditions hold

In each of these the hypotheses are conditions on the state and the operands alone, and the conclusion names the whole next state, so it is also
what the command leaves unchanged. -/

/-- The commands every block has (R60, R59, R67): accepted under R56, each has its effect and its result. -/
def Obligations.CommonCommandsComplete : Prop :=
  ∀ (pg ag arg : Nat) (s : State),
    (cmdCode s pg ag (arg = 0) (!s.inState pg .reset) = rDONE → exec (.cmdNop pg ag arg) s = .next (record pg ag 4 0x00 rDONE s))
    ∧ (cmdCode s pg ag (arg = 0) (servable s pg) = rDONE → exec (.reinit pg ag arg) s
        = .next ((setState pg .reinit (blockStops pg s)).updPage pg (fun h => { h with cmd := some ⟨0x01, arg, ag, []⟩ })))
    ∧ (cmdCode s pg ag (arg = 0) (stateIn s pg [.ready, .run]) = rDONE → exec (.fence pg ag arg) s
        = .next (record pg ag 4 0x02 rDONE (enterFenced pg 2 s)))
    ∧ (cmdCode s pg ag (arg = 0) (s.inState pg .fenced) = rDONE → exec (.release pg ag arg) s
        = .next ((setState pg .reinit (blockStops pg s)).updPage pg (fun h => { h with cmd := some ⟨0x03, arg, ag, []⟩ })))
    ∧ (∀ upsets : List Upset,
        let s1 := upsets.foldl (fun s u => strike u s) s
        cmdCode s1 pg ag (arg = 0) (servable s1 pg) = rDONE → exec (.scrub pg ag arg upsets) s
          = .next (record pg ag 4 0x04 rDONE (votePage s1 pg)))
    ∧ (cmdCode s pg ag (arg = 0) (servable s pg) = rDONE → (s.page pg).commitPending = false → exec (.discard pg ag arg) s
        = .next (record pg ag 4 0x05 rDONE (dropShadows pg s)))
    ∧ (∀ b op, pageBlk pg = some b → runOp b = some op → (pg = pPEAT → ∀ k < 14, s.rd pPEAT F.PEAT_TIM_VALUE k ≠ 0)
        → cmdCode s pg ag (arg = 0) (s.inState pg .ready) = rDONE → exec (.blockRun pg ag arg) s
          = .next (record pg ag 4 op rDONE (blockRun pg s)))
    ∧ (∀ b op, pageBlk pg = some b → runOp b = some op → stopsAtOnce b = true
        → cmdCode s pg ag (arg = 0) (s.inState pg .run && mayStop s pg) = rDONE → exec (.blockStop pg ag arg) s
          = .next (record pg ag 4 (op + 1) rDONE (stopNow pg s)))
    ∧ (∀ b op, pageBlk pg = some b → runOp b = some op → stopsAtOnce b = false
        → cmdCode s pg ag (arg = 0) (s.inState pg .run && mayStop s pg) = rDONE → exec (.blockStop pg ag arg) s
          = .next ((stopBegins pg s).updPage pg (fun h => { h with cmd := some ⟨op + 1, arg, ag, []⟩ })))
    ∧ (∀ c : RunCmd, pg ≠ pBOOT → s.inState pg .run = true → (s.page pg).cmd = some c → c.op = 0x41 → workEnded s pg = true
        → exec (.blockStopComplete pg) s = .next (finishCmd pg rDONE (setState pg .ready s)))

/-- GO is performed (R62, R64): when no other agent holds the lock, the block's own checks of range and state pass, no commit is pending, this
device has authority over the gate lists it would commit, and the agent's lease did not lapse, the commit point is reached with the boundaries that are
there at once, or, with no field that differs, only APPLIED_SEQ advances. A boundary (R63) gives every block its committed fields in the block's own way, and a
lock, a lease and the delivery of posted values have the whole of their effect (R66, R70, R72).
Long commands end with their effect and their one result (R57, R629), REINIT and RELEASE in READY (R59). The scrub pass votes every page out of RESET
(R67). A handshake that times out is noted, and the second retry that fails fences: the block of one cell for cause 5, of two of its cells' neighbours for cause 1,
and, between two blocks of a region, the region (R28, R477). The sweep of a fence frees its set (R484). -/
def Obligations.CommitsLocksAndFencesComplete : Prop :=
  (∀ (pg ag kind : Nat) (s : State),
      (∀ v, v % 65536 = 1 → lockedBy s pg ag = false → goRange s pg ag = true → (s.page pg).lapsed ≠ some ag → (s.page pg).commitPending = false →
          goState s pg = true → (gatesOf s pg).isEmpty = true ∨ ag = 13 ∨ singleOwner s = true →
          exec (.commitGo pg ag v) s = .next (record pg ag 7 0xFF rDONE (if anyShadow s pg then boundaryNow pg (commitPoint pg ag s)
            else s.updPage pg (fun h => { h with appliedSeq := (h.appliedSeq + 1) % 65536 }))))
      ∧ ((s.page pg).commitPending = true → s.inState pg .halted = false →
          (pageBlk pg = some .port → exec (.commitApply pg 0) s = .next (commitDone pg (syncGuards (preemptChanged pg s
              (applyKeys pg (fun k => decide (keyOff k < 0x800) && frameBoundary s pg k) s)))))
          ∧ (pageBlk pg = some .buf → secondRound s pg = true →
              exec (.commitApply pg kind) s = .next (commitDone pg (syncShared (pageRegion pg) (applyKind pg 0 (applyKind pg 1 s)))))
          ∧ (pageBlk pg = some .xbar ∨ pageBlk pg = some .sfab → secondRound s pg = true →
              exec (.commitApply pg kind) s = .next (commitDone pg (applyKind pg 0 (applyKind pg 1 s))))
          ∧ (pageBlk pg = some .prs → (s.page pg).substate = 0 →
              exec (.commitApply pg kind) s = .next (commitDone pg (applyKind pg 0 (applyKind pg 1 s))))
          ∧ (pageBlk pg = some .lkp → ∃ t, exec (.commitApply pg kind) s = .next (commitDone pg (applyKind pg kind t))
              ∧ t = { s with tab := t.tab } ∧ t.tab = { s.tab with tokens := t.tab.tokens }
              ∧ ∀ i < 12, t.tab.tokens.find? (12 * pageRegion pg + i)
                = some ((learnTokens s (12 * pageRegion pg + i)).1, (learnTokens s (12 * pageRegion pg + i)).2, s.now))
          ∧ (pg = pRPL 0 → exec (.commitApply pg kind) s = .next (commitDone pg (applyKind pg 0 (applyKind pg 1 (mirrorRestart s)))))
          ∧ (pageBlk pg = some .qsc → shaperCommitted s pg = true →
              shaperBusy s (2048 * pageRegion pg + s.rd pg F.QSC_SHP_SEL_SEL) = false →
              exec (.commitApply pg 0) s = .next (commitDone pg (applyKind pg 0 (applyShaper (pageRegion pg) s))))
          ∧ (pageBlk pg = some .qsc → shaperCommitted s pg = false → exec (.commitApply pg 0) s = .next (commitDone pg (applyKind pg 0 s)))
          ∧ (pageBlk pg = some .qsc → secondRound s pg = true → kind ≠ 0 →
              exec (.commitApply pg kind) s = .next (commitDone pg (applyKind pg 1 s)))
          ∧ (pageBlk pg = some .peat → exec (.commitApply pg kind) s = .next (commitDone pg (peatBoundary s)))
          ∧ (pageBlk pg = some .eng → exec (.commitApply pg kind) s = .next (commitDone pg (applyKind pg 0 (applyKind pg 1 s)))))
      ∧ (∀ lease, agOk ag = true → 0 < lease → lease ≤ 1000000 → (∀ l : Lock, (s.page pg).lock = some l → l.owner = ag) →
          exec (.lockAcquire pg ag lease) s = .next (record pg ag 8 0xFF rDONE (s.updPage pg (fun h =>
            { h with lock := some ⟨ag, s.now + lease * usU⟩, lapsed := if h.lapsed = some ag then none else h.lapsed }))))
      ∧ (∀ l : Lock, agOk ag = true → (s.page pg).lock = some l → l.owner = ag →
          exec (.lockRelease pg ag) s = .next (record pg ag 8 0xFF rDONE (dropShadowsOf pg ag (s.updPage pg (fun h => { h with lock := none })))))
      ∧ (∀ l : PairLock, s.mate.plock = some l → exec (.leaseExpiry pg true) s = .next (pairLeaseEnds s) ∧ (pairLeaseEnds s).mate.plock = none)
      ∧ ((s.page pg).posted ≠ [] →
          (pageBlk pg = some .ldg → exec (.postedDelivery pg) s = .next (syncHoldup (takePosted pg s)))
          ∧ (pageBlk pg = some .peat → exec (.postedDelivery pg) s = .next
              (if (s.page pg).posted.any (fun e => e.1 / 32 = pg * 1024 + 0x0C8 / 4) then modeRegsWrite (takePosted pg s) else takePosted pg s))
          ∧ (pageBlk pg = some .mate → exec (.postedDelivery pg) s = .next
              (if (s.page pg).posted.any (fun e => e.1 / 32 = pg * 1024 + 0x040 / 4) then linkEnabled (takePosted pg s) else takePosted pg s))
          ∧ (pageBlk pg = some .time → exec (.postedDelivery pg) s = .next (timeDelivered
              (fun off => (s.page pg).posted.any (fun e => e.1 / 32 = pg * 1024 + off / 4)) (fun d => s.rdB pTIME F.DOM_CFG_EN d) (takePosted pg (rebasePhase s))))
          ∧ (pageBlk pg = some .port → exec (.postedDelivery pg) s = .next ((List.range 3).foldl (fun t q =>
              if (s.page pg).posted.any (fun e => e.1 / 32 = pg * 1024 + (0x380 + 0x20 * q) / 4)
                  || (s.page pg).posted.any (fun e => e.1 / 32 = pg * 1024 + (0x384 + 0x20 * q) / 4)
                then syncQuad (pageRegion pg) q t else t) (takePosted pg s)))
          ∧ (pageBlk pg = some .hif → ((s.page pg).posted.any fun e => 0x100 / 4 ≤ e.1 / 32 - pg * 1024 && e.1 / 32 - pg * 1024 < 0x140 / 4) = false →
              exec (.postedDelivery pg) s = .next (faultSync (takePosted pg s)))))
  ∧ (∀ (pg : Nat) (s : State),
      (∀ c : RunCmd, (s.page pg).cmd = some c →
          (c.op = 0x01 ∨ c.op = 0x03 → s.inState pg .reinit = true →
            exec (.commandCompletion pg) s = .next (settleReset (finishCmd pg rDONE (reinitDone pg s))))
          ∧ (c.op = 0x48 → pageBlk pg = some .lkp →
            exec (.commandCompletion pg) s = .next (settleReset (finishCmd pg rDONE (s.updPage pg (fun h => { h with substate := 0 })))))
          ∧ (c.op = 0x44 → pageBlk pg = some .eng → (scrubWords (pageRegion pg) (badWords s (pageRegion pg)) s).1 = true →
            exec (.commandCompletion pg) s = .next (settleReset (finishCmd pg rDONE (scrubWords (pageRegion pg) (badWords s (pageRegion pg)) s).2)))
          ∧ (∀ x, c.op = 0x44 → c.ops = [x] → pageBlk pg = some .buf →
            exec (.commandCompletion pg) s = .next (settleReset (finishCmd pg rDONE (ownerSwept pg x s))))
          ∧ (∀ x y, c.op = 0x43 → c.ops = [x, y] → pageBlk pg = some .peat →
            exec (.commandCompletion pg) s = .next (settleReset (finishCmd pg rDONE (turfSweep c.arg x y s))))
          ∧ (∀ x, c.op = 0x43 → c.ops = [x] → pageBlk pg = some .ldg → s.boot.flashOp = none →
            exec (.commandCompletion pg) s = .next (settleReset (finishCmd pg (readRec x s).2 (readRec x s).1)))
          ∧ (∀ n, c.op = 0x41 → c.ops = [n] → pg = pBOOT →
            exec (.commandCompletion pg) s = .next (settleReset (finishCmd pBOOT rDONE (blowTo n s))))
          ∧ (∀ k v, c.op = 0x42 → c.ops = [k, v] → pg = pBOOT →
            exec (.commandCompletion pg) s = .next (settleReset (finishCmd pBOOT rDONE (blow k v s))))
          ∧ (∀ k n, c.op = 0x44 → c.ops = [k, n] → pg = pBOOT → s.boot.flashOp = none →
            exec (.commandCompletion pg) s = .next (settleReset (finishCmd pBOOT rDONE (flashToData k n s))))
          ∧ (∀ code, c.op = 0x45 ∨ c.op = 0x46 → pg = pBOOT → s.boot.flashOp = none → s.boot.opCode = some code →
            exec (.commandCompletion pg) s = .next (settleReset (finishCmd pBOOT code { s with boot := { s.boot with opCode := none } }))))
      ∧ (∀ upsets : List Upset, exec (.scrubPass upsets) s
          = .next ((allPages.filter (fun p => !(upsets.foldl (fun s u => strike u s) s).inState p .reset)).foldl votePage
              (upsets.foldl (fun s u => strike u s) s)))
      ∧ (∀ between fails, stateIn s pg [.reset, .fenced, .halted] = false → fails < 2 → exec (.handshakeTimeout pg between fails) s
          = .next ((report pg .noted s).updPage pg (fun h => { h with lastCode := rTIMEOUT })))
      ∧ (∀ fails, stateIn s pg [.ready, .run] = true → 2 ≤ fails →
          exec (.handshakeTimeout pg 1 fails) s = .next (blockFault pg 5 ((report pg .noted s).updPage pg (fun h => { h with lastCode := rTIMEOUT })))
          ∧ (pg ≠ 0x00F →
            exec (.handshakeTimeout pg 0 fails) s = .next (blockFault pg 1 ((report pg .noted s).updPage pg (fun h => { h with lastCode := rTIMEOUT }))))
          ∧ (0x010 ≤ pg → exec (.handshakeTimeout pg 2 fails) s = .next (regionFence pg (pageRegion pg)
              ((report pg .noted s).updPage pg (fun h => { h with lastCode := rTIMEOUT })))))
      ∧ (∀ fails, pg = pXBAR ∨ pg = pSFAB → s.inState pg .reinit = true → 2 ≤ fails →
          exec (.handshakeTimeout pg 1 fails) s = .next (escalate pg ((report pg .noted s).updPage pg (fun h => { h with lastCode := rTIMEOUT }))))
      ∧ (∀ (r tag : Nat) (l : List Nat) (rest : List (Nat × List Nat)), (s.pool r).sweeps = (tag, l) :: rest →
          exec (.fenceSweep r) s = .next ((exchange (cordLost (l.foldl (fun s b =>
            if (s.link (65536 * r + b)).alloc && (s.link (65536 * r + b)).owner = tag then freeBillet (65536 * r + b) s else s) s))).updPool r
              (fun p => { p with sweeps := rest }))))

/-- Writes by address (R49 to R54, R628). A register without a row of its own that passes the checks of R56 takes the written values, with the effect of its block
and its result; BLK_CMD, BLK_COMMIT and BLK_LOCK carry out their command; a register or window entry with a row of its own does what that row does;
a reserved page discards and counts; a narrow or misaligned write is refused; an aligned 64-bit write is two of 32 bits, the lower first.
Writes through the table windows (R50, R628): an aligned write reaches the entry it addresses and does what the entry's row does; the statistics window takes 64
bits at once, and a host's 64-bit write elsewhere is two of 32 bits, the lower first; reserved space discards and counts; a narrow or misaligned write is refused
with RANGE and ACC_ERR. -/
def Obligations.WritesByAddressComplete : Prop :=
  (∀ (pg off ag v : Nat) (w : View) (s : State), s.boot.inReset = false →
      (∀ b, pageBlk pg = some b → ownRow b off = false → off % 4 = 0 → 0x040 ≤ off →
        gateCode s pg off w ag v (fun l => ownRange s pg b off l && !(chipWide b off && pageRegion pg != 0)) (fun _ => ownState s pg b off) noBusy = rDONE →
        exec (.registerWrite pg off w ag 4 v) s
          = .next (settleReset (record pg ag (off / 4) 0xFF rDONE (ownEffect b off w v s ((gateVals s pg off w v).foldl (storeVal pg ag) s)))))
      ∧ (pageBlk pg = some .time → off % 4 = 0 → 0x040 ≤ off → off ∉ [0x118, 0x158, 0x200, 0x204] →
        gateCode s pg off w ag v (timeRange s) (timeState s) noBusy = rDONE →
        exec (.registerWrite pg off w ag 4 v) s
          = .next (settleReset (record pg ag (off / 4) 0xFF rDONE ((gateVals s pTIME off w v).foldl (storeVal pTIME ag) s))))
      ∧ (∀ b op arg f, pageBlk pg = some b → commandOf b op = some f → op < 256 → arg < 65536 →
        exec (.registerWrite pg 0x010 .normal ag 4 (65536 * arg + op)) s = .next (settleReset (after (f pg ag arg s) s)))
      ∧ (pageBlk pg ≠ none →
          exec (.registerWrite pg 0x01C .normal ag 4 v) s = .next (settleReset (commitWrite pg ag v s))
          ∧ (v < 2 ^ 20 → exec (.registerWrite pg 0x020 .normal ag 4 (2 ^ 30 + v)) s = .next (settleReset (lockCommand pg ag true false v s)))
          ∧ (exec (.registerWrite pg 0x020 .normal ag 4 (2 ^ 29)) s = .next (settleReset (lockCommand pg ag false true 0 s)))
          ∧ (lockedBy s pg ag = false → v &&& 0xFCF0FFFF = v → exec (.registerWrite pg 0x00C .clear ag 4 v) s
              = .next (settleReset (record pg ag 3 0xFF rDONE (clearHeader pg 0x00C v s))))
          ∧ (lockedBy s pg ag = false → v &&& 0xFFFFFFF8 = v → exec (.registerWrite pg 0x024 .clear ag 4 v) s
              = .next (settleReset (record pg ag 9 0xFF rDONE (clearHeader pg 0x024 v s)))))
      ∧ (off % 8 = 0 → exec (.registerWrite pg off w ag 8 v) s
          = .next (settleReset (pageWrite pg (off + 4) w ag (v / 2 ^ 32) (pageWrite pg off w ag (v % 2 ^ 32) s))))
      ∧ (∀ width, ¬ (width = 4 ∧ off % 4 = 0) → ¬ (width = 8 ∧ off % 8 = 0) → lockedBy s pg ag = false ∨ off / 4 = 8 →
        exec (.registerWrite pg off w ag width v) s
          = .next (settleReset (record pg ag (off / 4) 0xFF rRANGE (s.updPage pg (fun h => { h with accErr := true })))))
      ∧ (pageBlk pg = none → exec (.reservedPageWrite pg ag) s = .next (count (cChip 104) s))
      ∧ (∀ r q k d f m, r < 4 → q < 3 → k < 64 → d < 2 → f < 8 → m < 12 →
          (∃ t, exec (.quadModeWrite r q w ag v) s = .next t ∧ exec (.registerWrite (pPORT r) (0x380 + 0x20 * q) w ag 4 v) s = .next (settleReset t))
          ∧ (∃ t, exec (.quadLaneWrite r q w ag v) s = .next t ∧ exec (.registerWrite (pPORT r) (0x384 + 0x20 * q) w ag 4 v) s = .next (settleReset t))
          ∧ (∃ t, exec (.linkFilterWrite (12 * r + m) w ag v) s = .next t ∧ exec (.registerWrite (pPORT r) (0x088 + 0x40 * m) w ag 4 v) s = .next (settleReset t))
          ∧ (∃ t, exec (.linkFilterWrite (48 + d) w ag v) s = .next t ∧ exec (.registerWrite pHIF (0x104 + 0x20 * d) w ag 4 v) s = .next (settleReset t))
          ∧ (∃ t, exec (.mgmtModeWrite d w ag v) s = .next t ∧ exec (.registerWrite pHIF (0x100 + 0x20 * d) w ag 4 v) s = .next (settleReset t))
          ∧ (∃ t, exec (.msixPartitionWrite f w ag v) s = .next t ∧ exec (.registerWrite pHIF (0x060 + 4 * f) w ag 4 v) s = .next (settleReset t))
          ∧ (∃ t, exec (.injParWrite r w ag v) s = .next t ∧ exec (.registerWrite (pENG r) 0x040 w ag 4 v) s = .next (settleReset t))
          ∧ (∃ t, exec (.dbgWordWrite r w ag v) s = .next t ∧ exec (.registerWrite (pENG r) 0x068 w ag 4 v) s = .next (settleReset t))
          ∧ (∃ t, exec (.scratchLoWrite r k w ag v) s = .next t ∧ exec (.registerWrite (pENG r) (0x200 + 8 * k) w ag 4 v) s = .next (settleReset t))
          ∧ (∃ t, exec (.scratchHiWrite r k w ag v) s = .next t ∧ exec (.registerWrite (pENG r) (0x204 + 8 * k) w ag 4 v) s = .next (settleReset t))
          ∧ (∃ t, exec (.shaperSelect r w ag v) s = .next t ∧ exec (.registerWrite (pQSC r) 0x200 w ag 4 v) s = .next (settleReset t))
          ∧ (∃ t, exec (.rclkCtrlWrite d w ag v) s = .next t ∧ exec (.registerWrite pTIME (0x200 + 4 * d) w ag 4 v) s = .next (settleReset t))
          ∧ (∃ t, exec (.hostOffsetWrite d w ag v) s = .next t ∧ exec (.registerWrite pTIME (0x118 + 0x40 * d) w ag 4 v) s = .next (settleReset t))
          ∧ (∃ t, exec (.mateModeWrite w ag v) s = .next t ∧ exec (.registerWrite pMATE 0x040 w ag 4 v) s = .next (settleReset t))
          ∧ (∃ t, exec (.mateFwdWrite k d w ag v) s = .next t ∧ exec (.registerWrite pMATE (0x800 + 8 * k + 4 * d) w ag 4 v) s = .next (settleReset t))
          ∧ (∃ t, exec (.winGibWrite w ag v) s = .next t ∧ exec (.registerWrite pPEAT 0x040 w ag 4 v) s = .next (settleReset t)))
      ∧ (∀ t, t < 258 → ∃ u, exec (.intComplete t ag w v) s = .next u ∧ exec (.registerWrite pINT (0x400 + 4 * t) w ag 4 v) s = .next (settleReset u)))
  ∧ (∀ (n k r ag v : Nat) (s : State), s.boot.inReset = false →
      (n < 2048 → k < 8 → ∃ t, exec (.intSourceWrite n k ag v) s = .next t ∧ exec (.windowWrite (0x800000 + 32 * n + 4 * k) ag 4 v) s = .next (settleReset t))
      ∧ (n < 48 → k < 256 → r < 2 → ∃ t, exec (.gateListWrite n r k ag v) s = .next t
          ∧ exec (.windowWrite (0x880000 + 0x800 * n + 0x400 * r + 4 * k) ag 4 v) s = .next (settleReset t))
      ∧ (n < 4096 → k < 8 → ∃ t, exec (.recoveryEntryWrite n k ag v) s = .next t
          ∧ exec (.windowWrite (0x8A0000 + 32 * n + 4 * k) ag 4 v) s = .next (settleReset t))
      ∧ (n < 4096 → k < 16 → ∃ t, exec (.idEntryWrite n k ag v) s = .next t
          ∧ exec (.windowWrite (0x8C0000 + 64 * n + 4 * k) ag 4 v) s = .next (settleReset t))
      ∧ (r < 4 → n < 4608 → k < 4 → ∃ t, exec (.csWindowWrite r n k ag v) s = .next t
          ∧ exec (.windowWrite (0x900000 + 0x20000 * r + 16 * n + 4 * k) ag 4 v) s = .next (settleReset t))
      ∧ (n < 4096 → k < 16 → ∃ t, exec (.ringEntryWrite n k ag v) s = .next t
          ∧ exec (.windowWrite (0xA00000 + 64 * n + 4 * k) ag 4 v) s = .next (settleReset t))
      ∧ (n < 65536 → k < 16 → ∃ t, exec (.queueEntryWrite n k ag v) s = .next t
          ∧ exec (.windowWrite (0xC00000 + 64 * n + 4 * k) ag 4 v) s = .next (settleReset t))
      ∧ (n < 524288 → (∃ t, exec (.statLowWrite n ag v) s = .next t ∧ exec (.windowWrite (0x400000 + 8 * n) ag 4 v) s = .next (settleReset t))
          ∧ (∃ t, exec (.statHighWrite n ag v) s = .next t ∧ exec (.windowWrite (0x400004 + 8 * n) ag 4 v) s = .next (settleReset t))
          ∧ (lockedBy s pLDG ag = false → windowState s pLDG = true → exec (.windowWrite (0x400000 + 8 * n) ag 8 v) s
              = .next (settleReset (windowResult pLDG ag (0x400000 + 8 * n) rDONE (setCounter n v s)))))
      ∧ (∀ e, e < 256 → k < 4 → ag < 8 → lockedBy s pHIF ag = false → fnPresent s ag = true → e < s.rd pHIF F.HIF_MSIX_VEC_COUNT ag → v < 2 ^ 32 →
          (k = 3 → v ≤ 1) → windowState s pHIF = true → ∃ t, exec (.windowWrite (0x840000 + 16 * e + 4 * k) ag 4 v) s = .next (settleReset t)
            ∧ (t.page pHIF).resCode = rDONE ∧ t.hif.msix.get {} (s.rd pHIF F.HIF_MSIX_VEC_BASE ag + e)
              = (let x := s.hif.msix.get {} (s.rd pHIF F.HIF_MSIX_VEC_BASE ag + e)
                 if k = 0 then { x with addrLo := v / 4 * 4 } else if k = 1 then { x with addrHi := v } else if k = 2 then { x with data := v }
                 else { x with mask := v.testBit 0 }))
      ∧ (∀ a, 0x800000 ≤ a → a % 8 = 0 → ag < 8 → (windowPage s a).isSome = true →
          exec (.windowWrite a ag 8 v) s = .next (settleReset (windowWord (a + 4) ag (v / 2 ^ 32) (windowWord a ag (v % 2 ^ 32) s))))
      ∧ (∀ a width, 0x400000 ≤ a → windowPage s a = none → exec (.windowWrite a ag width v) s = .next (settleReset (count (cChip 104) s)))
      ∧ (∀ a width p, 0x400000 ≤ a → windowPage s a = some p → isBlk p .eng = false → ¬ (width = 4 ∧ a % 4 = 0) → ¬ (width = 8 ∧ a % 8 = 0) →
          lockedBy s p ag = false →
          exec (.windowWrite a ag width v) s = .next (settleReset (windowResult p ag a rRANGE (s.updPage p (fun h => { h with accErr := true })))))
      ∧ (∀ a width, 0x400000 ≤ a → windowPage s a = some (pENG r) → r < 4 → ¬ (width = 4 ∧ a % 4 = 0) → ¬ (width = 8 ∧ a % 8 = 0) →
          lockedBy s (pENG r) ag = false →
          exec (.windowWrite a ag width v) s = .next (settleReset (windowResult (pENG r) ag a rRANGE
            (((s.updPage (pENG r) (fun h => { h with accErr := true })).wr (pENG r) F.ENG_CS_WSTAT_CODE rRANGE).wr (pENG r) F.ENG_CS_WSTAT_WORD
              ((a - 0x900000) % 0x20000 / 16))))))

/-- The adaptive supply (R30 to R34): a margin, an evaluation that raises, lowers or keeps the voltage, the writes of SNS_AVS_CTRL, and a PMBus transaction that is not
acknowledged. -/
def Obligations.SupplyCommandsComplete : Prop :=
  ∀ (r ag v : Nat) (m : Int) (s : State),
    (s.inState pSNS .reset = false → 0 ≤ m → m ≤ 127 → r < 4 →
      ∃ t, exec (.speedSample r m) s = .next t ∧ t.rdS pSNS F.SNS_SPEED_REGION_MARGIN r = m
        ∧ t.sns.lowest = some (match s.sns.lowest with | some x => min x m | none => m)
        ∧ t = { s with reg := t.reg, sns := t.sns })
    ∧ (s.rdB pSNS F.SNS_AVS_CTRL_AVS_EN = true → s.emb.avsHeld = false → s.sns.lowest = some m →
        (s.rd pSNS F.SNS_AVS_CTRL_TARGET : Int) ≤ m → m ≤ (s.rd pSNS F.SNS_AVS_CTRL_TARGET : Int) + s.rd pSNS F.SNS_AVS_CTRL_HYST →
      exec .avsEval s = .next { s with sns := { s.sns with lowest := none, mMin := some m } })
    ∧ (s.rdB pSNS F.SNS_AVS_CTRL_AVS_EN = true → s.emb.avsHeld = false → s.sns.lowest = some m → m < (s.rd pSNS F.SNS_AVS_CTRL_TARGET : Int) →
        min (coreMv s + 5) (s.rd pSNS F.SNS_AVS_LIMITS_VMAX_MV) ≠ coreMv s →
      exec .avsEval s = .next (requestMv (min (coreMv s + 5) (s.rd pSNS F.SNS_AVS_LIMITS_VMAX_MV))
        { s with sns := { s.sns with lowest := none, mMin := some m } }))
    ∧ (s.rdB pSNS F.SNS_AVS_CTRL_AVS_EN = true → s.emb.avsHeld = false → s.sns.lowest = some m →
        (s.rd pSNS F.SNS_AVS_CTRL_TARGET : Int) + s.rd pSNS F.SNS_AVS_CTRL_HYST < m → max (coreMv s - 5) (s.rd pSNS F.SNS_AVS_LIMITS_VMIN_MV) ≠ coreMv s →
      exec .avsEval s = .next (requestMv (max (coreMv s - 5) (s.rd pSNS F.SNS_AVS_LIMITS_VMIN_MV))
        { s with sns := { s.sns with lowest := none, mMin := some m } }))
    ∧ (∀ mode vout acks, gateCode s pSNS 0x044 .normal ag v (avsRange s) noCheck noBusy = rDONE →
      exec (.avsEnable ag v mode vout acks) s = .next (record pSNS ag 17 0xFF rDONE
        (avsTaken s (some (mode, vout, acks)) (gateVals s pSNS 0x044 .normal v) ((gateVals s pSNS 0x044 .normal v).foldl (storeVal pSNS ag) s))))
    ∧ (gateCode s pSNS 0x044 .normal ag v (avsRange s) noCheck noBusy = rDONE →
      exec (.minRearm ag v) s = .next (record pSNS ag 17 0xFF rDONE
        (avsTaken s none (gateVals s pSNS 0x044 .normal v) ((gateVals s pSNS 0x044 .normal v).foldl (storeVal pSNS ag) s))))
    ∧ (s.rd pSNS F.SNS_AVS_STATUS_VREQ_MV ≠ 0 → s.rdB pSNS F.SNS_AVS_CTRL_AVS_EN = true → s.sns.nacks < 2 →
      exec .pmbusNack s = .next { s with sns := { s.sns with nacks := s.sns.nacks + 1 }, out := s.out ++ [.vout (s.rd pSNS F.SNS_AVS_STATUS_VREQ_MV) (voutWord s (s.rd pSNS F.SNS_AVS_STATUS_VREQ_MV))] })
    ∧ (s.rd pSNS F.SNS_AVS_STATUS_VREQ_MV ≠ 0 → s.rdB pSNS F.SNS_AVS_CTRL_AVS_EN = true → 2 ≤ s.sns.nacks →
      exec .pmbusNack s = .next (pmbusLost s))

/-- Ports and lanes (R74 to R101): the layouts, the link's filters and training, negotiation, preemption verification, recovered clocks, and the port
commands. -/
def Obligations.PortCommandsComplete : Prop :=
  ∀ (p r q ag v arg pg : Nat) (w : View) (s : State),
    (pageBlk (pPORT r) ≠ none → gateCode s (pPORT r) (0x380 + 0x20 * q) w ag v (quadModeRange s r q) (fun _ => quadIdle s r q) noBusy = rDONE →
      exec (.quadModeWrite r q w ag v) s = .next (record (pPORT r) ag ((0x380 + 0x20 * q) / 4) 0xFF rDONE
        ((gateVals s (pPORT r) (0x380 + 0x20 * q) w v).foldl (storeVal (pPORT r) ag) s)))
    ∧ (pageBlk (pPORT r) ≠ none → gateCode s (pPORT r) (0x384 + 0x20 * q) w ag v (quadLaneRange s r q) (quadLaneState s r q) noBusy = rDONE →
      exec (.quadLaneWrite r q w ag v) s = .next (record (pPORT r) ag ((0x384 + 0x20 * q) / 4) 0xFF rDONE
        ((gateVals s (pPORT r) (0x384 + 0x20 * q) w v).foldl (storeVal (pPORT r) ag) s)))
    ∧ (∀ cause, portFrozen s p = false → s.link_ p = lUP_FILTER → exec (.rawLinkFail p cause) s
        = .next (goDown p lDOWN (abortReceptions p (syncRclk (setFaults p cause (setRaw p 0 s))))))
    ∧ (∀ cause, portFrozen s p = false → s.link_ p = lUP → s.downFilt p ≠ 0 → exec (.rawLinkFail p cause) s
        = .next (changeUp p lDOWN_FILTER ((countFlap p (abortReceptions p (syncRclk (setFaults p cause (setRaw p 0 s))))).updPort p
            (fun x => { x with filterAt := s.now }))))
    ∧ (∀ cause, portFrozen s p = true → s.link_ p ≠ lDISABLED → exec (.rawLinkFail p cause) s
        = .next (syncRclk ((abortReceptions p (syncRclk (setFaults p cause (setRaw p 0 s)))).updPort p (fun x => { x with fencedRawFail := true }))))
    ∧ (portFrozen s p = false → s.link_ p = lDOWN_FILTER → exec (.rawLinkGood p) s
        = .next (changeUp p lUP (syncRclk (setFaults p 0 (setRaw p 1 s)))))
    ∧ (portFrozen s p = false → s.link_ p = lDOWN → exec (.rawLinkGood p) s = .next (fromDown p (syncRclk (setFaults p 0 (setRaw p 1 s)))))
    ∧ (s.link_ p = lDOWN_FILTER → portFrozen s p = false → exec (.downFilterExpiry p) s = .next (goDown p lDOWN s))
    ∧ (s.link_ p = lUP_FILTER → portFrozen s p = false → exec (.upFilterExpiry p) s = .next (goUp p s))
    ∧ (48 ≤ p → s.link_ p = lTRAINING → portFrozen s p = false → exec (.trainingComplete p false) s
        = .next (verifyIdle p (setLink_ p lDOWN (setRaw p 0 (setAnDone p 1 s)))))
    ∧ (p < 48 → s.link_ p = lTRAINING → portFrozen s p = false → exec (.trainingComplete p true) s
        = .next (verifyIdle p (fromDown p (setLink_ p lDOWN (setRaw p 1
            (setAnDone p (b2n (s.rdB (pPORT (portRegion p)) (laneAnF (p % 4)) (portCell p / 4))) s))))))
    ∧ (p < 48 → s.link_ p = lTRAINING → s.rdB (pPORT (portRegion p)) (laneAnF (p % 4)) (portCell p / 4) = true →
        exec (.anFail p) s = .next (portEvent p F.PORT_EVENT_AN_FAIL F.PORT_EVENT_AN_FAIL s))
    ∧ (p < 48 → gateCode s (pPORT (portRegion p)) (0x088 + 0x40 * portCell p) w ag v noCheck noCheck noBusy = rDONE →
        exec (.linkFilterWrite p w ag v) s = .next (record (pPORT (portRegion p)) ag ((0x088 + 0x40 * portCell p) / 4) 0xFF rDONE
          (filterNow p ((gateVals s (pPORT (portRegion p)) (0x088 + 0x40 * portCell p) w v).foldl (storeVal (pPORT (portRegion p)) ag) s))))
    ∧ (portFrozen s p = false → s.rd (pPORT (portRegion p)) F.PORT_STATUS_VERIFY_STATUS (portCell p) = 2 → (s.port p).verSent < 3 →
        exec (.verifyTimeout p) s = .next (emit (.verify p) (s.updPort p (fun x => { x with verSent := x.verSent + 1 }))))
    ∧ (portFrozen s p = false → s.rd (pPORT (portRegion p)) F.PORT_STATUS_VERIFY_STATUS (portCell p) = 2 → 3 ≤ (s.port p).verSent →
        exec (.verifyTimeout p) s = .next (portEvent p F.PORT_EVENT_VERIFY_FAILED F.PORT_EVENT_VERIFY_FAILED
          (s.wr (pPORT (portRegion p)) F.PORT_STATUS_VERIFY_STATUS 4 (portCell p))))
    ∧ (s.link_ p ≠ lDISABLED → preemptOn s p = true → s.rd (pPORT (portRegion p)) F.PORT_STATUS_VERIFY_STATUS (portCell p) = 2 →
        exec (.verifyResponseRx p) s = .next (syncPreempt p (s.wr (pPORT (portRegion p)) F.PORT_STATUS_VERIFY_STATUS 3 (portCell p))))
    ∧ (s.link_ p ≠ lDISABLED → preemptOn s p = true → exec (.verifyMpacketRx p) s = .next { s with out := s.out ++ [.verifyResponse p] })
    ∧ (s.link_ p ≠ lDISABLED → preemptOn s p = false → exec (.verifyMpacketRx p) s = .next (count (cPort p 9) s)
        ∧ exec (.verifyResponseRx p) s = .next (count (cPort p 9) s))
    ∧ (∀ k, gateCode s pTIME (0x200 + 4 * k) w ag v (rclkRange s k) noCheck noBusy = rDONE →
        exec (.rclkCtrlWrite k w ag v) s = .next (record pTIME ag ((0x200 + 4 * k) / 4) 0xFF rDONE
          ((gateVals s pTIME (0x200 + 4 * k) w v).foldl (storeVal pTIME ag) s)))
    ∧ (cmdCode s pg ag (portArg s pg arg) (stateIn s pg [.run] && s.link_ (12 * pageRegion pg + arg) = lDISABLED) = rDONE →
        exec (.portEnable pg ag arg) s = .next (record pg ag 4 0x40 rDONE (syncGuards (syncSub (pageRegion pg) (verifyIdle (12 * pageRegion pg + arg)
          ((startsOver (12 * pageRegion pg + arg) lTRAINING (setLink_ (12 * pageRegion pg + arg) lTRAINING s)).updPort (12 * pageRegion pg + arg) (fun x => { x with filterAt := s.now })))))))
    ∧ (cmdCode s pg ag (portArg s pg arg) (stateIn s pg [.run] && s.link_ (12 * pageRegion pg + arg) != lDISABLED) = rDONE →
        exec (.portDisable pg ag arg) s = .next ((s.updPort (12 * pageRegion pg + arg) (fun x => { x with disabling := true })).updPage pg
          (fun h => { h with cmd := some ⟨0x41, arg, ag, []⟩ })))
    ∧ ((s.port p).disabling = true → (s.port p).cur = none → exec (.portDisableDone p) s = .next (portDisabled p s))
    ∧ (cmdCode s pg ag (portArg s pg arg) (stateIn s pg [.run] && s.link_ (12 * pageRegion pg + arg) != lDISABLED) = rDONE →
        exec (.portRetrain pg ag arg) s
          = .next (record pg ag 4 0x42 rDONE (goDown (12 * pageRegion pg + arg) lTRAINING (abortReceptions (12 * pageRegion pg + arg) s))))

/-- The walk of a frame up to its routine, and its admission (R37, R82, R86 to R91, R109, R115, R162, R195, R260, R377). -/
def Obligations.FrameIntakeCompletes : Prop :=
  ∀ (p f : Nat) (d : List Byte) (s : State),
    (∀ complete frags broken stopped fec, pinsTested s = false → (fecCount p fec s).link_ p = lDOWN →
        (fecCount p fec s).inState (pPORT (portRegion p)) .run = true →
        exec (.frameReceive p d complete frags broken stopped fec) s = .next (count (cPort p 12) (fecCount p fec s)))
    ∧ (∀ complete frags broken stopped fec, pinsTested s = false → (fecCount p fec s).link_ p = lUP →
        (fecCount p fec s).inState (pPORT (portRegion p)) .run = true → ((fecCount p fec s).port p).rx = none →
        exec (.frameReceive p d complete frags broken stopped fec) s
          = .next (receive p d complete frags broken stopped (fifoFull (fecCount p fec s) p d.length) (fecCount p fec s)))
    ∧ (∀ rest frags broken, exec (.tailArrival p rest frags broken) s = .next (tailArrival p rest frags broken s))
    ∧ (∀ x : Frame, s.frames.find? f = some x → x.stage = .received → s.inState (pPRS x.region) .run = true → parserHolds s x = false →
      parsedBefore s f x = true → (parseFrame (parserIn s x.region x)).more = false → (parseFrame (parserIn s x.region x)).mal = none →
      (parseFrame (parserIn s x.region x)).slow = none →
        exec (.parseFrame f) s = .next (parseAction f 2 0 0 (1, 0) (s.updFrame f (fun y =>
          { y with prec := (parseFrame (parserIn s x.region x)).word, deferred := (parseFrame (parserIn s x.region x)).late }))))
    ∧ (∀ x : Frame, s.frames.find? f = some x → x.stage = .crossing → stateIn s pXBAR [.ready, .run] = true → twinTaken s x.region = true →
        exec (.twinArrival f) s = .next (s.updFrame f (fun x => { x with stage := .received })))
    ∧ (∀ x : Frame, s.frames.find? f = some x → x.stage = .retired → admitTurn s f x = true → blocksTake s x = true → headStored s x = true →
        exec (.admission f) s = .next (admitNow f x s))
    ∧ (∀ m stopped, pinsTested s = false → s.link_ (48 + m) ≠ lDISABLED → s.portUp (48 + m) = true →
        exec (.mgmtFrameRx m d stopped) s = .next (servedReceive (48 + m) d stopped s))
    ∧ (∀ m stopped, pinsTested s = false → s.link_ (48 + m) = lDOWN → exec (.mgmtFrameRx m d stopped) s = .next (count (cPort (48 + m) 12) s))
    ∧ (∀ (r e c k : Nat) (x : Frame), dispatching s r = true → s.eng.due.entries = [] → pickEngine s r = some (e, c) →
      pickFrame s r = some (k, f, x) → s.rdB (pENG r) F.ENG_DISPATCH_VALID (dispatchIdx x) = true → c < 8 →
        ∃ t, exec (.dispatch r) s = .next t ∧ (t.ctx e c).busy = true ∧ (t.ctx e c).frame = some f
          ∧ (t.ctx e c).pc = s.rd (pENG r) F.ENG_DISPATCH_PC (dispatchIdx x)
          ∧ (t.frames.find? f).map (·.stage) = (s.frames.find? f).map (fun _ => Stage.running))
    ∧ (∀ r e c i n u : Nat, dispatching s r = true → s.eng.due.entries.find? (fun (e : Nat × Nat × Nat) => e.1 / 8 = r) = some (i, n, u) →
      pickEngine s r = some (e, c) → s.rdB (pENG r) F.ENG_DISPATCH_VALID 12 = true →
        ∃ t, exec (.eventRoutineDispatch r) s = .next t ∧ (t.ctx e c).busy = true ∧ (t.ctx e c).frame = none
          ∧ (t.ctx e c).pc = s.rd (pENG r) F.ENG_DISPATCH_PC 12 ∧ t.eng.due = s.eng.due.erase i)

/-- Decision trees, exact match, longest prefix, the insert sequencer and the ager (R117 to R156). -/
def Obligations.TableCommandsComplete : Prop :=
  ∀ (pg ag arg e c n : Nat) (s : State),
    (cmdCode s pg ag (isBlk pg .prs && arg = 0 && nodeOk (stagedNode s pg)) (stateIn s pg [.ready, .run]) = rDONE →
      exec (.nodeWrite pg ag arg) s = .next (record pg ag 4 0x43 rDONE { s with tab := { s.tab with
        nodes := s.tab.nodes.put ⟨holeBits, false⟩ (s.rd pg F.PRS_NODE_IDX_INDEX) ⟨stagedNode s pg, false⟩ } }))
    ∧ (cmdCode s pg ag (isBlk pg .prs && arg = 0) (stateIn s pg [.ready, .run]) = rDONE →
      exec (.nodeRead pg ag arg) s = .next (record pg ag 4 0x44 rDONE (nodeRead pg s)))
    ∧ (s.inState pg .run = true → cmdCode s pg ag (isBlk pg .prs && arg < 64) true = rDONE →
      exec (.treeSwap pg ag arg) s = .next ((s.updPage pg (fun h => { h with substate := 1 })).updPage pg (fun h => { h with cmd := some ⟨0x42, arg, ag,
        [s.rd pg F.PRS_SWAP_CFG_NEW_ROOT, s.rd pg F.PRS_SWAP_CFG_NEW_VALID, s.rd pg F.PRS_SWAP_CFG_PORT_MASK, s.now]⟩ })))
    ∧ (s.inState pg .run = false → cmdCode s pg ag (isBlk pg .prs && arg < 64) (stateIn s pg [.ready]) = rDONE →
      exec (.treeSwap pg ag arg) s = .next (record pg ag 4 0x42 rDONE
        (switchRoot pg arg (s.rd pg F.PRS_SWAP_CFG_NEW_ROOT) (s.rd pg F.PRS_SWAP_CFG_NEW_VALID) s)))
    ∧ (∀ (r : Nat) (k : RunCmd), (s.page (pPRS r)).cmd = some k → k.op = 0x42 → (k.ops[2]?).getD 0 = 0 → maskedRoutines s r 0 = [] →
      exec (.treeSwapRootSwitch r) s = .next (finishCmd (pPRS r) rDONE
        (((switchRoot (pPRS r) k.arg ((k.ops[0]?).getD 0) ((k.ops[1]?).getD 0) s).wr (pPRS r) F.PRS_SWAP_STATUS_LAST_PAUSE_NS
          ((s.now - (k.ops[3]?).getD 0) / nsU)).updPage (pPRS r) (fun h => { h with substate := 0 }))))
    ∧ (∀ (t : Tag) (w mode : Nat) (upsets : List (Nat × Bool)), s.inState (pLKP (engRegion e)) .run = true → n < 8 →
      outstanding s e c n = some t → t.kind = .em w mode →
      exec (.emLookupComplete e c n upsets) s
        = .next (answerTag e c n (emLookup (engRegion e) (((s.ctx e c).theFrame s).map (·.port)) w (keyOf w t.key) mode upsets s).1
            (emLookup (engRegion e) (((s.ctx e c).theFrame s).map (·.port)) w (keyOf w t.key) mode upsets s).2))
    ∧ (∀ (t : Tag) (upsets : List (Nat × Bool)), s.inState (pLKP (engRegion e)) .run = true → n < 8 → outstanding s e c n = some t → t.kind = .lpm →
      exec (.lpmLookupComplete e c n upsets) s
        = .next (answerTag e c n (lpmLookup (engRegion e) t.key upsets s).1 (lpmLookup (engRegion e) t.key upsets s).2))
    ∧ (∀ (t : Tag) (k : Nat) (upsets : List (Nat × Bool)), s.inState (pPRS (engRegion e)) .run = true → n < 8 →
      outstanding s e c n = some t → t.kind = .tree k →
      exec (.treeWalkComplete e c n upsets) s
        = .next (answerTag e c n (treeLookup (engRegion e) k t.key upsets s).1 (treeLookup (engRegion e) k t.key upsets s).2))
    ∧ (∀ (q : SeqReq) (l : List SeqReq) (upsets : List (Nat × Bool)), s.tab.seqQ = q :: l → q.insert = true →
      exec (.sequencerInsert upsets) s = .next (seqStep q upsets { s with tab := { s.tab with seqQ := l } }))
    ∧ (∀ (q : SeqReq) (l : List SeqReq) (upsets : List (Nat × Bool)), s.tab.seqQ = q :: l → q.insert = false →
      exec (.sequencerDelete upsets) s = .next (seqStep q upsets { s with tab := { s.tab with seqQ := l } }))
    ∧ (s.rdB pBOOT F.BOOT_STATUS_DONE = true → ∃ t, exec .tick s = .next t ∧ t.tick = (s.tick + 1) % 65536 ∧ t = { s with reg := t.reg })
    ∧ (∀ upsets : List (Nat × Bool), s.tab.agerReads = [] → s.rdB (pLKP 0) F.LKP_AGE_CFG_AGER_EN = true → ∀ s1,
      readSlots 0 (agerReadsSlot s.tab.agerPlace) upsets { s with tab := { s.tab with agerReads := [] } } = s1 →
      exec (.agerVisit true upsets) s = .next { s1 with tab := { s1.tab with
        agerPlace := (s.tab.agerPlace + 1) % agerPlaces
        agerReads := (agerGroups s1 s.tab.agerPlace).filterMap (fun e => if agerTakes s1 e.1 e.2 then some (⟨e.1, e.2.ts⟩ : AgerRead) else none) } })
    ∧ (∀ (a : AgerRead) (upsets : List (Nat × Bool)), s.tab.agerReads = [a] → (agerCompare a { s with tab := { s.tab with agerReads := [] } }).rdB (pLKP 0)
        F.LKP_AGE_CFG_AGER_EN = false →
      exec (.agerVisit true upsets) s = .next (agerCompare a { s with tab := { s.tab with agerReads := [] } }))
    ∧ (∀ upsets : List (Nat × Bool),
      (cmdCode s pg ag (isBlk pg .lkp && arg = 0 && !mateBlocks (seqDrain s) pg true) (stateIn s pg [.ready, .run]) = rDONE → ∀ found l wh s1,
        emInsert (stagedWidth s pg) (stagedKey s pg) (stagedAction s pg) (s.rdB pg F.LKP_ACT_HI_STATIC) (s.rdB pg F.LKP_ACT_HI_MATE) (searched pg upsets s)
          = (some (found, l, wh), s1) → exec (.emInsert pg ag arg upsets) s = .next (record pg ag 4 0x42 rDONE (cmdOut pg found wh l s1)))
      ∧ (cmdCode s pg ag (isBlk pg .lkp && arg = 0 && !mateBlocks (seqDrain s) pg false) (stateIn s pg [.ready, .run]) = rDONE → ∀ l wh s1,
        emDelete (stagedWidth s pg) (stagedKey s pg) (searched pg upsets s) = (some (l, wh), s1) →
          exec (.emDelete pg ag arg upsets) s = .next (record pg ag 4 0x43 rDONE (cmdOut pg true wh l s1)))
      ∧ (cmdCode s pg ag (isBlk pg .lkp && arg = 0) (stateIn s pg [.ready, .run]) = rDONE →
        exec (.emSearch pg ag arg upsets) s = .next (record pg ag 4 0x44 (emSearch pg upsets s).2 (emSearch pg upsets s).1))
      ∧ (cmdCode s pg ag (isBlk pg .lkp && arg = 0 && s.tab.groups.has (s.rd pg F.LKP_CMD_ARG_LOCATION)) (stateIn s pg [.ready, .run]) = rDONE →
        exec (.emRead pg ag arg upsets) s = .next (record pg ag 4 0x45 (emRead pg upsets s).2 (emRead pg upsets s).1))
      ∧ (cmdCode s pg ag (isBlk pg .lkp && arg = 0) (stateIn s pg [.ready, .run]) = rDONE →
        exec (.lpmRead pg ag arg upsets) s = .next (record pg ag 4 0x47 rDONE (lpmRead pg upsets s))))
    ∧ (cmdCode s pg ag (isBlk pg .lkp && arg = 0
        && lpmOk s (s.rd pg F.LKP_LPM_IDX_INDEX) (stagedPrefix s pg).plen (stagedPrefix s pg).fam (stagedPrefix s pg).key) (stateIn s pg [.ready, .run]) = rDONE →
      exec (.lpmWrite pg ag arg) s = .next (record pg ag 4 0x46 rDONE (syncLpm { s with tab := { s.tab with
        lpm := s.tab.lpm.put noPrefix (s.rd pg F.LKP_LPM_IDX_INDEX) (stagedPrefix s pg)
        lpmBad := s.tab.lpmBad.filter (· != s.rd pg F.LKP_LPM_IDX_INDEX) } })))
    ∧ (pg = pLKP 0 → arg < 4 → isStandby s = false → cmdCode s pg ag true (stateIn s pg [.ready, .run]) = rDONE →
      exec (.tableClear pg ag arg) s = .next (((tableClear arg s).updPage pg (fun h => { h with substate := 1 })).updPage pg
        (fun h => { h with cmd := some ⟨0x48, arg, ag, []⟩ })))

/-! ### Micro-instructions (R185 to R192) -/

/-- The ALU operations (R186): each retires with its result in the destination and, under SETF, its flags; CMP and TST write the flags alone. -/
def Obligations.AluOperationsRetire : Prop :=
  ∀ (s : State) (e c : Nat) (mi : MI) (a b : Nat) (x : Ctx),
    (Issues s e c 0x10 mi a b x → Retires (.opMov e c) s e c 0x10 mi (aluStep mi ⟨a, false, false⟩ x))
    ∧ (Issues s e c 0x11 mi a b x → Retires (.opAdd e c) s e c 0x11 mi (aluStep mi (aluAdd a b) x))
    ∧ (Issues s e c 0x12 mi a b x → Retires (.opSub e c) s e c 0x12 mi (aluStep mi (aluSub a b) x))
    ∧ (Issues s e c 0x13 mi a b x → Retires (.opAnd e c) s e c 0x13 mi (aluStep mi ⟨a &&& b, false, false⟩ x))
    ∧ (Issues s e c 0x14 mi a b x → Retires (.opOr e c) s e c 0x14 mi (aluStep mi ⟨a ||| b, false, false⟩ x))
    ∧ (Issues s e c 0x15 mi a b x → Retires (.opXor e c) s e c 0x15 mi (aluStep mi ⟨a ^^^ b, false, false⟩ x))
    ∧ (Issues s e c 0x16 mi a b x → Retires (.opAndn e c) s e c 0x16 mi (aluStep mi ⟨a &&& (b ^^^ (2 ^ 64 - 1)), false, false⟩ x))
    ∧ (Issues s e c 0x17 mi a b x → Retires (.opShl e c) s e c 0x17 mi (aluStep mi (aluShl a b) x))
    ∧ (Issues s e c 0x18 mi a b x → Retires (.opShr e c) s e c 0x18 mi (aluStep mi (aluShr a b) x))
    ∧ (Issues s e c 0x19 mi a b x → Retires (.opSar e c) s e c 0x19 mi (aluStep mi (aluSar a b) x))
    ∧ (Issues s e c 0x1A mi a b x → Retires (.opRotl e c) s e c 0x1A mi (aluStep mi (aluRotl a b) x))
    ∧ (Issues s e c 0x1B mi a b x → Retires (.opMin e c) s e c 0x1B mi (aluStep mi ⟨min a b, false, false⟩ x))
    ∧ (Issues s e c 0x1C mi a b x → Retires (.opMax e c) s e c 0x1C mi (aluStep mi ⟨max a b, false, false⟩ x))
    ∧ (Issues s e c 0x1D mi a b x → Retires (.opCmp e c) s e c 0x1D mi (x.znvc (aluSub a b).r (aluSub a b).c (aluSub a b).v))
    ∧ (Issues s e c 0x1E mi a b x → Retires (.opTst e c) s e c 0x1E mi (x.znvc (a &&& b) false false))
    ∧ (Issues s e c 0x1F mi a b x → Retires (.opMul e c) s e c 0x1F mi (aluStep mi ⟨w64 (a * b), false, false⟩ x))

/-- The arithmetic of R186 and R181 is that of 64-bit words: sums, differences and products modulo 2^64 with carry, borrow and signed overflow; shifts
by the low six bits of B; SAR divides a signed number rounding down; ROTL rotates. -/
def Obligations.AluResultsAreWordArithmetic : Prop :=
  ∀ a b : Nat, a < 2 ^ 64 → b < 2 ^ 64 →
    BitVec.ofNat 64 (aluAdd a b).r = BitVec.ofNat 64 a + BitVec.ofNat 64 b ∧ ((aluAdd a b).c = true ↔ 2 ^ 64 ≤ a + b)
    ∧ ((aluAdd a b).v = true ↔ ¬ (-(2 ^ 63) ≤ toSigned 64 a + toSigned 64 b ∧ toSigned 64 a + toSigned 64 b < 2 ^ 63))
    ∧ BitVec.ofNat 64 (aluSub a b).r = BitVec.ofNat 64 a - BitVec.ofNat 64 b ∧ ((aluSub a b).c = true ↔ b ≤ a)
    ∧ ((aluSub a b).v = true ↔ ¬ (-(2 ^ 63) ≤ toSigned 64 a - toSigned 64 b ∧ toSigned 64 a - toSigned 64 b < 2 ^ 63))
    ∧ BitVec.ofNat 64 (aluShl a b).r = BitVec.ofNat 64 a <<< (b % 64) ∧ BitVec.ofNat 64 (aluShr a b).r = BitVec.ofNat 64 a >>> (b % 64)
    ∧ toSigned 64 (aluSar a b).r = toSigned 64 a / 2 ^ (b % 64)
    ∧ BitVec.ofNat 64 (aluRotl a b).r = (BitVec.ofNat 64 a).rotateLeft b
    ∧ BitVec.ofNat 64 (w64 (a * b)) = BitVec.ofNat 64 a * BitVec.ofNat 64 b
    ∧ (aluAdd a b).r < 2 ^ 64 ∧ (aluSub a b).r < 2 ^ 64 ∧ (aluShl a b).r < 2 ^ 64 ∧ (aluShr a b).r < 2 ^ 64 ∧ (aluSar a b).r < 2 ^ 64 ∧ (aluRotl a b).r < 2 ^ 64

/-- The field operations (R187) and NOP (R185). -/
def Obligations.FieldOperationsRetire : Prop :=
  ∀ (s : State) (e c : Nat) (mi : MI) (a b : Nat) (x : Ctx),
    (Issues s e c 0x00 mi a b x → Retires (.opNop e c) s e c 0x00 mi x)
    ∧ (Issues s e c 0x20 mi a b x → Retires (.opExt e c) s e c 0x20 mi (aluStep mi ⟨bitsOf a (mi.fofs.toNat + mi.fwid.toNat) mi.fofs.toNat, false, false⟩ x))
    ∧ (Issues s e c 0x21 mi a b x → Retires (.opIns e c) s e c 0x21 mi (aluStep mi ⟨putBits a mi.fofs.toNat (mi.fwid.toNat + 1) b, false, false⟩ x))
    ∧ (Issues s e c 0x22 mi a b x → Retires (.opBswap e c) s e c 0x22 mi (aluStep mi ⟨bswap (mi.mod.toNat + 1) a, false, false⟩ x))
    ∧ (Issues s e c 0x23 mi a b x → Retires (.opClz e c) s e c 0x23 mi (aluStep mi ⟨clz64 a, false, false⟩ x))
    ∧ (Issues s e c 0x24 mi a b x → Retires (.opPopc e c) s e c 0x24 mi (aluStep mi ⟨popc64 a, false, false⟩ x))
    ∧ (Issues s e c 0x25 mi a b x → ∀ h,
        h = hashOf s (mi.mod.toNat % 2) (mi.mod.toNat / 2 % 4) (x.key % 2 ^ (32 * keyWords (mi.mod.toNat / 2 % 4))) →
        Retires (.opHash e c) s e c 0x25 mi (aluStep mi ⟨h + hashBucket h * 2 ^ 32, false, false⟩ x))

/-- The header, key, verdict, counter and scratch operations (R188, R189, R191, R192): with their bytes here, their extents in the frame and room to stage
them, each retires with its effect staged in the context. -/
def Obligations.StagingOperationsRetire : Prop :=
  ∀ (s : State) (e c : Nat) (mi : MI) (a b : Nat) (x : Ctx),
    (Issues s e c 0x30 mi a b x → ∀ y v, x.theFrame s = some y → windowRead y (a + mi.imm.toNat) (mi.mod.toNat % 8 + 1) = .ok v →
      Retires (.opHrd e c) s e c 0x30 mi (dstWrite mi.dst.toNat v x))
    ∧ (Issues s e c 0x31 mi a b x → ∀ y z, x.theFrame s = some y →
      stageEdit y (a + mi.imm.toNat) (mi.mod.toNat % 8 + 1) (.write (a + mi.imm.toNat) (beBytes (mi.mod.toNat % 8 + 1) b)) x = .ok z → Retires (.opHwr e c) s e c 0x31 mi z)
    ∧ (Issues s e c 0x32 mi a b x → ∀ y z, x.theFrame s = some y →
      stageEdit y (a + mi.imm.toNat) 0 (.insert (a + mi.imm.toNat) (beBytes (mi.mod.toNat % 8 + 1) b)) x = .ok z → Retires (.opHins e c) s e c 0x32 mi z)
    ∧ (Issues s e c 0x33 mi a b x → ∀ y z, x.theFrame s = some y →
      stageEdit y (a + mi.imm.toNat) (mi.mod.toNat + 1) (.delete (a + mi.imm.toNat) (mi.mod.toNat + 1)) x = .ok z → Retires (.opHdel e c) s e c 0x33 mi z)
    ∧ (Issues s e c 0x34 mi a b x → Retires (.opHfix e c) s e c 0x34 mi { x with fixups := x.fixups ||| (mi.mod.toNat % 8) })
    ∧ (Issues s e c 0x40 mi a b x → Retires (.opKclr e c) s e c 0x40 mi { x with key := 0 })
    ∧ (Issues s e c 0x41 mi a b x → Retires (.opKput e c) s e c 0x41 mi { x with key := putBits x.key mi.fofs.toNat (mi.fwid.toNat + 1) a })
    ∧ (Issues s e c 0x42 mi a b x → ∀ y v b0 b1, x.theFrame s = some y → b0 = 8 * a + mi.imm.toNat → b1 = b0 + mi.fwid.toNat →
      windowRead y (b0 / 8) (b1 / 8 - b0 / 8 + 1) = .ok v →
      Retires (.opKhdr e c) s e c 0x42 mi { x with key := putBits x.key mi.fofs.toNat (mi.fwid.toNat + 1) (v / 2 ^ (7 - b1 % 8)) })
    ∧ (Issues s e c 0x60 mi a b x → ∀ d, setVerdict (mi.mod.toNat % 8) (fieldOf mi a) x.verdict = some d →
      Retires (.opSetv e c) s e c 0x60 mi { x with verdict := d })
    ∧ (Issues s e c 0x61 mi a b x → a + mi.imm.toNat ≤ 524287 → x.incs.length < 8 →
      Retires (.opCnt e c) s e c 0x61 mi { x with incs := x.incs ++ [(a + mi.imm.toNat, b)] })
    ∧ (Issues s e c 0x62 mi a b x →
      Retires (.opSld e c) s e c 0x62 mi (dstWrite mi.dst.toNat (s.eng.scratch.get 0 (64 * engRegion e + mi.imm.toNat % 64)) x))
    ∧ (Issues s e c 0x63 mi a b x → x.scr.length < 8 →
      Retires (.opSst e c) s e c 0x63 mi { x with scr := x.scr ++ [.store (mi.imm.toNat % 64) (BitVec.ofNat 64 a)] })
    ∧ (Issues s e c 0x64 mi a b x → x.scr.length < 8 →
      Retires (.opSadd e c) s e c 0x64 mi { x with scr := x.scr ++ [.add (mi.imm.toNat % 64) (BitVec.ofNat 64 a)] })

/-- The lookup operations (R167 to R171, R190): a lookup takes its tag and a slot of the pool; WAIT and WAITM free the tags they find answered and set H;
TREL frees tags at once. -/
def Obligations.LookupOperationsRetire : Prop :=
  ∀ (s : State) (e c : Nat) (mi : MI) (a b : Nat) (x : Ctx),
    (∀ (k : LookKind) (n : Nat), n = mi.mod.toNat % 8 → (x.tag n).st ≠ .busy → ((x.tag n).st = .free → poolUsed s e < 16) →
      (Issues s e c 0x50 mi a b x → k = .em (mi.mod.toNat / 8 % 4) (mi.imm.toNat % 4) →
        Retires (.opLem e c) s e c 0x50 mi (x.setTag n (fun _ => { st := .busy, kind := k, key := x.key })))
      ∧ (Issues s e c 0x51 mi a b x → k = .lpm →
        Retires (.opLpm e c) s e c 0x51 mi (x.setTag n (fun _ => { st := .busy, kind := k, key := x.key })))
      ∧ (Issues s e c 0x52 mi a b x → k = .tree (mi.imm.toNat % 64) →
        Retires (.opLtree e c) s e c 0x52 mi (x.setTag n (fun _ => { st := .busy, kind := k, key := x.key }))))
    ∧ (∀ n, n = mi.mod.toNat % 8 → (x.tag n).st = .done → Issues s e c 0x53 mi a b x →
      Retires (.opWait e c) s e c 0x53 mi { dstWrite mi.dst.toNat (x.tag n).result (x.freeTag n) with h := (x.tag n).hit })
    ∧ (∀ l, l = maskTags mi.imm.toNat → (∀ n ∈ l, (x.tag n).st ≠ .busy ∧ (x.tag n).st ≠ .fault) → Issues s e c 0x54 mi a b x →
      Retires (.opWaitm e c) s e c 0x54 mi { l.foldl (fun x n => x.freeTag n) x with h := l.all (fun n => tagHit x n) })
    ∧ (Issues s e c 0x55 mi a b x → Retires (.opTrel e c) s e c 0x55 mi ((maskTags mi.imm.toNat).foldl (fun x n => x.freeTag n) x))

/-- The control operations (R173, R185, R208 to R213): RETIRE and DROPR end the run, CALL, RETN and JIND move the micro-PC, BRK goes on while breaks are off,
and TRAP_SLOW enters its vector. -/
def Obligations.ControlOperationsRetire : Prop :=
  ∀ (s : State) (e c : Nat) (mi : MI) (a b : Nat) (x : Ctx),
    (Issues s e c 0x01 mi a b x → exec (.opRetire e c) s
      = .next (forceCaptures e (noteTime e c mi (endRun e c (x.took 1) none (served e c s)))))
    ∧ (Issues s e c 0x02 mi a b x → exec (.opDropr e c) s
      = .next (forceCaptures e (noteTime e c mi (endRun e c (x.took 1) (some (mi.imm.toNat % 16)) (served e c s)))))
    ∧ (Issues s e c 0x03 mi a b x → x.inTrap = false → ∀ v, trapVec s e 3 = some v →
      ∃ t, exec (.opTrapSlow e c) s = .next t ∧ (t.ctx e c).pc = v ∧ (t.ctx e c).inTrap = true
        ∧ (t.ctx e c).trap = some (x.save 3 0 0 x.pc (x.pc + 1) mi.imm.toNat) ∧ (t.ctx e c).stack = [x.pc + 1])
    ∧ (Issues s e c 0x04 mi a b x → s.rdB (pENG (engRegion e)) F.ENG_CTRL_BRK_EN = false → Retires (.opBrk e c) s e c 0x04 mi x)
    ∧ (Issues s e c 0x05 mi a b x → condHolds mi.cond.toNat x = true → x.stack.length < 4 →
      ∃ t, exec (.opCall e c) s = .next t ∧ (t.ctx e c).pc = mi.target.toNat ∧ (t.ctx e c).stack = (x.pc + 1) :: x.stack ∧ t = { s with eng := t.eng })
    ∧ (Issues s e c 0x05 mi a b x → condHolds mi.cond.toNat x = false →
      ∃ t, exec (.opCall e c) s = .next t ∧ (t.ctx e c).pc = x.pc + 1 ∧ (t.ctx e c).stack = x.stack ∧ t = { s with eng := t.eng })
    ∧ (∀ r l, Issues s e c 0x06 mi a b x → x.inTrap = false → x.stack = r :: l →
      ∃ t, exec (.opRetn e c) s = .next t ∧ (t.ctx e c).pc = r ∧ (t.ctx e c).stack = l ∧ t = { s with eng := t.eng })
    ∧ (∀ (r : Nat) (q : TrapFrame), Issues s e c 0x06 mi a b x → x.inTrap = true → x.stack = [r] → x.trap = some q →
      ∃ t, exec (.opRetn e c) s = .next t ∧ (t.ctx e c).pc = q.resumePc ∧ (t.ctx e c).stack = q.stack ∧ (t.ctx e c).inTrap = false
        ∧ t = { s with eng := t.eng })
    ∧ (Issues s e c 0x07 mi a b x → a % 2 ^ 13 ≤ maxPc →
      ∃ t, exec (.opJind e c) s = .next t ∧ (t.ctx e c).pc = a % 2 ^ 13 ∧ t = { s with eng := t.eng })

/-- A retired micro-instruction branches to TARGET when COND holds on the flags its effect left, and else goes on at micro-PC + 1 (R182): the COND table.
It takes two slots when it is MUL, HASH, HINS or HDEL and one otherwise (R184). -/
def Obligations.BranchesFollowCond : Prop :=
  ∀ (op : Nat) (mi : MI) (x y : Ctx),
    (retired op mi x y).pc = (if (match mi.cond.toNat with
        | 0 => false | 1 => true | 2 => y.z | 3 => !y.z | 4 => y.c | 5 => !y.c | 6 => y.n | 7 => !y.n | 8 => y.v | 9 => y.h | 10 => !y.h
        | 11 => y.tw | 12 => y.ps | 13 => y.mal | 14 => y.c && !y.z | _ => y.n != y.v) then mi.target.toNat else y.pc + 1)
    ∧ (retired op mi x y).slots = x.slots + (if op = 0x1F ∨ op = 0x25 ∨ op = 0x32 ∨ op = 0x33 then 2 else 1)
    ∧ (retired op mi x y).u = y.u ∧ (retired op mi x y).key = y.key

/-- The micro-instruction word and its fields (R179): every set of fields survives encoding, every word survives decoding, and so no two sets of fields share a
word. -/
def Obligations.MicroInstructionRoundTrip : Prop :=
  (∀ i : MI, miDecode (miEncode i) = i) ∧ (∀ w : BitVec 128, miEncode (miDecode w) = w)
    ∧ (∀ (i : MI) (w : BitVec 128), miEncode i = w → i.opcode = w.toNat / 2 ^ 120 ∧ i.imm.toNat = w.toNat / 2 ^ 64 % 2 ^ 32
        ∧ i.cond.toNat = w.toNat / 2 ^ 60 % 2 ^ 4 ∧ i.target.toNat = w.toNat / 2 ^ 43 % 2 ^ 13 ∧ i.fofs.toNat = w.toNat / 2 ^ 32 % 2 ^ 11)

/-- Words written out from R179 and the opcode tables of R185 to R187 decode to the operations they spell: `u2 = u5 + 8` with SETF that branches to 0x123 when Z,
`u1 =` bits 27:12 of `u0`, RETIRE and NOP. Words that break R183 are not legal: an opcode that no table lists, a reserved bit, a bit that the operation does not use. -/
def Obligations.SampleMicroInstructionWords : Prop :=
  (∀ i, i = miDecode 0x11085400000000082809180000000000 → i.opcode = 0x11 ∧ i.dst = 2 ∧ i.srcA = 5 ∧ i.srcB = 0x10 ∧ i.imm = 8 ∧ i.cond = 2 ∧ i.setf = 1
      ∧ i.target = 0x123 ∧ i.legal = true)
    ∧ (∀ i, i = miDecode 0x20040000000000000000000C3C000000 → i.opcode = 0x20 ∧ i.dst = 1 ∧ i.srcA = 0 ∧ i.fofs = 12 ∧ i.fwid = 15 ∧ i.legal = true)
    ∧ (∀ i, i = miDecode 0x01000000000000000000000000000000 → i.opcode = 0x01 ∧ i.legal = true)
    ∧ (miDecode 0).opcode = 0x00 ∧ (miDecode 0).legal = true
    ∧ (miDecode 0x08000000000000000000000000000000).legal = false
    ∧ (miDecode 0x00000000000000000700000000000000).legal = false
    ∧ (miDecode 0x01000000000000000000000000000001).legal = false
    ∧ (miDecode 0x11085401000000082809180000000000).legal = false

/-! ### The engine block -/

/-- Limits, machine checks, counters, captures, snapshots, the debug access, the control store, samples and scratch words (R194, R201 to R223). -/
def Obligations.EngineCommandsComplete : Prop :=
  ∀ (pg ag arg e c n r v : Nat) (w : View) (s : State),
    ((s.ctx e c).busy = true → (s.ctx e c).halted = false → s.inState (pENG (engRegion e)) .run = true → (s.ctx e c).pc ≤ maxPc →
      s.rd (pENG (engRegion e)) F.ENG_CTRL_MAX_STEPS < (s.ctx e c).slots + opSlots (miDecode (csWord s (engRegion e) (s.ctx e c).pc)).opcode → exec (.routineLimit e c) s = .next (routineFault e c fLIMIT s))
    ∧ ((s.ctx e c).busy = true → (s.ctx e c).halted = false → s.inState (pENG (engRegion e)) .run = true → (s.ctx e c).pc ≤ maxPc →
      csGood s (engRegion e) (s.ctx e c).pc = false → (csPeer (pcnt e 0x0E s) (engRegion e) (s.ctx e c).pc).isSome = true → (s.ctx e c).checks < 2 →
      exec (.machineCheck e c) s = .next (abandon e c (csRepair (engRegion e) (s.ctx e c).pc
        ((pcnt e 0x0E s).setCtx e c { s.ctx e c with checks := (s.ctx e c).checks + 1 })).2))
    ∧ (n < 8 → 2 ^ 32 ≤ s.eng.pcnt.get 0 (8 * e + n) → ∀ x t,
      x = s.rd (pENG (engRegion e)) F.ENG_RELOAD_RELOAD n + (s.eng.pcnt.get 0 (8 * e + n) - 2 ^ 32) →
      t = { s with eng := { s.eng with pcnt := s.eng.pcnt.put 0 (8 * e + n) x
                                       passed := s.eng.passed.put 0 (8 * e + n) (if 2 ^ 32 ≤ x then s.eng.retired.get 0 e else 0) } }.setF
        (pENG (engRegion e)) (ovfF n) (e % 16) →
      (s.rd (pENG (engRegion e)) F.ENG_PCFG_OVF_ACT n = 0 → exec (.pcntOverflow e n) s = .next t)
      ∧ (s.rd (pENG (engRegion e)) F.ENG_PCFG_OVF_ACT n = 1 → exec (.pcntOverflow e n) s = .next (srcEvent (regSource (engRegion e) 3) t))
      ∧ (2 ≤ s.rd (pENG (engRegion e)) F.ENG_PCFG_OVF_ACT n → exec (.pcntOverflow e n) s = .next { t with eng := { t.eng with
          captures := s.eng.captures ++ [⟨e, n, s.rd (pENG (engRegion e)) F.ENG_PCFG_OVF_ACT n = 3, s.eng.passed.get 0 (8 * e + n)⟩] } }))
    ∧ (∀ (q : OvfCap) (pc : Nat) (ended : Bool), s.eng.captures.find? (fun k => k.engine = e) = some q → s.eng.lastRet.find? e = some (c, pc, ended) → ∀ t,
      t = pushSample (engRegion e) (sampleRecord e c q.counter pc s.sNow) { s with eng := { s.eng with captures := s.eng.captures.erase q } } →
      (q.trap = false → exec (.overflowCapture e c) s = .next t)
      ∧ (∀ a, q.trap = true → trapVec t e 2 = some a → ended = false → (s.ctx e c).busy = true → (s.ctx e c).inTrap = false → (s.ctx e c).halted = false →
        exec (.overflowCapture e c) s = .next (takeTrap e c a ((s.ctx e c).save 2 q.counter 0 pc (s.ctx e c).pc 0) t)))
    ∧ (cmdCode s pg ag (isBlk pg .eng && arg = 0) (stateIn s pg [.ready, .run, .fenced]) = rDONE →
      exec (.cntSnap pg ag arg) s = .next (record pg ag 4 0x42 rDONE (cntSnap pg s)))
    ∧ (cmdCode s pg ag (isBlk pg .eng && arg = 0) (stateIn s pg [.ready, .run, .fenced]) = rDONE →
      exec (.engCntClear pg ag arg) s = .next (record pg ag 4 0x43 rDONE (cntClear pg s)))
    ∧ (cmdCode s pg ag (isBlk pg .eng && arg = 0) (stateIn s pg [.ready, .run]) = rDONE →
      exec (.csScrub pg ag arg) s = .next (s.updPage pg (fun h => { h with cmd := some ⟨0x44, arg, ag, []⟩ })))
    ∧ (∀ q : TrapFrame, cmdCode s pg ag (isBlk pg .eng && arg < 128) (stateIn s pg [.run] && (s.ctx (16 * pageRegion pg + arg % 16) (arg / 16)).halted) = rDONE →
      (s.ctx (16 * pageRegion pg + arg % 16) (arg / 16)).trap = some q →
      exec (.dbgResume pg ag arg) s = .next (record pg ag 4 0x45 rDONE (s.setCtx (16 * pageRegion pg + arg % 16) (arg / 16)
        { (s.ctx (16 * pageRegion pg + arg % 16) (arg / 16)).setFlags q.flags with u := q.u, pc := q.resumePc, halted := false, trap := none })))
    ∧ (∀ word q, csWriteCode s r word ag v = rDONE → exec (.csWindowWrite r word q ag v) s
        = .next (csQuarter r word q v (windowResult (pENG r) ag (0x900000 + r * 0x20000 + 16 * word + 4 * q) rDONE
          ((s.wr (pENG r) F.ENG_CS_WSTAT_CODE rDONE).wr (pENG r) F.ENG_CS_WSTAT_WORD word))))
    ∧ (pageBlk (pENG r) ≠ none → gateCode s (pENG r) 0x040 w ag v (injParRange s r) noCheck noBusy = rDONE →
      exec (.injParWrite r w ag v) s = .next (record (pENG r) ag 16 0xFF rDONE ((gateVals s (pENG r) 0x040 w v).foldl (storeVal (pENG r) ag) s)))
    ∧ (∀ (x : Nat) (l : List Nat), s.eng.samples.get [] r = x :: l →
      exec (.samplePop r) s = .next ((({ s with eng := { s.eng with samples := s.eng.samples.put [] r l } }.wr (pENG r) F.ENG_SAMPLE_STAT_COUNT l.length).wr
        (pENG r) F.ENG_SAMPLE_DATA x 0).wr (pENG r) F.ENG_SAMPLE_DATA (x / 2 ^ 32) 1))
    ∧ (∀ old, pageBlk (pENG r) ≠ none → gateCode s (pENG r) 0x068 w ag v noCheck (fun _ => dbgWritable s r) noBusy = rDONE →
      old = ((s.ctx (dbgEngine s r) (dbgContext s r)).trap.map (fun q => q.get (dbgWord s r) / 2 ^ 32)).getD 0 →
      exec (.dbgWordWrite r w ag v) s = .next (record (pENG r) ag 26 0xFF rDONE
        (dbgStore r (viewOutcome w old v 32 * 2 ^ 32 + s.rd (pENG r) F.ENG_DBG_DATA 0) s)))
    ∧ (∀ k, exec (.scratchLoRead r k ag) s = .next { s with
        eng := { s.eng with scrLatch := s.eng.scrLatch.insert (agSlot r ag) (k, s.eng.scratch.get 0 (64 * r + k)) }
        out := s.out ++ [.read ag (s.eng.scratch.get 0 (64 * r + k) % 2 ^ 32)] })
    ∧ (∀ k, pageBlk (pENG r) ≠ none → gateCode s (pENG r) (0x200 + 8 * k) w ag v noCheck noCheck noBusy = rDONE →
      exec (.scratchLoWrite r k w ag v) s = .next (record (pENG r) ag ((0x200 + 8 * k) / 4) 0xFF rDONE
        (holdScratch r k ag (viewOutcome w (s.eng.scratch.get 0 (64 * r + k) % 2 ^ 32) v 32) s)))
    ∧ (∀ k, pageBlk (pENG r) ≠ none → gateCode s (pENG r) (0x204 + 8 * k) w ag v noCheck noCheck noBusy = rDONE →
      exec (.scratchHiWrite r k w ag v) s = .next (record (pENG r) ag ((0x204 + 8 * k) / 4) 0xFF rDONE
        (storeScratch r k ag (viewOutcome w (s.eng.scratch.get 0 (64 * r + k) / 2 ^ 32 % 2 ^ 32) v 32) s)))

/-! ### Buffers, queues, policers and filters -/

/-- Cords and their counts (R235 to R256): a reference is taken and given back on a head billet that is sound, refused and recorded on one that is not,
a cord is freed, a link is read, a sweep of an owner's billets begins. -/
def Obligations.BufferCommandsComplete : Prop :=
  ∀ (pg ag arg r b f tag : Nat) (x : Frame) (s : State),
    (b / 65536 = r → billetRegion b = r → (s.link b).alloc = true → (s.link b).owner = 0xFE → (s.headW b).dead = false →
      s.frames.entries.find? (fun (e : Nat × Frame) => e.2.head = some b) = some (f, x) → s.frames.find? f = some x → x.head = some b →
      ((s.headW b).refcnt < 255 →
        exec (.refcntInc r (256 * b) 0) s = .next (s.setHead b { s.headW b with refcnt := (s.headW b).refcnt + 1 }))
      ∧ ((s.headW b).refcnt = 255 → exec (.refcntInc r (256 * b) 0) s = .next (count (cRegion r 66) s))
      ∧ (1 < (s.headW b).refcnt →
        exec (.refcntDec r (256 * b) 0) s = .next (s.setHead b { s.headW b with refcnt := (s.headW b).refcnt - 1 }))
      ∧ ((s.headW b).refcnt = 1 →
        exec (.refcntDec r (256 * b) 0) s = .next ((freeCord r (b * 256) 0xFE []
          (s.setHead b { s.headW b with refcnt := 0, complete := true })).2.2.dropFrameRec f)))
    ∧ (b / 65536 = r → billetRegion b = r → (s.link b).alloc = false →
      s.frames.entries.find? (fun (e : Nat × Frame) => e.2.head = some b) = none → ∀ t, t = walkStop r rSTATE 0xFE 0xFF (billetLocal b) (billetLocal b) s →
      exec (.refcntInc r (256 * b) 0) s = .next t ∧ exec (.refcntDec r (256 * b) 0) s = .next t)
    ∧ (∀ ptr errs, stateIn s (pBUF r) [.ready, .run] = true → exec (.cordFreeWalk r ptr tag errs) s
        = .next (cordLost (freeCord r ptr tag errs s).2.2))
    ∧ (isBlk pg .buf = true → cmdCode s pg ag (isBlk pg .buf && arg = 0) (stateIn s pg [.ready, .run, .fenced]) = rDONE →
      s.rd (pBUF (pageRegion pg)) F.BUF_CMD_PTR_PTR = 256 * b → b / 65536 = pageRegion pg → ∀ w, w = (if (s.link b).head then headBits (s.headW b) else 0) →
        exec (.linkRead pg ag arg 0) s = .next (record pg ag 4 0x42 rDONE
          ((((s.wr (pBUF (pageRegion pg)) F.BUF_LINK_HEAD_DATA_DATA (linkBits (s.link b)) 0).wr (pBUF (pageRegion pg)) F.BUF_LINK_HEAD_DATA_DATA
            (linkBits (s.link b) / 2 ^ 32) 1).wr (pBUF (pageRegion pg)) F.BUF_LINK_HEAD_DATA_DATA w 2).wr (pBUF (pageRegion pg)) F.BUF_LINK_HEAD_DATA_DATA
            (w / 2 ^ 32) 3)))
    ∧ (∀ errs c n t, ag < 8 → cmdCode s pg ag (isBlk pg .buf && arg = 0) (s.inState pg .run) = rDONE →
      freeCord (pageRegion pg) (s.rd pg F.BUF_CMD_PTR_PTR) (0x90 + ag) errs s = (c, n, t) →
        exec (.cordFree pg ag arg errs) s = .next (record pg ag 4 0x43 c
          (((cordLost t).wr pg F.BUF_CMD_OUT_CODE c).wr pg F.BUF_CMD_OUT_FREED n)))
    ∧ (s.rd pg F.BUF_CMD_TAG_TAG = tag → tag < 0xFE → cmdCode s pg ag (isBlk pg .buf && arg = 0) (stateIn s pg [.ready, .run, .fenced]) = rDONE →
        exec (.ownerSweep pg ag arg) s = .next ((s.updPage pg (fun h => { h with substate := 1 })).updPage pg (fun h => { h with
          cmd := some ⟨0x44, arg, ag, [tag]⟩ })))

/-- Queues, hampers, captures, policers and stream filters (R257 to R305). -/
def Obligations.QueueCommandsComplete : Prop :=
  ∀ (pg ag arg q word v n : Nat) (s : State),
    (∀ s0 s1, listQueue q s = s0 → refreshOf q s0 = s1 →
      entryCode s1 (pQSC (s0.qRegion q)) (wQUEUE q) .queue (4 * word) ag v (queueRange s0 q word) (queueFree s0 q) = rDONE →
      exec (.queueEntryWrite q word ag v) s = .next (settle q (refreshOf q (syncQueue q (windowResult (pQSC (s0.qRegion q)) ag (0xC00000 + 64 * q + 4 * word) rDONE
        ((entryVals s1 (wQUEUE q) .queue (4 * word) v).foldl (storeVal (wQUEUE q) ag) s1))))))
    ∧ (∀ s1, refreshOf q s = s1 → (s1.queue q).dstate = .holding → wayUp s1 q = false →
      exec (.holdExpiry q) s = .next (refreshOf q (flushQueue q (s1.updQueue q (fun x => { x with dstate := .expired })))))
    ∧ (∀ s1, refreshOf q s = s1 → ((s1.queue q).dstate ≠ .holding ∨ wayUp s1 q = true) → exec (.holdExpiry q) s = .next (refreshOf q s1))
    ∧ (cmdCode s pg ag (isBlk pg .qsc && s.qRegion arg = pageRegion pg) (stateIn s pg [.ready, .run, .fenced]) = rDONE →
      exec (.qFlush pg ag arg none) s = .next (record pg ag 4 0x42 rDONE (refreshOf arg (flushWith arg none (refreshOf arg s)))))
    ∧ (∀ x : Hamper, x = ⟨s.rdB pg F.RPL_HMP_HDR_KNOCKOUT, s.rd pg F.RPL_HMP_HDR_COUNT, stagedMembers s pg⟩ → x.count ≤ 64 → arg < 16384 →
      cmdCode s pg ag (isBlk pg .rpl) (stateIn s pg [.ready, .run]) = rDONE →
      exec (.hamperWrite pg ag arg) s = .next (record pg ag 4 0x42 rDONE { s with hampers := s.hampers.put {} arg x }))
    ∧ (cmdCode s pg ag (isBlk pg .rpl && arg < 16384) (stateIn s pg [.ready, .run]) = rDONE →
      exec (.hamperRead pg ag arg) s = .next (record pg ag 4 0x43 rDONE (hamperRead pg arg s)))
    ∧ (cmdCode s (pRPL 0) ag true (stateIn s (pRPL 0) [.ready, .run]) = rDONE →
      exec (.capReset (pRPL 0) ag 0) s = .next (record (pRPL 0) ag 4 0x44 rDONE ((s.wr (pRPL 0) F.RPL_CAP_WPTR_WPTR 0).wr (pRPL 0) F.RPL_CAP_CTRL_FULL 0)))
    ∧ (∀ r k m qs, s.rdB (pQSC r) F.QSC_SAMPLE_CFG_SAMPLE_EN = true → stateIn s (pQSC r) [.ready, .run] = true → s.qscWin.get (0, 0) r = (k, m) →
      (knownQueues s).filter (fun q => s.qRegion q = r) = qs → ∀ s1, qs.foldl (fun s q => sampleQueue (k = 0) q s) s = s1 →
      (k ≠ 999 → exec (.queueSample r) s = .next { s1 with qscWin := s1.qscWin.put (0, 0) r (k + 1, m) })
      ∧ (k = 999 → exec (.queueSample r) s = .next (qs.foldl (fun s q => closeWindow ((m + 1) % 256) q s)
          { s1 with qscWin := s1.qscWin.put (0, 0) r (0, (m + 1) % 256) })))
    ∧ (s.rd pg F.QSC_POL_IDX_IDX = n → n / 4096 = pageRegion pg →
      ((stagedPolicer s pg).mode < 2 ∨ ((stagedPolicer s pg).mode = 2 ∧ (stagedPolicer s pg).cir ≤ (stagedPolicer s pg).pir
        ∧ (stagedPolicer s pg).cbs ≤ (stagedPolicer s pg).pbs)) →
      cmdCode s pg ag (isBlk pg .qsc && arg = 0) (stateIn s pg [.ready, .run, .fenced]) = rDONE →
      exec (.polWrite pg ag arg) s = .next (record pg ag 4 0x43 rDONE { s with policers := s.policers.put {} n (stagedPolicer s pg) }))
    ∧ (s.rd pg F.QSC_POL_IDX_IDX = n → (stagedPolicer s pg).mode = 2 → (stagedPolicer s pg).pir < (stagedPolicer s pg).cir →
      ∀ c, cmdCode s pg ag false (stateIn s pg [.ready, .run, .fenced]) = c → exec (.polWrite pg ag arg) s = .next (record pg ag 4 0x43 c s))
    ∧ (s.rd pg F.QSC_POL_IDX_IDX = n → n / 4096 = pageRegion pg → cmdCode s pg ag (isBlk pg .qsc && arg = 0) (stateIn s pg [.ready, .run, .fenced]) = rDONE →
      exec (.polRead pg ag arg) s = .next (record pg ag 4 0x44 rDONE (polRead pg n s)))
    ∧ (s.rd pg F.QSC_SF_IDX_IDX = n → n / 1024 = pageRegion pg → cmdCode s pg ag (isBlk pg .qsc && arg = 0) (stateIn s pg [.ready, .run, .fenced]) = rDONE →
      (∀ x : Filter, x = ⟨s.rdB pg F.QSC_SF_CFG_EN, s.rdB pg F.QSC_SF_CFG_BLOCK_EN, (s.filter n).blocked, s.rdB pg F.QSC_SF_CFG_METER_EN,
          s.rd pg F.QSC_SF_CFG_METER, s.rd pg F.QSC_SF_SDU_MAX_SDU, (s.filter n).hist⟩ →
        exec (.sfWrite pg ag arg) s = .next (record pg ag 4 0x45 rDONE { s with filters := s.filters.put {} n x }))
      ∧ (∃ t, exec (.sfRead pg ag arg) s = .next (record pg ag 4 0x46 rDONE t) ∧ t.rd pg F.QSC_SF_CFG_METER = (s.filter n).meter % 2 ^ 14
          ∧ t.rdB pg F.QSC_SF_CFG_BLOCKED = (s.filter n).blocked ∧ t.rd pg F.QSC_SF_SDU_MAX_SDU = (s.filter n).maxSdu % 2 ^ 14
          ∧ t = { s with reg := t.reg })
      ∧ exec (.sfUnblock pg ag arg) s = .next (record pg ag 4 0x47 rDONE { s with filters := s.filters.put {} n { s.filter n with blocked := false } }))

/-! ### Scheduling, shapers and gates -/

/-- Grants, transmission, shapers and gates (R282 to R345): a round of an arbiter, counted towards a commit, the starvation flags, a frame or fragment that
starts or ends, a shaper's credit, a gate list's entry and its takeover. -/
def Obligations.SchedulingCommandsComplete : Prop :=
  ∀ (p r j a k ag v : Nat) (w : View) (s : State),
    (∀ reqs err, (p < 48 → exec (.arbitrationRound p reqs err) s = .next (portRound p (countRound p s)))
      ∧ (80 ≤ a → a < 84 → err ≠ 3 → exec (.arbitrationRound a reqs err) s = .next (poolRound a reqs err (countRound a s)))
      ∧ (80 ≤ a → a < 84 → stateIn s (pBUF (a - 80)) [.ready, .run] = true →
        exec (.arbitrationRound a reqs 3) s = .next (regionFence (pBUF (a - 80)) (a - 80) s))
      ∧ (64 ≤ a → a < 72 → exec (.arbitrationRound a reqs err) s = .next (linkRound a reqs (countRound a s))))
    ∧ (s.qPort k = p → p < 48 → s.rd (pQSC (portRegion p)) F.QSC_STARVE_CFG_STARVE_ROUNDS ≤ s.rd (wQUEUE k) F.Q_STARVE_WAIT_ROUNDS →
      exec (.starvationFlag p k) s = .next (srcEvent (regSource (portRegion p) 5) (((s.setF (wQUEUE k) F.Q_STARVE_STARVED).setF (pQSC (portRegion p))
        F.QSC_STARVE_STAT_ANY).wr (pQSC (portRegion p)) F.QSC_STARVE_STAT_LAST_QUEUE k)))
    ∧ (64 ≤ a → a < 72 → k < 2 → s.rd pXBAR F.XBAR_STARVE_STARVE_ROUNDS ≤ (s.arb a).waits.get 0 k →
      exec (.starvationFlag a k) s = .next (s.wr pXBAR F.XBAR_STARVE_FLAGS (setBit (s.rd pXBAR F.XBAR_STARVE_FLAGS) (2 * (a - 64) + k))))
    ∧ (∀ (g : Want), (s.port p).cur = none → (s.port p).arb.granted = some g → standing s p g = true → startFits s p g.req g.queue = true →
      ∀ err, (∀ (c : Copy) (l : List Copy), g.queue ≠ 65536 → (s.queue g.queue).front = c :: l →
          exec (.transmitStart p err) s = .next (startCopy p g.queue err c (movePointers p g s)))
        ∧ (∀ t : Tx, g.queue = 65536 → (s.port p).held = some t → exec (.transmitStart p err) s = .next (resume p t (movePointers p g s))))
    ∧ (∀ t : Tx, (s.port p).cur = some t → endPoint s p t = some none → exec (.transmitEnd p) s = .next (endFrame p t s))
    ∧ (∀ (t : Tx) (n : Nat), (s.port p).cur = some t → endPoint s p t = some (some n) → exec (.transmitEnd p) s = .next (endFragment p n t s))
    ∧ (shaperBusy s j = false → exec (.shaperUpdate j) s
        = .next (showCredit j (s.setShaper j { s.shaper j with credit := creditNow s j (s.shaper j), at_ := s.sNow })))
    ∧ (shaperBusy s j = true → exec (.shaperUpdate j) s = .next (showCredit j s))
    ∧ (pageBlk (pQSC r) ≠ none → gateCode s (pQSC r) 0x200 w ag v noCheck noCheck (fun _ => (s.page (pQSC r)).commitPending) = rDONE →
      exec (.shaperSelect r w ag v) s = .next (record (pQSC r) ag 128 0xFF rDONE
        (shaperLoaded r (gateVals s (pQSC r) 0x200 w v) ((gateVals s (pQSC r) 0x200 w v).foldl (storeVal (pQSC r) ag) s))))
    ∧ (p < 48 → ∀ t, syncGate p (refreshPort p s) = t → ((t.port p).cur = none → exec (.gateEntryChange p) s = .next t)
      ∧ (∀ x : Tx, (t.port p).cur = some x → x.cutAt ≠ none → gateOpen t p x.cls = true → exec (.gateEntryChange p) s = .next t)
      ∧ (∀ (x : Tx) (n : Nat), (t.port p).cur = some x → x.cutAt ≠ none → gateOpen t p x.cls = false → endPoint t p x = some (some n) →
        exec (.gateEntryChange p) s = .next (endFragment p n x t)))
    ∧ (∀ at_, (s.gate p).takeover = some (some at_) → at_ ≤ s.sNow →
        exec (.gateTakeover p) s = .next (takeover p at_ s))
    ∧ (∀ b, gateListCode s p b ag v = rDONE → exec (.gateListWrite p b k ag v) s = .next (windowResult (pPORT (portRegion p)) ag (0x880000 + 0x800 * p + 0x400 * b + 4 * k) rDONE
        (s.updGate p (fun x => if b = 0 then { x with bank0 := x.bank0.put 0 k v } else { x with bank1 := x.bank1.put 0 k v }))))

/-! ### Peat and the streams -/

/-- The memory: refresh, row activity, the patrol, spills and drains, the window, turf and captures (R340 to R376). -/
def Obligations.PeatCommandsComplete : Prop :=
  ∀ (ag arg ch q r off v : Nat) (w : View) (s : State),
    (ch < 16 → dramAwake s = true → s.rdB pPEAT F.PEAT_CH_STAT_UP ch = true → (s.page pPEAT).commitPending = false →
      ∀ n b, n = 2 ^ s.rd pPEAT F.PEAT_GEOM_BANK_BITS → b = s.peat.refBank.get 0 ch % n →
        exec (.perBankRefresh ch) s = .next { s with peat := { s.peat with
          openRow := s.peat.openRow.erase (bankIdx ch b)
          refBank := s.peat.refBank.put 0 ch ((b + 1) % n)
          refreshed := if s.peat.refreshed.testBit ch then s.peat.refreshed else s.peat.refreshed + 2 ^ ch } })
    ∧ (dramAwake s = true → s.rdB pPEAT F.PEAT_CH_STAT_UP ch = true →
      ∀ rate, exec (.refreshRatePoll ch rate) s = .next (s.wr pPEAT F.PEAT_CH_STAT_REF_RATE rate ch))
    ∧ (∀ bank, ∃ t, exec (.activateTableClear ch bank) s = .next t ∧ t.peat.acts.get [] (bankIdx ch bank) = []
        ∧ (∀ k, k ≠ bankIdx ch bank → t.peat.acts.get [] k = s.peat.acts.get [] k)
        ∧ t = { s with peat := { s.peat with acts := t.peat.acts } })
    ∧ (∀ bank row n, (row, n) ∈ s.peat.acts.get [] (bankIdx ch bank) → s.rd pPEAT F.PEAT_RH_CFG_RH_TH ≤ n →
        ∀ l, l = ((neighbours s row).foldl countRow (s.peat.acts.get [] (bankIdx ch bank))).map (fun e => if e.1 = row then (row, 0) else e) →
        exec (.neighbourRefresh ch bank row) s = .next (count (cChip (48 + ch)) { s with peat := { s.peat with
          openRow := s.peat.openRow.erase (bankIdx ch bank)
          acts := s.peat.acts.put [] (bankIdx ch bank) l } }) ∧ ∀ m, (row, m) ∈ l → m = 0)
    ∧ (∀ (c : Copy) (l : List Copy) (f : Frame) (ecc : Nat), s.inState pPEAT .run = true → stateIn s (pQSC (s.qRegion q)) [.ready, .run] = true →
        fabricOpen s = true → (s.queue q).spill = true → (s.queue q).back = c :: l → s.frames.find? c.frame = some f → oldGen s c = false → f.complete = true →
        (f.bad = false → readBad ecc = false → exec (.spillWrite q ecc none) s = .next (leaveSpill q (writeRecord q c f none (readData c.frame ecc s))))
        ∧ (((f.bad = true ∧ c.late = false) ∨ readBad ecc = true) →
          exec (.spillWrite q ecc none) s = .next (leaveSpill q (releaseCopy c (countDrop q 0 (popBack q (readData c.frame ecc s)))))))
    ∧ (∀ (d : Want) (l : List Want) (x : PeatRec) (m : List PeatRec), s.inState pPEAT .run = true → stateIn s (pQSC r) [.ready, .run] = true → fabricOpen s = true →
        startedRec s r = none →
        (s.arb (88 + r)).order (((knownQueues s).filter (fun q => s.qRegion q = r && mayDrain s q)).map (fun q => (⟨s.qClass q / 2, q, q⟩ : Want))) = d :: l →
        (s.queue d.queue).peat = x :: m → exec (.drainRecord r none) s
          = .next (settle d.queue (leaveSpill d.queue (drainGood d.queue x (s.setArb (88 + r) ((s.arb (88 + r)).moved d))))))
    ∧ (∀ (x : PeatRec), s.inState pPEAT .run = true → stateIn s (pQSC r) [.ready, .run] = true → fabricOpen s = true →
        startedRec s r = some (q, x) → drainUp s q = true → exec (.drainRecord r none) s = .next (settle q (leaveSpill q (drainGood q x s))))
    ∧ (s.rdB pPEAT F.PEAT_CTRL_PATROL_EN = true → dramAwake s = true → exec (.patrolRead none) s
        = .next (touch (s.peat.patrol % 16) (s.peat.patrol / 16) { s with peat := { s.peat with patrol := (s.peat.patrol + 1) % (16 * channelUnits) } }))
    ∧ (gateCode s pPEAT 0x040 w ag v (winGibRange s) (winGibState s) noBusy = rDONE → exec (.winGibWrite w ag v) s
        = .next (record pPEAT ag 16 0xFF rDONE (winGibTaken s (gateVals s pPEAT 0x040 w v) ((gateVals s pPEAT 0x040 w v).foldl (storeVal pPEAT ag) s))))
    ∧ (s.peat.zeroing = true → s.rd pPEAT F.PEAT_CTRL_WIN_GIB = 0 → exec .windowReady s
        = .next (rebuildRing ({ s with peat := { s.peat with zeroing := false, mem := ⟨[]⟩, poison := [] } }.setF pPEAT F.PEAT_STATUS_WIN_READY)))
    ∧ (s.peat.zeroing = true → ∀ t, t = zeroRows (ownLines 0 (windowBytes (s.rd pPEAT F.PEAT_CTRL_WIN_GIB) / 64) s) → t.peat.zeroing = true →
        exec .windowReady s
          = .next (rebuildRing ({ t with peat := { t.peat with zeroing := false, mem := ⟨[]⟩, poison := [] } }.setF pPEAT F.PEAT_STATUS_WIN_READY)))
    ∧ (∀ a, a = off / 64 * 64 → s.rdB pHIF F.HIF_LINK_HDM_COMMITTED = true → a + 4096 + 64 ≤ s.hif.hdmSize → winServed s = true → fabricOpen s = true →
        a < windowBytes (s.rd pPEAT F.PEAT_CTRL_WIN_GIB) → ∀ s1, s1 = touchTurf (a / 4096) (a % 4096) 64 s →
        (s.peat.poison.contains (a / 64) = false →
          exec (.windowAccess off none false none) s = .next { s1 with out := s1.out ++ [.cxlData off (winBytes s1 a 64) false] })
        ∧ ∀ d, exec (.windowAccess off (some d) false none) s
            = .next (setWin a (d.take 64) { s1 with peat := { s1.peat with poison := s1.peat.poison.filter (· != a / 64) } }))
    ∧ (s.rd pPEAT F.PEAT_CMD_TURF_TURF < turfCount → cmdCode s pPEAT ag (decide (arg = 0)) (stateIn s pPEAT [.ready, .run, .fenced]) = rDONE →
        ∀ x, x = (s.turf (s.rd pPEAT F.PEAT_CMD_TURF_TURF)).word → exec (.turfRead pPEAT ag arg) s
          = .next (record pPEAT ag 4 0x42 rDONE (((s.wr pPEAT F.PEAT_DATA_DATA (x % 2 ^ 32) 0).wr pPEAT F.PEAT_DATA_DATA (x / 2 ^ 32) 1).wr pPEAT
            F.PEAT_CMD_OUT_CODE rDONE)))
    ∧ (cmdCode s pPEAT ag (arg < 2 && (arg = 1 || s.rd pPEAT F.PEAT_CMD_SEL_TAG != 0xFF)) (stateIn s pPEAT [.ready, .run, .fenced]) = rDONE →
        exec (.turfSweep pPEAT ag arg) s = .next (s.updPage pPEAT (fun h => { h with
          cmd := some ⟨0x43, arg, ag, [s.rd pPEAT F.PEAT_CMD_SEL_TAG, s.rd pPEAT F.PEAT_CMD_SEL_QUEUE]⟩ })))
    ∧ (cmdCode s pPEAT ag true (stateIn s pPEAT [.ready, .run, .fenced]) = rDONE → ∀ x, x = s.queue arg → exec (.qPeatRead pPEAT ag arg) s
        = .next (record pPEAT ag 4 0x44 rDONE (((((s.wr pPEAT F.PEAT_DATA_DATA (x.turves.head?.getD 0) 0).wr pPEAT F.PEAT_DATA_DATA (x.turves.getLast?.getD 0) 1).wr
          pPEAT F.PEAT_DATA_DATA x.peat.length 2).wr pPEAT F.PEAT_DATA_DATA x.turves.length 3).wr pPEAT F.PEAT_CMD_OUT_CODE rDONE)))
    ∧ (∀ (c : CapCopy) (l : List CapCopy) (x : Frame) (d : List Byte) (n at_ ecc : Nat) (s0 : State), fabricOpen s = true → s.peat.captures = c :: l →
        s.frames.find? c.copy.frame = some x → oldGen s c.copy = false → x.bad = false → readBad ecc = false → x.complete = true → winServed s = true →
        s.rdB (pRPL 0) F.RPL_CAP_CTRL_EN = true → s.rd (pRPL 0) F.RPL_MIR_B_TRUNC c.session = 0 →
        d = captureBytes c x → n = (16 + d.length + 63) / 64 → at_ = s.rd (pRPL 0) F.RPL_CAP_WPTR_WPTR → at_ + n ≤ 64 * s.rd (pRPL 0) F.RPL_CAP_SIZE_TURVES →
        s0 = readData c.copy.frame ecc { s with peat := { s.peat with captures := l } } →
        exec (.captureRecordWrite ecc none) s = .next (releaseCopy c.copy ((captureStore c d d.length n (4096 * s.rd (pRPL 0) F.RPL_CAP_BASE_TURF + 64 * at_)
          s0).wr (pRPL 0) F.RPL_CAP_WPTR_WPTR (at_ + n))))

/-- Stream recovery and identification (R377 to R391). -/
def Obligations.StreamCommandsComplete : Prop :=
  ∀ (k h word ag v : Nat) (s : State),
    (∀ at_ q d seq, (s.rec_ k).holdAt = some at_ → s.rdB (wRECOV k) F.REC_VALID = true → stateIn s (recPage k) [.fenced, .reinit] = false →
      releasedHead s k = some (q, d, seq) → exec (.recoveryHoldExpiry k) s = .next (settleAll (recQueues s k) (markDelivered q k (deliver380 k seq
        (setHist k ((recHist s k * 2 ^ d) % 2 ^ 64) (countBy (cRecov k 3) d s))))))
    ∧ (s.rdB (wRECOV k) F.REC_VALID = true → stateIn s (recPage k) [.fenced, .reinit] = false →
      exec (.recoveryResetTimeout k) s = .next (settleAll (recQueues s k) (s.setF (wRECOV k) F.REC_TAKE_ANY)))
    ∧ (s.rdB (wRECOV k) F.REC_VALID = true → ∀ s1, s1 = s.updRec k (fun x => { x with passed := 0, discarded := 0 }) →
      (s.rd (wRECOV k) F.REC_LATENT_DIFF + (s.rec_ k).discarded < (s.rec_ k).passed * (s.rd (wRECOV k) F.REC_PATHS - 1) →
        exec (.latentCheck k) s = .next (srcEvent (regSource (k / 1024) 7) (s1.setF (wRECOV k) F.REC_LATENT_ERR)))
      ∧ ((s.rec_ k).passed * (s.rd (wRECOV k) F.REC_PATHS - 1) ≤ s.rd (wRECOV k) F.REC_LATENT_DIFF + (s.rec_ k).discarded →
        exec (.latentCheck k) s = .next s1))
    ∧ (entryCode s (recPage k) (wRECOV k) .recov (4 * word) ag v (recRange s k word) (recState s k word) = rDONE →
      exec (.recoveryEntryWrite k word ag v) s = .next (windowResult (recPage k) ag (0x8A0000 + 32 * k + 4 * word) rDONE
        (recTaken s k (entryVals s (wRECOV k) .recov (4 * word) v) ((entryVals s (wRECOV k) .recov (4 * word) v).foldl (storeVal (wRECOV k) ag) s))))
    ∧ (entryCode s (pPORT (h / 1024)) (wIDENT h) .ident (4 * word) ag v (idRange s h) (idState s h word) = rDONE →
      exec (.idEntryWrite h word ag v) s = .next (windowResult (pPORT (h / 1024)) ag (0x8C0000 + 64 * h + 4 * word) rDONE
        ((entryVals s (wIDENT h) .ident (4 * word) v).foldl (storeVal (wIDENT h) ag) s)))
    ∧ (∀ code, code ≠ rDONE → entryCode s (pPORT (h / 1024)) (wIDENT h) .ident (4 * word) ag v (idRange s h) (idState s h word) = code →
      exec (.idEntryWrite h word ag v) s = .next (windowResult (pPORT (h / 1024)) ag (0x8C0000 + 64 * h + 4 * word) code s))

/-! ### Time -/

/-- The clocks' commands (R392 to R456). -/
def Obligations.TimeCommandsComplete : Prop :=
  ∀ (ag arg d p l off v : Nat) (m : List Byte) (w : View) (s : State),
    (l ≤ s.now → s.domState d ≠ dOFF → domTakes s d p 0 m = true → ∀ t2, t2 = capturedIn s d l (-(1024 * s.rdS pTIME F.TS_ASYM_RX_ASYM p)) →
      ((byteAt m 6).testBit 1 = false → exec (.syncSample d p m l) s = .next (sample d l (syncOffset s d t2 (msgTime m + msgCorr m)) s))
      ∧ ((byteAt m 6).testBit 1 = true → exec (.syncSample d p m l) s
          = .next (s.updDom d (fun x => { x with wait := x.wait ++ [(⟨beAt m 30 2, l, t2, msgCorr m⟩ : SyncWait)] }))))
    ∧ (∀ (y : SyncWait) (s1 : State), domTakes s d p 8 m = true → (s.dom d).wait.find? (fun y => y.seqId = beAt m 30 2) = some y →
      s1 = s.updDom d (fun x => { x with wait := x.wait.erase y }) →
        exec (.followUpRx d p m) s = .next (sample d y.at_ (syncOffset s1 d y.t2 (msgTime m + msgCorr m + y.corr)) s1))
    ∧ (∀ (y : SyncWait) (seqId : Nat), (s.dom d).wait.find? (fun y => y.seqId = seqId) = some y →
        exec (.followUpTimeout d seqId) s = .next (count (cChip (66 + d)) (s.updDom d (fun x => { x with wait := x.wait.erase y }))))
    ∧ (gateCode s pTIME (0x118 + 0x40 * d) w ag v noCheck noCheck noBusy = rDONE → exec (.hostOffsetWrite d w ag v) s
        = .next (record pTIME ag ((0x118 + 0x40 * d) / 4) 0xFF rDONE (offsetTaken d (gateVals s pTIME (0x118 + 0x40 * d) w v)
          ((gateVals s pTIME (0x118 + 0x40 * d) w v).foldl (storeVal pTIME ag) s))))
    ∧ (gateCode s pTIME (0x130 + 0x40 * d) w ag v (timeRange s) (timeState s) noBusy = rDONE → exec (.domRateWrite d w ag v) s
        = .next (record pTIME ag ((0x130 + 0x40 * d) / 4) 0xFF rDONE ((gateVals s pTIME (0x130 + 0x40 * d) w v).foldl (storeVal pTIME ag) s)))
    ∧ (gateCode s pTIME (0x100 + 0x40 * d) w ag v (timeRange s) (timeState s) noBusy = rDONE → exec (.domainEnable d w ag v) s
        = .next (record pTIME ag ((0x100 + 0x40 * d) / 4) 0xFF rDONE ((gateVals s pTIME (0x100 + 0x40 * d) w v).foldl (storeVal pTIME ag) s)))
    ∧ (∀ n, gateCode s pTIME (0xB00 + 0x20 * n + off) w ag v (timeRange s) (timeState s) noBusy = rDONE → exec (.trigWrite n off w ag v) s
        = .next (record pTIME ag ((0xB00 + 0x20 * n + off) / 4) 0xFF rDONE
          ((gateVals s pTIME (0xB00 + 0x20 * n + off) w v).foldl (storeVal pTIME ag) s)))
    ∧ (s.domState d = dACQUIRING ∨ s.domState d = dLOCKED → exec (.domainLossTimeout d) s = .next (checkSelect (enterDom d dLOST s)))
    ∧ (∀ y, y = s.rd pTIME F.TIME_SEL_PREF → s.rdB pTIME F.TIME_SEL_AUTO_SEL = true → s.rdB pTIME F.TIME_SEL_REVERT_EN = true → s.selDom ≠ y →
        s.domState y = dLOCKED → s.banked = false → exec .revertTimer s = .next (switchTo y s))
    ∧ (s.phase s.now = 0 → s.banked = false → exec .slewEnd s
        = .next ({ s with time := { s.time with pN := 0, pL := s.now } }.wr pTIME F.TIME_STATUS_SLEWING 0))
    ∧ (s.time.onSerdes = false → s.inState pTIME .reset = false → exec .timeClkLoss s = .next (escalate pTIME (ledgerEvent 0x04 0
        (withLine 322 (fun s => s.setF pTIME F.TIME_EVENT_CLK_FAIL) { s with time := { s.time with onSerdes := true } }))))
    ∧ exec .timePllLock s = .next (s.wr pTIME F.TIME_STATUS_PLL_LOCK 1)
    ∧ (p < 48 → s.raw p = true → ∀ c, c = Config.calDelay p s.free → exec (.tsCalDone p) s
        = .next ((({ s with free := s.free + 1 }.wr pTIME F.TS_CAL_RX_DELAY c.1 p).wr pTIME F.TS_CAL_TX_DELAY c.2 p).wr pTIME F.TS_CAL_RX_CAL_DONE 1 p))
    ∧ (∀ t : Int, t = timeOf (s.rd pTIME F.TIME_SET_SEC_HI_SEC_HI * 2 ^ 32 + s.rd pTIME F.TIME_SET_SEC_LO_SEC_LO) (s.rd pTIME F.TIME_SET_NS_NS)
        (s.rd pTIME F.TIME_SET_SEC_HI_FRAC) → d < 2 → cmdCode s pTIME ag true (stateIn s pTIME [.ready, .run]) = rDONE →
        exec (.timeSet pTIME ag d) s = .next (record pTIME ag 4 0x42 rDONE (stepByCommand d (t * timeDen - (s.dom d).fine s.now) s)))
    ∧ (d < 2 → cmdCode s pTIME ag ((stagedAdj s).natAbs ≤ 1000000000 * nsU) (stateIn s pTIME [.ready, .run]) = rDONE →
        exec (.timeAdj pTIME ag d) s = .next (record pTIME ag 4 0x43 rDONE (stepByCommand d (stagedAdj s * timeDen) s)))
    ∧ (cmdCode s pTIME ag (arg < 2) (stateIn s pTIME [.ready, .run]) = rDONE →
        exec (.select pTIME ag arg) s = .next (record pTIME ag 4 0x44 rDONE (selectDom arg s)))
    ∧ (cmdCode s pTIME ag (arg = 0) (!s.inState pTIME .reset) = rDONE →
        exec (.timeSnap pTIME ag arg) s = .next (record pTIME ag 4 0x45 rDONE (timeSnap s)))
    ∧ (d < 2 → s.domState d ≠ dOFF → cmdCode s pTIME ag true (stateIn s pTIME [.ready, .run]) = rDONE → exec (.servoReset pTIME ag d) s
        = .next (record pTIME ag 4 0x46 rDONE (checkSelect (enterDom d dFREERUN (s.updDom d (fun x => { x with run := 0 }))))))

/-- The oscillator model, the banked time and the pulses (R411 to R456). -/
def Obligations.ModelAndPulseCommandsComplete : Prop :=
  ∀ (ag arg n k l : Nat) (theta : Int) (s : State),
    (s.inState pTIME .reset = false → s.banked = false → ∀ s1, s1 = s.wrS pTIME F.BANK_THETA_THETA (thetaOf s theta) →
      exec (.modelEvaluate theta) s = .next (s1.wrS pTIME F.BANK_RHO_RHO
        (clampInt (-(2 ^ 31)) (2 ^ 31 - 1) (modelRho s.time.model (thetaOf s theta) (tSec s1.sNow) / 64))))
    ∧ (learning s = false → exec (.modelLearn theta) s = .next (newSecond s))
    ∧ (learning s = true → ∃ t, exec (.modelLearn theta) s = .next t ∧ t.time.model.steps = s.time.model.steps + 1 ∧ t.time.model.refSet = true
        ∧ t.free = s.free + 1)
    ∧ (s.rdB pTIME F.BANK_CFG_TEMP_SRC = true → exec .tempStaleTimeout s = .next (syncTime (s.setF pTIME F.BANK_STATUS_TEMP_STALE)))
    ∧ (s.banked = true → ∀ s1, s1 = withLine 326 (fun s => s.setF pTIME F.BANK_STATUS_EXPIRED) (syncElapsed s) →
        (s1.rdB pTIME F.BANK_LIMIT_PPS_SQ_EXP = true → exec .bankExpiry s = .next { s1 with time := { s1.time with ppsHeld := true, ppsOut := false } })
        ∧ (s1.rdB pTIME F.BANK_LIMIT_PPS_SQ_EXP = false → exec .bankExpiry s = .next { s1 with time := { s1.time with ppsHeld := true } }))
    ∧ (cmdCode s pTIME ag (arg = 0) (!s.inState pTIME .reset) = rDONE → ∃ t, exec (.modelSnap pTIME ag arg) s = .next (record pTIME ag 4 0x47 rDONE t)
        ∧ t = { s with reg := t.reg } ∧ (-(2 ^ 31) ≤ s.time.model.c0 → s.time.model.c0 < 2 ^ 31 → t.rdS pTIME F.BANK_C0_C0 = s.time.model.c0))
    ∧ (cmdCode s pTIME ag (arg = 0) (stateIn s pTIME [.ready, .run] && !s.banked) = rDONE →
        (exec (.modelLoad pTIME ag arg) s = .next (record pTIME ag 4 0x48 rDONE (modelLoad s)) ∧ (modelLoad s).time.model.c0 = s.rdS pTIME F.BANK_C0_C0
          ∧ (modelLoad s).time.model.refSet = true ∧ (modelLoad s).rdB pTIME F.BANK_STATUS_RESTORED = true)
        ∧ ∃ t, exec (.modelClear pTIME ag arg) s = .next t ∧ t.time.model.c0 = 0 ∧ t.time.model.c1 = 0 ∧ t.time.model.c2 = 0 ∧ t.time.model.a = 0
          ∧ t.time.model.refSet = false ∧ t.rdB pTIME F.BANK_STATUS_RESTORED = false)
    ∧ (cmdCode s pTIME ag (arg = 0) (stateIn s pTIME [.ready, .run]) = rDONE → exec (.modelSave pTIME ag arg) s = .next (record pTIME ag 4 0x4A rDONE
        (queueRecord ⟨5, s.ldg.open_.hour, (modelWords s).flatMap (leBytes 4), false⟩ s)))
    ∧ (∀ rise, l + s.rd pTIME F.PPS_IN_CFG_FILT * 4 * nsU ≤ s.now → s.rdB pTIME F.PPS_IN_CFG_EN = true → rise ≠ s.rdB pTIME F.PPS_IN_CFG_EDGE →
        (∀ t, s.time.ppsInAt = some t → t + 900000000 * nsU ≤ l) → s.rd pTIME F.DOM_CFG_SRC 0 ≠ 1 → s.rd pTIME F.DOM_CFG_SRC 1 ≠ 1 →
        exec (.ppsInEdge rise l) s = .next ({ s with time := { s.time with ppsInAt := some l } }.setF pTIME F.PPS_IN_STAT_SEEN))
    ∧ (∀ rise t, s.rdB pTIME F.PPS_IN_CFG_EN = true → l + s.rd pTIME F.PPS_IN_CFG_FILT * 4 * nsU ≤ s.now → rise ≠ s.rdB pTIME F.PPS_IN_CFG_EDGE →
        s.time.ppsInAt = some t → l < t + 900000000 * nsU → exec (.ppsInEdge rise l) s = .next (s.addSat pTIME F.PPS_IN_STAT_EXTRA))
    ∧ exec (.ppsOutEdge false) s = .next { s with time := { s.time with ppsOut := false } }
    ∧ (s.rdB pTIME F.PPS_OUT_CFG_EN = true → s.rdB pTIME F.PPS_OUT_CFG_SQ_NOLOCK = false ∨ s.time.everLocked = true →
        s.time.ppsHeld = false ∨ s.rdB pTIME F.BANK_LIMIT_PPS_SQ_EXP = false → sharedDriven s = true → ppsDue s = true → exec (.ppsOutEdge true) s = .next { s with time := { s.time with ppsOut := true } })
    ∧ exec (.toutEdge n false) s = .next (setTout n false s)
    ∧ (∀ x, toutPlan s n = some x → instantDue s x (s.toutS n) = true →
        exec (.toutEdge n true) s = .next (setTout n true (setToutS n (x.fired (s.toutS n)) s)))
    ∧ (∀ rise, l + s.rd pTIME F.TIN_CFG_FILT k * 4 * nsU ≤ s.now → s.rdB pTIME F.TIN_CFG_EN k = true → s.rd pTIME F.TIN_CFG_EDGE k = 2 → ∀ x, x = s.time.tin.get [] k →
        x.length < 16 → ∃ t, exec (.tinEdge k rise l) s = .next t ∧ t.time.tin.get [] k = x ++ [⟨rise, s.selAt l / 1024 * 1024⟩]
          ∧ t.rd pTIME F.TIN_CFG_COUNT k = (x.length + 1) % 32)
    ∧ (∀ (x : TinRec) (t : List TinRec), s.time.tin.get [] k = x :: t → ∃ u, exec (.tinPop k) s = .next u ∧ u.time.tin.get [] k = t
        ∧ u.rd pTIME F.TIN_POP_NS k = tNs x.time % 2 ^ 30 ∧ u.rdB pTIME F.TIN_POP_RISE k = x.rise ∧ u.rdB pTIME F.TIN_POP_VALID k = true)
    ∧ (s.time.tin.get [] k = [] → exec (.tinPop k) s = .next (s.wr pTIME F.TIN_POP_VALID 0 k))
    ∧ (∀ x, trigPlan s n = some x → instantDue s x (s.trigS n) = true → ∀ t, t = (x.instant (s.trigS n)).toNat → exec (.cycleTriggerFire n) s
        = .next ((List.range 4).foldl (fun s r => fireEngine r n t s) ((List.range 48).foldl (fun s k => fireGate k n t s)
          (setTrigS n (x.fired (s.trigS n)) (s.wr pTIME F.TRIG_COUNT_COUNT ((s.trigS n).next % s.rd pTIME F.TRIG_CFG_MODULUS n) n)))))

/-! ### The mate interface -/

/-- Heartbeats, the claim, takeover and the mate link (R443 to R458, R462 to R467). -/
def Obligations.MateCommandsComplete : Prop :=
  ∀ (ag arg v k half path word : Nat) (w : View) (s : State),
    (gateCode s pMATE 0x040 w ag v (fun l => nv s pMATE l F.MATE_CFG_MODE != 3)
        (fun l => !changes s pMATE l F.MATE_CFG_MODE || s.inState pMATE .ready) noBusy = rDONE →
      exec (.mateModeWrite w ag v) s = .next (record pMATE ag 16 0xFF rDONE
        (modeTaken s (gateVals s pMATE 0x040 w v) ((gateVals s pMATE 0x040 w v).foldl (storeVal pMATE ag) s))))
    ∧ (gateCode s pMATE (0x800 + 8 * k + 4 * half) w ag v (fwdRange s k half) (fwdState s k half) noBusy = rDONE →
      exec (.mateFwdWrite k half w ag v) s = .next (record pMATE ag ((0x800 + 8 * k + 4 * half) / 4) 0xFF rDONE
        (withFwd (fun s1 => (gateVals s pMATE (0x800 + 8 * k + 4 * half) w v).foldl (storeVal pMATE ag) s1) s)))
    ∧ (beating s = true → mateUp s = false → exec .heartbeatSend s = .next { s with
        mate := { s.mate with hbSeq := (s.mate.hbSeq + 1) % 256 }
        out := s.out ++ [.heartbeat (heartbeatWord s)] })
    ∧ (beating s = true → ∀ s1, s1 = mateSend 0 0 0 (beBytes 8 (heartbeatWord s)) { s with mate := { s.mate with hbSeq := (s.mate.hbSeq + 1) % 256 } } →
        mateUp s = true → exec .heartbeatSend s = .next { s1 with out := s1.out ++ [.heartbeat (heartbeatWord s)] })
    ∧ (path ≠ 0 → watching s = true → bitsOf word 63 56 = 0xA5 → crc16 word = word % 65536 → (s.path path).seq ≠ some (bitsOf word 55 48) →
        ∀ crc, exec (.heartbeatRx path word crc) s = .next (heartbeat path word s))
    ∧ (path = 0 → mateUp s = true → watching s = true → bitsOf word 63 56 = 0xA5 → crc16 word = word % 65536 →
        (s.path path).seq ≠ some (bitsOf word 55 48) → exec (.heartbeatRx path word true) s = .next (heartbeat path word s))
    ∧ (path ≠ 0 → watching s = true → (bitsOf word 63 56 ≠ 0xA5 ∨ crc16 word ≠ word % 65536 ∨ (s.path path).seq = some (bitsOf word 55 48)) →
        ∀ crc, exec (.heartbeatRx path word crc) s = .next (s.updHb path (fun x => { x with run := 0 })))
    ∧ (watching s = true → s.rdB pMATE (pathF path) = true → ∀ s1, s1 = withFwd (pathDown path) s →
        exec (.pathLoss path) s = .next (peerChanged s.peerState
          (srcEvent 332 (s1.wr pMATE (if path = 0 then F.MATE_EVENT_PATH_A_LOST else F.MATE_EVENT_PATH_B_LOST) 1))))
    ∧ (s.mate.failing = true → exec .failHeartbeatEnd s = .next (withFwd (fun s =>
        (releaseFns { s with mate := { s.mate with failing := false } }).wr pMATE F.MATE_STATUS_FWD_HOLD 1) s))
    ∧ (s.role ≠ 3 → s.mate.claim = .idle → cmdCode s pMATE ag (arg = 0) (s.inState pMATE .run && s.mateMode = 1 && !s.rdB pMATE F.MATE_EVENT_ID_CONFLICT) = rDONE →
        exec (.claim pMATE ag arg) s
          = .next (record pMATE ag 4 0x42 rDONE ({ s with mate := { s.mate with claim := .waiting } }.wr pMATE F.MATE_STATUS_ROLE 2)))
    ∧ (s.mate.claim = .waiting → s.inState pMATE .run = true → s.rdB pMATE F.MATE_STATUS_CLAIM_IN = false → peerClaims s = false →
        exec .claimAssert s = .next ({ s with mate := { s.mate with claim := .guard } }.wr pMATE F.MATE_STATUS_CLAIM_OUT 1))
    ∧ (s.mate.claim = .guard → s.rdB pMATE F.MATE_STATUS_CLAIM_IN = false → s.mate.taking = false →
        exec .claimGuardExpiry s = .next { s.wr pMATE F.MATE_STATUS_ROLE 3 with mate := { s.mate with claim := .idle } })
    ∧ (s.mate.claim = .guard → s.rdB pMATE F.MATE_STATUS_CLAIM_IN = true → s.mateId = 0 →
        exec .claimGuardExpiry s = .next { s with mate := { s.mate with claim := .yield } })
    ∧ (s.mate.claim = .guard → s.rdB pMATE F.MATE_STATUS_CLAIM_IN = true → s.mateId = 1 → s.mate.taking = false → exec .claimGuardExpiry s
        = .next { ((s.wr pMATE F.MATE_STATUS_CLAIM_OUT 0).wr pMATE F.MATE_EVENT_CLAIM_LOST 1).wr pMATE F.MATE_STATUS_ROLE 1 with
            mate := { s.mate with claim := .idle } })
    ∧ (∀ level, exec (.claimInChange level) s = .next (s.wr pMATE F.MATE_STATUS_CLAIM_IN (b2n level)))
    ∧ (s.mate.claim = .waiting → s.mate.taking = false → exec .claimBlockedTimeout s = .next (srcEvent 334 (s.wr pMATE F.MATE_EVENT_CLAIM_BLOCKED 1)))
    ∧ (s.mate.taking = false → cmdCode s pMATE ag (arg = 0) (s.inState pMATE .run && s.mateMode = 1) = rDONE →
        exec (.mateRelease pMATE ag arg) s = .next (record pMATE ag 4 0x43 rDONE (dropClaim s)))
    ∧ (∀ s1, s1 = s.wr pMATE F.MATE_STATUS_ARB_GRANT 1 → s.rdB pMATE F.MATE_STATUS_ARB_GRANT = false → s1.mateMode = 2 → s1.inState pMATE .run = true →
        exec (.arbGrantChange true) s = .next (takeoverEnd (setRole 3 (takeoverBegin s1))))
    ∧ (∀ s1, s1 = { s.wr pMATE F.MATE_STATUS_ARB_GRANT 0 with mate := { s.mate with barred := false } } → s.rdB pMATE F.MATE_STATUS_ARB_GRANT = true →
        s1.mateMode = 2 → s1.inState pMATE .run = true → exec (.arbGrantChange false) s = .next (s1.wr pMATE F.MATE_STATUS_ROLE 1))
    ∧ (cmdCode s pMATE ag (arg = 0) (s.inState pMATE .run && matePresent s) = rDONE →
        exec (.rejoin pMATE ag arg) s = .next (record pMATE ag 4 0x44 rDONE (withFwd (fun s => s.wr pMATE F.MATE_STATUS_FWD_HOLD 0) s)))
    ∧ (cmdCode s pMATE ag (arg = 0) (s.inState pMATE .run) = rDONE → exec (.resync pMATE ag arg) s = .next (record pMATE ag 4 0x45 rDONE (resync s)))
    ∧ (s.rdB pMATE F.MATE_CFG_LINK_EN = true → s.rd pMATE F.MATE_STATUS_LINK_STATE = lTRAINING ∨ s.rd pMATE F.MATE_STATUS_LINK_STATE = lDOWN →
        stateIn s pMATE [.ready, .run] = true → ∀ s1, s1 = withFwd (fun s => s.wr pMATE F.MATE_STATUS_LINK_STATE lUP) s →
          (s1.peerState ≠ 1 → exec .mateLinkUp s = .next s1) ∧ (s1.peerState = 1 → s1.inState pMATE .run = true → exec .mateLinkUp s = .next (resync s1)))
    ∧ (mateUp s = true → exec .mateLinkDown s = .next (withFwd (fun s => s.wr pMATE F.MATE_STATUS_LINK_STATE lDOWN) s))

/-- What crosses the mate link: frames, mirror records, learning events, touches, snapshots, the pair lock and gate commits (R447, R448, R459 to R461). -/
def Obligations.MateFramesComplete : Prop :=
  ∀ (ag v n tc q : Nat) (w : View) (d : List Byte) (s : State),
    (mateUp s = true → pinsTested s = false → s.inState pMATE .run = true →
      exec (.mateDataFrameRx tc q d true) s = .next (mateFrame tc q d s)
      ∧ (recKind n = 1 ∨ recKind n = 2 → exec (.mateMirrorRecordRx n true) s = .next (queueSeq
          ⟨true, recKey n, 0, learnedAction (recPort n), false, !recMate n, none, recKind n, s.tick, false, true⟩ s))
      ∧ (recKind n = 3 → exec (.mateMirrorRecordRx n true) s = .next (queueSeq ⟨false, recKey n, 0, 0, false, false, none, 3, s.tick, false, true⟩ s))
      ∧ (singleOwner s = true → recPort n < 48 → emFind s 0 (recKey n) = none →
          exec (.mateLearnEventRx n true) s = .next (learnEvent (recPort n) (recKind n) (recKey n) true s))
      ∧ (∀ l x g, singleOwner s = true → recPort n < 48 → emFind s 0 (recKey n) = some (l, x, g) →
          (moves g (recPort n) = true → exec (.mateLearnEventRx n true) s = .next (moveRule (recPort n) (recKey n) g true s))
          ∧ (moves g (recPort n) = false → exec (.mateLearnEventRx n true) s = .next (learnEvent (recPort n) (recKind n) (recKey n) true s)))
      ∧ (∀ l x g, emFind s 0 (ofBe d) = some (l, x, g) → d.length = 8 → exec (.agerTouchRx d true) s
          = .next (setGroups (s.tab.groups.insert l { g with ts := s.tick }) s))
      ∧ (d.length = 24 → ∃ t, exec (.servoSnapshotRx d true) s = .next t ∧ t.rd pMATE F.MATE_PEER_SERVO_DATA 0 0 = ofBe (slice d 0 4) % 2 ^ 32
          ∧ t.rd pMATE F.MATE_PEER_SERVO_DATA 1 2 = ofBe (slice d 20 4) % 2 ^ 32 ∧ t = { s with reg := t.reg })
      ∧ (∀ l, s.mate.plReq = some (ag, l) → byteAt d 0 = 1 → byteAt d 1 = 16 * s.mateId + ag → plSpeaks 1 (byteAt d 1) (ofBe (slice d 4 4)) = true →
          exec (.plockFrameRx d true) s = .next (record pMATE ag 21 0xFF (ofBe (slice d 4 4)) { s with mate := { s.mate with plReq := none } }))
      ∧ (plSpeaks (byteAt d 0) (byteAt d 1) (ofBe (slice d 4 4)) = false → exec (.plockFrameRx d true) s = .next s)
      ∧ (byteAt d 0 = 0 → plSpeaks 0 (byteAt d 1) (ofBe (slice d 4 4)) = true → singleOwner s = true →
          ∀ x, x = plDecide (byteAt d 1 / 16) (byteAt d 1 % 16) (ofBe (slice d 4 4)) s →
          exec (.plockFrameRx d true) s = .next (mateSend 4 0 0 (plPayload 1 (byteAt d 1) x.2) x.1))
      ∧ ((gateCommit d s).1 = true → exec (.gateCommitRx d true) s = .next (gateCommit d s).2)
      ∧ ((gateCommit d s).1 = false → exec (.gateCommitRx d true) s = .next (srcEvent 334 (count (cChip 84) (gateCommit d s).2))))
    ∧ (mateUp s = true → pinsTested s = false → exec (.mateDataFrameRx tc q d false) s = .next (count (cChip 80) s) ∧ exec (.gateCommitRx d false) s = .next (count (cChip 80) s))
    ∧ (beating s = true → s.tab.touched = [] → exec .agerTouchSend s = .next (countBy (cChip 83) 0 s))
    ∧ (beating s = true → 0 < s.tab.touched.length → s.tab.touched.length ≤ 2000 → exec .agerTouchSend s
        = .next (mateSend 7 0 0 (s.tab.touched.flatMap (beBytes 8)) (countBy (cChip 83) 0 { s with tab := { s.tab with touched := [] } })))
    ∧ (beating s = true → s.rd pMATE F.MATE_POL_MIR_POL_COUNT = 0 → exec .snapshotSend s = .next (mateSend 6 0 0 (servoPayload s) s))
    ∧ (∀ l, l = newVals s pMATE .mate 0x054 w v → plockCode s ag w v = rDONE → singleOwner s = true →
        (plAcq l = true → plRel l = false → v % 2 ^ 20 ≠ 0 → v % 2 ^ 20 ≤ 1000000 →
          exec (.plockAcquire w ag v) s = .next (record pMATE ag 21 0xFF (plDecide s.mateId ag v s).2 (plDecide s.mateId ag v s).1))
        ∧ (plAcq l = false → plRel l = true →
          exec (.plockRelease w ag v) s = .next (record pMATE ag 21 0xFF (plDecide s.mateId ag v s).2 (plDecide s.mateId ag v s).1)))
    ∧ (∀ l, s.mate.plReq = some (ag, l) →
        exec .plockTimeout s = .next (record pMATE ag 21 0xFF rTIMEOUT { s with mate := { s.mate with plReq := none } }))

/-! ### The host interface -/

/-- Accesses, the link, rings, held lines, the decoder and the time window, MSI-X and the resets (R495 to R522). -/
def Obligations.HostCommandsComplete : Prop :=
  ∀ (ag arg n k i f v len addr : Nat) (w : View) (d : List Byte) (s : State),
    exec (.mmioTimeout false) s = .next (srcEvent 336 (count (cChip 96) s))
    ∧ (∀ s1, s1 = srcEvent 336 (count (cChip 96) s) → exec (.mmioTimeout true) s = .next { s1 with out := s1.out ++ [.abort] })
    ∧ (ringCode s n 3 ag v = rDONE → exec (.ringDoorbell n ag v) s = .next (windowResult pHIF ag (0xA00000 + 64 * n + 12) rDONE
        (prefetch n (ringEnable n (s.ringRd n F.RING_EN) ((entryVals s (wRING n) .ring 12 v).foldl (storeVal (wRING n) ag) s)))))
    ∧ (ringCode s n k ag v = rDONE → exec (.ringEntryWrite n k ag v) s = .next (windowResult pHIF ag (0xA00000 + 64 * n + 4 * k) rDONE
        (prefetch n (ringEnable n (s.ringRd n F.RING_EN) ((entryVals s (wRING n) .ring (4 * k) v).foldl (storeVal (wRING n) ag) s)))))
    ∧ (∀ c, c ≠ rDONE → ringCode s n k ag v = c → exec (.ringEntryWrite n k ag v) s = .next (windowResult pHIF ag (0xA00000 + 64 * n + 4 * k) c s))
    ∧ (∀ (c : RingCopy) (s1 : State), s.hif.waiting.find? (fun c => crosses s c.copy.frame) = some c →
        s1 = { s with hif := { s.hif with waiting := s.hif.waiting.erase c } } →
        (ringOpen s1 c.ring 0 = true → ∀ s2, s2 = takeSlot c.ring (holdLine c.ring (s1.ringRd c.ring F.RING_DEV_IDX) s1) → exec .rxRingDelivery s
          = .next (prefetch c.ring { s2 with hif := { s2.hif with
              slots := s2.hif.slots ++ [(⟨c.ring, s1.ringRd c.ring F.RING_DEV_IDX, c.copy, c.reason, c.code⟩ : RxSlot)] } }))
        ∧ (ringOpen s1 c.ring 0 = false → exec .rxRingDelivery s = .next (dropHostCopy c.copy (count (cRing c.ring 0) s1))))
    ∧ (∀ (y : RxSlot) (x : Frame) (ecc : Nat), s.hif.slots.find? (fun y => y.ring = n) = some y → s.frames.find? y.copy.frame = some x → x.complete = true →
        crosses s y.copy.frame = true → ∀ b, b = (if x.served then padFrame x.edited else copyBytes s x y.copy) →
        ∀ s1 s2, s1 = { s with hif := { s.hif with slots := s.hif.slots.erase y } } →
          s2 = dropHostCopy y.copy (if x.served then s1 else readData y.copy.frame ecc s1) →
          (x.bad = false → readBad ecc = false → 64 ≤ len →
            exec (.rxSlotWrite n addr len ecc) s = .next (completeSlot n y.idx (rxLine s y x (if len < b.length then 1 else 0))
              { s2 with out := s2.out ++ [.dma addr (b.take len)] }))
          ∧ (x.bad = false → readBad ecc = false → len < 64 → exec (.rxSlotWrite n addr len ecc) s = .next (completeSlot n y.idx
              [(slotAddr s n y.idx + 0x3C, cmplWord s n y.idx 3 y.reason (min 16383 (fullBytes s x y.copy).length))] s2))
          ∧ (x.served = false → readBad ecc = true → exec (.rxSlotWrite n addr len ecc) s = .next (completeSlot n y.idx (rxLine s y x 2) s2)))
    ∧ (∀ dest ctrl tc s1, nextTx s = some n → (fabricOpen s = true ∨ ctrl % 4 = 2 ∨ s.emb.asleep = true) → i = s.ringRd n F.RING_DEV_IDX → s1 = takeSlot n (holdLine n i s) → ∀ s2, s2 = prefetch n { s1 with hif := { s1.hif with txNext := n + 1 } } →
        (descOk len dest ctrl tc 0 = true → exec (.txDescriptorFetch n len dest ctrl tc 0 d) s = .next (sendHost n i dest ctrl tc (d.take len) s2))
        ∧ (descOk len dest ctrl tc 0 = false → exec (.txDescriptorFetch n len dest ctrl tc 0 d) s
          = .next { s2 with hif := { s2.hif with dones := s2.hif.dones ++ [(⟨n, i, 1, 9, none⟩ : TxDone)] } }))
    ∧ (∀ y : TxDone, s.hif.dones.find? (fun y => y.ring = n) = some y → y.rec_ = none → exec (.txCompletion n) s = .next (completeSlot n y.idx
        [(slotAddr s n y.idx + 0x3C, cmplWord s n y.idx y.status y.reason 0)] { s with hif := { s.hif with dones := s.hif.dones.erase y } }))
    ∧ (∀ (r : List Byte) (l : List (Nat × List Byte)) (s1 : State), s.tab.notices = (n, r) :: l → s1 = { s with tab := { s.tab with notices := l } } →
        ringOpen s1 n 2 = true → r.length = 16 → i = s1.ringRd n F.RING_DEV_IDX → exec .recordRingWrite s = .next (completeSlot n i
          [(slotAddr s1 n i, r ++ List.replicate 44 0), (slotAddr s1 n i + 0x3C, cmplWord s1 n i 0 0x10 0)] (prefetch n (takeSlot n (holdLine n i s1)))))
    ∧ (ringOpen s n 1 = true → ∀ s1, s1 = withLine 337 (fun s => s.setF pHIF F.HIF_RING_ERR_ANY) (txDone n (s.ringRd n F.RING_DEV_IDX) 2 0 none (takeSlot n s)) →
        exec (.dmaError n k false) s = .next (count (cRing n 1) (stopRing n 2 ((s1.wr pHIF F.HIF_RING_ERR_KIND k).wr pHIF F.HIF_RING_ERR_RING n))))
    ∧ (∀ x : HeldLine, s.hif.lines.find? (fun x => x.ring = n && x.idx = i) = some x →
        exec (.hostSnoop n i) s = .next (releaseLine x s) ∧ (x.data ≠ [] → exec (.lineWriteback n i) s = .next (releaseLine x s)))
    ∧ (cmdCode s pHIF ag (arg = 0) (stateIn s pHIF [.ready, .run, .fenced]) = rDONE →
        exec (.cacheFlush pHIF ag arg) s = .next (record pHIF ag 4 0x42 rDONE (s.hif.lines.foldl (fun s x => releaseLine x s) s)))
    ∧ (s.rd pHIF F.HIF_LINK_LINK_MODE = 1 → v % 2 ^ 28 = 0 → windowBytes (s.rd pPEAT F.PEAT_CTRL_WIN_GIB) + 2 ^ 28 ≤ v →
        exec (.hdmCommit v) s = .next ({ s with hif := { s.hif with hdmSize := v, hdmErr := false } }.wr pHIF F.HIF_LINK_HDM_COMMITTED 1))
    ∧ (s.rd pHIF F.HIF_LINK_LINK_MODE = 1 → (v % 2 ^ 28 ≠ 0 ∨ v < windowBytes (s.rd pPEAT F.PEAT_CTRL_WIN_GIB) + 2 ^ 28) →
        exec (.hdmCommit v) s = .next { s with hif := { s.hif with hdmErr := true } })
    ∧ (s.rdB pHIF F.HIF_LINK_HDM_COMMITTED = true → s.inState pTIME .reset = false → ∀ s1, s1 = (timeSnapshot s).2 →
        exec (.timeWindowRead 0) s = .next { s1 with out := s1.out ++ [.cxlData (s.hif.hdmSize - 4096) (timeSnapshot s).1 false] }
        ∧ (0 < k → exec (.timeWindowRead k) s = .next { s with out := s.out ++ [.cxlData (s.hif.hdmSize - 4096 + 64 * k) (List.replicate 64 0) false] }))
    ∧ exec .timeWindowWrite s = .next (count (cChip 99) s)
    ∧ (s.rd pHIF F.HIF_LINK_LINK_MODE = 2 → fnPresent s f = true → s.inState pTIME .reset = false → ∀ s1, s1 = (timeSnapshot s).2 →
        exec (.bar2TimeRead f 0 64) s = .next { s1 with
          hif := { s1.hif with bar2 := s1.hif.bar2.insert f (timeSnapshot s).1 }
          out := s1.out ++ [.bar2 f 0 (slice (timeSnapshot s).1 0 64 ++ List.replicate (64 - (slice (timeSnapshot s).1 0 64).length) 0)] })
    ∧ (gateCode s pHIF (0x060 + 4 * f) w ag v (partitionRange s f) (fun _ => !s.hif.msixEn.get false f) noBusy = rDONE → exec (.msixPartitionWrite f w ag v) s
        = .next (record pHIF ag ((0x060 + 4 * f) / 4) 0xFF rDONE ((gateVals s pHIF (0x060 + 4 * f) w v).foldl (storeVal pHIF ag) s)))
    ∧ (gateCode s pHIF (0x100 + 0x20 * n) w ag v (fun l => nv s pHIF l F.HIF_MGMT_CFG_MODE n != 3) (mgmtState s n) noBusy = rDONE → exec (.mgmtModeWrite n w ag v) s
        = .next (record pHIF ag ((0x100 + 0x20 * n) / 4) 0xFF rDONE ((gateVals s pHIF (0x100 + 0x20 * n) w v).foldl (storeVal pHIF ag) s)))
    ∧ (s.rd pHIF F.HIF_LINK_LINK_MODE ≠ 0 → fnPresent s f = true →
        exec (.configSpaceWrite f 0 v) s = .next (faultSync { s with hif := { s.hif with msixEn := s.hif.msixEn.put false f (v % 2 = 1) } })
        ∧ exec (.configSpaceWrite f 1 v) s = .next (faultSync { s with hif := { s.hif with fnMask := s.hif.fnMask.put false f (v % 2 = 1) } })
        ∧ exec (.configSpaceWrite f 2 v) s = .next (faultSync { s with hif := { s.hif with busMaster := s.hif.busMaster.put false f (v % 2 = 1) } }))
    ∧ (fnPresent s f = true → exec (.functionLevelReset f) s = .next (functionReset f s))
    ∧ (∃ t, exec .hostLinkReset s = .next t ∧ t.hif.hdmSize = 0 ∧ t.rd pHIF F.HIF_LINK_LINK_MODE = 0 ∧ t.rdB pHIF F.HIF_LINK_HDM_COMMITTED = false)
    ∧ (∀ speed, s.rd pHIF F.HIF_LINK_LINK_MODE = 0 → k = 1 ∨ k = 2 → ∃ t, exec (.hostLinkUp k len speed) s = .next t ∧ t.rd pHIF F.HIF_LINK_LINK_MODE = k
        ∧ t.hif.present = 1 + 2 * s.rd pHIF F.HIF_FN_FN_EN ∧ t = { s with reg := t.reg, hif := { s.hif with present := t.hif.present }, pages := t.pages })

/-! ### Interrupts -/

/-- Events, delivery, claims and completions, hold-off and the source window (R523 to R537, R547). -/
def Obligations.InterruptCommandsComplete : Prop :=
  ∀ (t n ag v g k : Nat) (w : View) (s : State),
    (srcLevel n = false → srcConnected n = true → s.rdB (wISRC n) F.SRC_EN = true → s.inState pINT .reset = false →
      exec (.interruptEvent n) s = .next (s.updSrc n (fun x => { x with count := min 255 (x.count + 1), pending := true })))
    ∧ ((s.src n).line = true → lineOf s n = false → exec (.levelDeassert n) s = .next (srcFall n s))
    ∧ (nextSource s t = some n → exec (.interruptDelivery t) s = .next (deliver t n s))
    ∧ (∀ (e : StkEntry) (r : List StkEntry), s.stack t = e :: r → mayClaim s t ag = true → (s.src e.source).claimed = false →
        exec (.intClaimRead t ag .normal) s = .next { s.updSrc e.source (fun x => { x with claimed := true, claimCount := x.count, count := 0 }) with
          out := s.out ++ [.claim t (2 ^ 31 + b2n (s.src e.source).retracted * 2 ^ 30 + e.prio * 2 ^ 24 + (s.src e.source).count * 2 ^ 16 + e.source)] })
    ∧ (∀ (l : List NewVal) (e : StkEntry) (r : List StkEntry), l = newVals s pINT .int (0x400 + 4 * t) w v → lockedBy s pINT ag = false →
        rangeOk s pINT .int (0x400 + 4 * t) w v = true → stateOk s pINT ag .int (0x400 + 4 * t) = true → mayClaim s t ag = true → s.stack t = e :: r →
        e.source = nv s pINT l F.INT_CLAIM_SOURCE t → (s.src e.source).claimed = true →
        exec (.intComplete t ag w v) s = .next (record pINT ag ((0x400 + 4 * t) / 4) 0xFF rDONE
          (setStack t r (s.updSrc e.source (fun x => { x with active := false, claimed := false, retracted := false })))))
    ∧ (∀ (l : List NewVal) (e : StkEntry) (r : List StkEntry), l = newVals s pINT .int (0x400 + 4 * t) w v → lockedBy s pINT ag = false →
        rangeOk s pINT .int (0x400 + 4 * t) w v = true → stateOk s pINT ag .int (0x400 + 4 * t) = true → mayClaim s t ag = true → s.stack t = e :: r →
        n = nv s pINT l F.INT_CLAIM_SOURCE t → e.source ≠ n →
        exec (.intComplete t ag w v) s = .next (stackFault t n (record pINT ag ((0x400 + 4 * t) / 4) 0xFF rSTATE s)))
    ∧ ((∀ e, s.int.holdEnd.find? g = some e → e ≤ s.now) →
        exec (.holdoffExpiry g) s = .next { s with int := { s.int with holdEnd := s.int.holdEnd.erase g } })
    ∧ (∀ e, s.int.holdEnd.find? g = some e → s.now < e → exec (.holdoffExpiry g) s = .next s)
    ∧ (cmdCode s pINT ag (t ≤ 257) (stateIn s pINT [.ready, .run]) = rDONE → exec (.stackClear pINT ag t) s
        = .next (record pINT ag 4 0x42 rDONE (setStack t []
          ((s.stack t).foldl (fun s e => s.updSrc e.source (fun x => { x with active := false, claimed := false, retracted := false })) s))))
    ∧ (entryCode s pINT (wISRC n) .isrc (4 * k) ag v (sourceRange s n k v) (sourceState s n k) = rDONE → exec (.intSourceWrite n k ag v) s
        = .next (windowResult pINT ag (0x800000 + 32 * n + 4 * k) rDONE (sourceTaken s n k v (entryVals s (wISRC n) .isrc (4 * k) v)
          ((entryVals s (wISRC n) .isrc (4 * k) v).foldl (storeVal (wISRC n) ag) s))))
    ∧ (entryCode s pINT (wISRC n) .isrc 8 ag 1 (sourceRange s n 2 1) (sourceState s n 2) = rDONE → exec (.fire n ag 1) s
        = .next (windowResult pINT ag (0x800000 + 32 * n + 8) rDONE (srcEvent n ((entryVals s (wISRC n) .isrc 8 1).foldl (storeVal (wISRC n) ag) s))))

/-! ### The Ember domain -/

/-- Power failure, the smoulder state's entry and exit, and the temperature alarm (R538 to R545, R612). -/
def Obligations.EmberCommandsComplete : Prop :=
  ∀ (ag arg k : Nat) (s : State),
    (∀ s1, s1 = (withLine 338 (fun s => { s with emb := { s.emb with pfLevel := true } }) s).wr pEMB F.EMB_STATUS_PF_LEVEL 1 →
      ((s.emb.pfLevel = true ∨ s1.rdB pEMB F.EMB_CTRL_PF_EN = false ∨ s1.inState pEMB .run = false) → exec .powerFailAssert s = .next s1)
      ∧ (s.emb.pfLevel = false → s1.rdB pEMB F.EMB_CTRL_PF_EN = true → s1.inState pEMB .run = true → smState s1 = 0 →
        exec .powerFailAssert s = .next (smoulderStart true s1)))
    ∧ (∀ s1, s1 = ({ s with emb := { s.emb with pfLevel := false, deferred := none } }.wr pEMB F.EMB_STATUS_PF_LEVEL 0).wr pEMB F.EMB_STATUS_WAKE_DEFERRED 0 →
      (∀ x, s.emb.deferred = some x → exec .powerFailDeassert s = .next (wakeTaken x s1))
      ∧ (s.emb.deferred = none → s.emb.pfLevel = true → s1.rdB pEMB F.EMB_CTRL_WAKE_ON_PWR = true → exec .powerFailDeassert s = .next (wakeTaken .power s1))
      ∧ (s.emb.deferred = none → s.emb.pfLevel = false → exec .powerFailDeassert s = .next s1))
    ∧ (s.rdB pEMB F.EMB_WATCH_EN k = true → smState s = 2 →
      (s.emb.pfLevel = false → exec (.watchedWake k) s = .next (wakeStart (.watch k) s))
      ∧ (s.emb.pfLevel = true → s.rdB pEMB F.EMB_CTRL_PF_OVERRIDE = false → s.emb.deferred = none → exec (.watchedWake k) s
        = .next ({ s with emb := { s.emb with deferred := some (.watch k) } }.wr pEMB F.EMB_STATUS_WAKE_DEFERRED 1)))
    ∧ (smState s = 0 → cmdCode s pEMB ag (arg = 0) (s.inState pEMB .run) = rDONE →
      exec (.smoulderEnter pEMB ag arg) s = .next (record pEMB ag 4 0x42 rDONE (smoulderStart false s)))
    ∧ (smState s = 2 → s.emb.pfLevel = false → cmdCode s pEMB ag (arg = 0) (s.inState pEMB .run) = rDONE →
      exec (.smoulderExit pEMB ag arg) s = .next (record pEMB ag 4 0x43 rDONE (wakeStart .command s)))
    ∧ (smState s = 1 → ∀ s1 m, s1 = smoulderHalt s → m = s1.rd pEMB F.EMB_CTRL_SM_VCORE_MV → m < coreMv s1 → s1.sns.failed = false →
      exec .vcoreStep s = .next (requestMv (max m (coreMv s1 - 5)) s1))
    ∧ (smState s = 3 → coreMv s < s.emb.vBefore → s.sns.failed = false → exec .vcoreStep s = .next (requestMv (min s.emb.vBefore (coreMv s + 5)) s))
    ∧ (smState s = 1 → ∀ s1 s2, s1 = smoulderHalt s → (coreMv s1 ≤ s1.rd pEMB F.EMB_CTRL_SM_VCORE_MV ∨ s1.sns.failed = true) →
      s2 = (((s1.wr pEMB F.EMB_STATUS_SM_STATE 2).wr pEMB F.EMB_EVENT_ENTRY_SEEN 1).addSat pEMB F.EMB_EVENT_ENTRY_CNT).wr pEMB F.EMB_TIMES_LAST_ENTRY_US
        (min 65535 ((s1.now - s1.emb.since) / usU)) →
      (s2.emb.latched = none → exec .smoulderEntryDone s = .next s2) ∧ (∀ x, s2.emb.latched = some x → exec .smoulderEntryDone s = .next (wakeStart x s2)))
    ∧ (smState s = 3 → (s.emb.vBefore ≤ coreMv s ∨ s.sns.failed = true) → exec .smoulderExitDone s = .next (wakeEnd s))
    ∧ (∀ hot, exec (.dieTemperatureAlarm hot) s = .next { s with sns := { s.sns with hot := hot } })

/-! ### The ledger, the statistics and the SMBus -/

/-- Samples, records and their writing, the hold-up energy, counters and the record commands (R550 to R571). -/
def Obligations.LedgerCommandsComplete : Prop :=
  ∀ (ag arg i v : Nat) (s : State),
    (s.inState pLDG .run = true → ∀ temp, ∃ t, exec (.ledgerSample temp) s = .next t ∧ t.ldg.open_.secs = s.ldg.open_.secs + 1
      ∧ t.ldg.open_.tmax = some (match s.ldg.open_.tmax with | some x => max x temp | none => temp)
      ∧ t.ldg.open_.tmin = some (match s.ldg.open_.tmin with | some x => min x temp | none => temp)
      ∧ t.ldg.open_.errs = s.ldg.open_.errs ∧ t = { s with ldg := { s.ldg with open_ := t.ldg.open_ } })
    ∧ (s.inState pLDG .run = true → s.ldg.queue.length < 16 → exec .periodRecord s
        = .next { s with ldg := { s.ldg with queue := s.ldg.queue ++ [⟨1, s.ldg.open_.hour, s.ldg.open_.bytes, false⟩] } })
    ∧ (s.inState pLDG .run = true → s.ldg.queue.length < 16 → ∃ t, exec .hourClose s = .next t
        ∧ t.ldg.queue = s.ldg.queue ++ [⟨2, s.ldg.open_.hour, s.ldg.open_.bytes, false⟩] ∧ s.ldg.open_.hour < t.ldg.open_.hour ∧ t.ldg.open_.secs = 0)
    ∧ (s.inState pLDG .run = true → slotCount s ≠ 0 → s.ldg.wstate = .idle ∨ s.ldg.wstate = .deferred → s.boot.flashOp = none → s.boot.warm = none →
        ∀ (r : LdgRec) (l : List LdgRec), s.ldg.queue = r :: l →
          (mayStartOp s (recordNeeds s) = true → exec .ledgerWrite s = .next (recordStart r { s with ldg := { s.ldg with queue := l } }))
          ∧ (mayStartOp s (recordNeeds s) = false → exec .ledgerWrite s = .next (recordDefer r l s)))
    ∧ (s.inState pLDG .reset = false → ∀ c, c = min 4095 (v * 4096 / 1200000) → exec (.holdupSample v) s = .next (syncHoldup ((s.wr pLDG F.LDG_HU_STAT_CODE c).wr
        pLDG F.LDG_HU_STAT_E_MJ (min 65535 (holdupEnergy c (s.rd pLDG F.LDG_HU_CFG_DIV) (s.rd pLDG F.LDG_HU_CFG_CAP_MF) (s.rd pLDG F.LDG_HU_LIM_VMIN_MV))))))
    ∧ (exec (.holdupOkChange false) s = .next (syncHoldup (s.wr pLDG F.LDG_HU_STAT_HOLDUP_OK 0)))
    ∧ (∀ s1, s1 = s.wr pLDG F.LDG_HU_STAT_HOLDUP_OK 1 → s.rdB pLDG F.LDG_HU_STAT_HOLDUP_OK = false →
        exec (.holdupOkChange true) s = .next (syncHoldup { s1 with ldg := { s1.ldg with holdupAt := s1.now } }))
    ∧ (∀ o : FlashOp, s.boot.flashOp = some o → o.ldg = true → ∀ s1, s1 = flashFree (ledgerFail (setFlashOp none (flashTear o s))) → s1.boot.warm = none →
        exec .flashTimeout s = .next s1)
    ∧ (∀ b n, b = s.rd pLDG F.LDG_CLR_BASE_BASE → n = s.rd pLDG F.LDG_CLR_COUNT_COUNT → b + n ≤ 524288 →
        cmdCode s pLDG ag (arg = 0) (stateIn s pLDG [.ready, .run, .fenced]) = rDONE →
        exec (.ldgCntClear pLDG ag arg) s = .next (record pLDG ag 4 0x42 rDONE (clearCounters b n s)))
    ∧ (s.boot.flashOp = none → cmdCode s pLDG ag (arg = 0) (stateIn s pLDG [.ready, .run]) = rDONE → ∀ d, findRec s (s.rd pLDG F.LDG_RD_SEL_BACK) = some d →
        exec (.readRec pLDG ag arg) s = .next (record pLDG ag 4 0x43 rDONE
          ((List.range 64).foldl (fun s w => s.wr pLDG F.LDG_RD_DATA_DATA (ofLe (slice d (4 * w) 4)) w) s)))
    ∧ (s.boot.flashOp.isSome = true → cmdCode s pLDG ag (arg = 0) (stateIn s pLDG [.ready, .run]) = rDONE → exec (.readRec pLDG ag arg) s
        = .next (s.updPage pLDG (fun h => { h with cmd := some ⟨0x43, arg, ag, [s.rd pLDG F.LDG_RD_SEL_BACK]⟩ })))
    ∧ (s.ldg.wstate = .stopped → cmdCode s pLDG ag (arg = 0) (s.inState pLDG .run) = rDONE → exec (.ldgRestart pLDG ag arg) s
        = .next (record pLDG ag 4 0x44 rDONE (setW .idle { s with ldg := { s.ldg with fails := 0 } })))
    ∧ (s.inState pLDG .reset = false → exec (.statLowRead i ag) s = .next { s with
        cnt := { s.cnt with latch := s.cnt.latch.insert ag (i, s.counter i) }
        out := s.out ++ [.read ag (s.counter i % 2 ^ 32)] })
    ∧ (lockedBy s pLDG ag = false → windowState s pLDG = true → exec (.statLowWrite i ag v) s = .next (windowResult pLDG ag (0x400000 + 8 * i) rDONE
        { s with cnt := { s.cnt with half := s.cnt.half.insert ag (i, v) } }))
    ∧ (lockedBy s pLDG ag = false → windowState s pLDG = true → ∀ lo, s.cnt.half.find? ag = some (i, lo) → exec (.statHighWrite i ag v) s
        = .next (windowResult pLDG ag (0x400004 + 8 * i) rDONE (setCounter i (v * 2 ^ 32 + lo) { s with cnt := { s.cnt with half := s.cnt.half.erase ag } })))

/-- The SMBus slave's answers (R568, R612, R620). -/
def Obligations.SmbusCommandsComplete : Prop :=
  ∀ (w : Nat) (temp : Int) (s : State),
    (w.testBit 15 = false → ∀ s1 : State, s1 = { s with ldg := { s.ldg with smbSel := some (w % 4096, w / 4096 % 8), smbRec := none } } →
      (s.boot.flashOp = none → exec (.smbRecordSelect w) s = .next { s1 with ldg := { s1.ldg with smbRec := findRec s1 (w % 4096) } })
      ∧ (s.boot.flashOp.isSome = true → exec (.smbRecordSelect w) s = .next s1))
    ∧ (w.testBit 15 = true → exec (.smbRecordSelect w) s = .next s)
    ∧ (∀ b c d, s.ldg.smbSel = some (b, c) → s.ldg.smbRec = some d → exec .smbRecordRead s = .next { s with out := s.out ++ [.smb (32 :: slice d (32 * c) 32)] })
    ∧ (s.ldg.smbRec = none → exec .smbRecordRead s = .next { s with out := s.out ++ [.smb [0]] })
    ∧ exec .smbLdgStatus s = .next { s with out := s.out ++ [.smb (leBytes 2 (ldgStatus s))] }
    ∧ exec .smbBootStatusLo s = .next { s with out := s.out ++ [.smb (leBytes 2 (bootStatus s))] }
    ∧ exec .smbBootStatusHi s = .next { s with out := s.out ++ [.smb (leBytes 2 (bootStatus s / 2 ^ 16))] }
    ∧ exec (.smbTemperature false temp) s = .next { s with out := s.out ++ [.smb (leBytes 2 (ofSigned 16 temp))] }
    ∧ (singleOwner s = true → exec (.smbTemperature true temp) s = .next { s with out := s.out ++ [.smb (leBytes 2 (ofSigned 16 temp))] })
    ∧ (singleOwner s = false → exec (.smbTemperature true temp) s = .next s ∧ exec (.smbAlarm true) s = .next s)
    ∧ exec (.smbAlarm false) s = .next { s with out := s.out ++ [.smb (leBytes 2 (alarmWord s))] }
    ∧ (smbAlert s = true → exec .smbAlertResponse s = .next { s with out := s.out ++ [.smb [BitVec.ofNat 8 (2 * (0x58 + s.rd pBOOT F.BOOT_STRAP_MATE_ID))]] })
    ∧ exec .smbTimeout s = .next s

/-! ### Reset, boot, the fuses, the flash and the TAP -/

/-- Resets, the host's image, fuses, unlock, the flash commands and the TAP (R580 to R600). -/
def Obligations.BootCommandsComplete : Prop :=
  ∀ (ag arg : Nat) (s : State),
    (∀ (b : Board) (cells : List (Nat × Nat)), b.bootMode = 2 → s.boot.flashOp = none → ∃ t, exec (.coldReset b cells) s = .next t
        ∧ t.rd pBOOT F.BOOT_STATUS_PHASE = 8 ∧ t.rdB pBOOT F.BOOT_STATUS_DONE = true ∧ t.rdB pBOOT F.BOOT_STATUS_SAFE = true)
    ∧ (∀ b : Board, ag < 8 → arg < 3 → smState s = 0 → s.boot.flashOp.isSome = true → cmdCode s pBOOT ag true (s.inState pBOOT .ready) = rDONE →
        ∃ t, exec (.chipReset pBOOT ag arg b) s = .next t ∧ t.boot.warm = some arg ∧ t.boot.flashOp = s.boot.flashOp)
    ∧ (s.rd pBOOT F.BOOT_STATUS_PHASE = 9 → s.rd pHIF F.HIF_LINK_LINK_MODE ≠ 0 → s.hif.busMaster.get false 0 = true → 1024 ≤ s.hif.imgLen → s.hif.imgLen ≤ 4194304 →
        exec (.imageLoadGo none) s = .next (s.wr pBOOT F.BOOT_STATUS_DETAIL 13)
        ∧ (∀ d, headerCode s ((d.take s.hif.imgLen).take 1024) = 3 → exec (.imageLoadGo (some d)) s
            = .next ((s.wr pBOOT F.BOOT_STATUS_CODE rAUTH).wr pBOOT F.BOOT_STATUS_DETAIL 3))
        ∧ (∀ d y t, y = d.take s.hif.imgLen → headerCode s (y.take 1024) = 0 → imageCode s y = 0 → bootImage 2 y s = (none, t) →
            exec (.imageLoadGo (some d)) s = .next t))
    ∧ (ag < 8 → s.rdB pBOOT F.BOOT_STATUS_SAFE = false → cmdCode s pBOOT ag (arg = 0) (s.inState pBOOT .ready) = rDONE → exec (.rbAdvance pBOOT ag arg) s
        = .next (s.updPage pBOOT (fun h => { h with cmd := some ⟨0x41, arg, ag, [s.rd pBOOT F.BOOT_ROLLBACK_IMG_RB]⟩ })))
    ∧ (∀ w v, ag < 8 → w = s.rd pBOOT F.BOOT_OTP_SEL_WORD → v = s.rd pBOOT F.BOOT_OTP_DATA_DATA → w < 21 → w ≠ 12 → s.rdB pBOOT F.BOOT_OTP_LOCK = false →
        cmdCode s pBOOT ag (arg = 0) (s.inState pBOOT .ready) = rDONE → exec (.otpWrite pBOOT ag arg) s
          = .next (s.updPage pBOOT (fun h => { h with cmd := some ⟨0x42, arg, ag, [w, v]⟩ })))
    ∧ (ag < 8 → s.rdB pBOOT F.BOOT_STATUS_SAFE = false → s.rd pBOOT F.BOOT_JTAG_FAIL_CNT < 8 → cmdCode s pBOOT ag (arg = 0) (s.inState pBOOT .ready) = rDONE →
        exec (.unlock pBOOT ag arg) s = .next (record pBOOT ag 4 0x43 (unlock s).2 (unlock s).1))
    ∧ (∀ a n, ag < 8 → a = s.rd pBOOT F.BOOT_FL_ADDR_FL_ADDR → n = s.rd pBOOT F.BOOT_FL_LEN_LEN → cmdCode s pBOOT ag (arg = 0) (s.inState pBOOT .ready) = rDONE →
        (a + n ≤ s.boot.flashSize → s.boot.flashOp = none → exec (.flashRead pBOOT ag arg) s = .next (record pBOOT ag 4 0x44 rDONE (flashToData a n s)))
        ∧ (a + n ≤ s.boot.flashSize → s.boot.flashOp = none → s.boot.warm = none → a % 256 + n ≤ 256 → inPartition s a n = false →
          ∃ t, exec (.flashProg pBOOT ag arg) s = .next t ∧ t.boot.flashOp = some ⟨false, a, (stagedBytes s n).map (BitVec.ofNat 8), false⟩
            ∧ (t.page pBOOT).cmd = some ⟨0x45, arg, ag, a :: n :: stagedBytes s n⟩ ∧ t = { s with pages := t.pages, boot := t.boot })
        ∧ (a + 4096 ≤ s.boot.flashSize → s.boot.flashOp = none → s.boot.warm = none → a % 4096 = 0 → inPartition s a 4096 = false →
          ∃ t, exec (.flashErase pBOOT ag arg) s = .next t ∧ t.boot.flashOp = some ⟨true, a, [], false⟩
            ∧ (t.page pBOOT).cmd = some ⟨0x46, arg, ag, [a]⟩ ∧ t = { s with pages := t.pages, boot := t.boot }))
    ∧ (∀ o : FlashOp, s.boot.flashOp = some o → o.ldg = false → o.erase = true → s.boot.warm = none → (s.page pBOOT).cmd = none → s.ldg.smbSel = none →
        ∃ t, exec .flashOperationComplete s = .next t ∧ t.boot.flashOp = none ∧ t.boot.opCode = some rDONE ∧ (∀ k, k < 4096 → t.boot.flash.get 0xFF (o.addr + k) = 0xFF)
          ∧ t = { s with boot := t.boot })
    ∧ (∃ t, exec .tapReset s = .next t ∧ t.boot.tap = .idcode ∧ t.boot.scopes = 0 ∧ t.rdB pBOOT F.BOOT_JTAG_DBG_OPEN = false
        ∧ t = { s with boot := { s.boot with tap := .idcode, scopes := 0 }, reg := t.reg })
    ∧ (exec (.jtagInstruction .idcode) s = .next { s with boot := { s.boot with tap := .idcode } })
    ∧ (s.rdB pBOOT F.BOOT_JTAG_LOCKED = true → s.rdB pBOOT F.BOOT_JTAG_DBG_OPEN = false →
        exec (.jtagInstruction .debug) s = .next { s with boot := { s.boot with tap := .bypass } })
    ∧ (s.rdB pBOOT F.BOOT_JTAG_LOCKED = false → ∀ i, exec (.jtagInstruction i) s = .next { s with boot := { s.boot with tap := i } })

/-! ### Rules of single units -/

/-- R526: every delivery pushes an entry on its target's stack; the running priority is that of the top entry and −1 while the stack is empty (`running` holds
it plus one); a delivery needs a priority above it; entries rise strictly from bottom to top through every step of the controller, and so at most 16 of priorities up to
15 stand on one stack. -/
def Obligations.PriorityStacksRiseStrictly : Prop :=
  ∀ (s : State) (t n ag v : Nat) (w : View),
    (nextSource s t = some n → (deliver t n s).stack t = ⟨n, s.rd (wISRC n) F.SRC_PRIO⟩ :: s.stack t ∧ running s t < s.rd (wISRC n) F.SRC_PRIO + 1)
    ∧ (s.stack t = [] → running s t = 0) ∧ (∀ (e : StkEntry) (l : List StkEntry), s.stack t = e :: l → running s t = e.prio + 1)
    ∧ (s.stacksOk → ∀ (i : Instr) (rest : List Instr) (u : State), s.pending = i :: rest →
        (i = .interruptDelivery t ∨ i = .interruptEvent n ∨ i = .levelDeassert n ∨ i = .intClaimRead t ag w
          ∨ i = .intComplete t ag w v ∨ i = .holdoffExpiry n ∨ i = .stackClear pINT ag t ∨ i = .porstNAssert) → step s = .next u → u.stacksOk)
    ∧ (s.stacksOk → (∀ e ∈ s.stack t, e.prio ≤ 15) → (s.stack t).length ≤ 16)

/-- R527: a source that is not enabled ignores every event; an enabled one counts it up to 255 and sets PENDING, masked or not, and an active one stays active; a
masked one is not delivered; a level source that deasserts while it is pending and not active loses PENDING and keeps COUNT. -/
def Obligations.EventsSetPending : Prop :=
  ∀ (s : State) (n t : Nat),
    (s.rdB (wISRC n) F.SRC_EN = false → srcEvent n s = s)
    ∧ (s.rdB (wISRC n) F.SRC_EN = true → srcConnected n = true → s.inState pINT .reset = false →
      ((srcEvent n s).src n).count = min 255 ((s.src n).count + 1) ∧ ((srcEvent n s).src n).pending = true
        ∧ ((srcEvent n s).src n).active = (s.src n).active ∧ ((srcEvent n s).src n).claimed = (s.src n).claimed
        ∧ ((srcEvent n s).src n).retracted = (s.src n).retracted
        ∧ (∀ m, m ≠ n → (srcEvent n s).src m = s.src m) ∧ srcEvent n s = { s with int := { s.int with src := (srcEvent n s).int.src } })
    ∧ (s.rdB (wISRC n) F.SRC_MASK = true → nextSource s t ≠ some n)
    ∧ ((s.src n).line = true → lineOf s n = false → (s.src n).pending = true → (s.src n).active = false →
      ∃ u, exec (.levelDeassert n) s = .next u ∧ (u.src n).pending = false ∧ (u.src n).count = (s.src n).count)

/-- R528: what a target is given next is a deliverable source, and of the deliverable ones that of the highest priority, on a tie that of the lowest number. -/
def Obligations.HighestPriorityIsDeliveredFirst : Prop :=
  ∀ (s : State) (t n : Nat) (ready : Nat → Prop),
    (∀ m, ready m ↔ s.rdB (wISRC m) F.SRC_EN = true ∧ s.rdB (wISRC m) F.SRC_MASK = false ∧ (s.src m).pending = true ∧ (s.src m).active = false
      ∧ s.rd (wISRC m) F.SRC_TARGET = t ∧ running s t < s.rd (wISRC m) F.SRC_PRIO + 1
      ∧ (∀ e, s.int.holdEnd.find? (m / 32) = some e → e ≤ s.now)
      ∧ s.rdB pINT F.INT_GLOBAL_HOLD_HOLD = false ∧ s.inState pINT .run = true
      ∧ (t < 256 → ∃ f, vecOwner s t = some f ∧ (s.hif.msix.get {} t).mask = false ∧ s.hif.fnMask.get false f = false ∧ s.hif.msixEn.get false f = true)
      ∧ (256 ≤ t → (s.rd pINT F.INT_PIN_CFG_PIN_MASK).testBit (t - 256) = false)) →
    (nextSource s t = some n ↔ ready n ∧ ∀ m, ready m → s.rd (wISRC m) F.SRC_PRIO < s.rd (wISRC n) F.SRC_PRIO
        ∨ (s.rd (wISRC m) F.SRC_PRIO = s.rd (wISRC n) F.SRC_PRIO ∧ n ≤ m))
    ∧ (nextSource s t = none ↔ ∀ m, ¬ ready m)

/-- R530: the claim. A read through the normal view by an agent that may claim answers VALID, the source, its priority, its COUNT and RETRACTED of a top entry that
is not claimed, latches and restarts COUNT and sets CLAIMED; any other read answers zeros and changes nothing. Any host function claims a pin, the function that
owns a vector claims at it, and agents from 8 on claim nothing. -/
def Obligations.ClaimsTakeTheTopEntry : Prop :=
  ∀ (s : State) (t ag : Nat) (w : View),
    (mayClaim s t ag = true ↔ ag < 8 ∧ (256 ≤ t ∨ vecOwner s t = some ag))
    ∧ (∀ (e : StkEntry) (l : List StkEntry), s.stack t = e :: l → (s.src e.source).claimed = false → mayClaim s t ag = true →
        e.source < 2048 → e.prio < 16 → (s.src e.source).count < 256 →
        ∃ (u : State) (word : Nat), exec (.intClaimRead t ag .normal) s = .next u ∧ u.out = s.out ++ [.claim t word]
          ∧ bitsOf word 31 31 = 1 ∧ bitsOf word 30 30 = b2n (s.src e.source).retracted ∧ bitsOf word 27 24 = e.prio
          ∧ bitsOf word 23 16 = (s.src e.source).count ∧ bitsOf word 10 0 = e.source
          ∧ u.src e.source = { s.src e.source with claimed := true, claimCount := (s.src e.source).count, count := 0 }
          ∧ (∀ m, m ≠ e.source → u.src m = s.src m)
          ∧ u = { s with int := { s.int with src := u.int.src }, out := u.out })
    ∧ ((w ≠ .normal ∨ mayClaim s t ag = false ∨ s.stack t = [] ∨ (∃ (e : StkEntry) (l : List StkEntry), s.stack t = e :: l ∧ (s.src e.source).claimed = true)) →
        exec (.intClaimRead t ag w) s = .next { s with out := s.out ++ [.claim t 0] })

/-- Counters (R551, R554, R570): an increment adds its amount modulo 2⁶⁴ (in RESET of the LDG block it adds nothing), none is lost, one that carries out of bit 63 sets OVF, and no other counter moves; CNT_CLEAR
sets the value and the OVF bit of every counter of its range to 0 and moves no other, and answers RANGE for a range that ends above 524,287. -/
def Obligations.CountersAddModulo64 : Prop :=
  ∀ (s : State) (i n b m : Nat),
    (s.inState pLDG .reset = false → s.counter i < 2 ^ 64 →
      (countBy i n s).counter i = (s.counter i + n) % 2 ^ 64
      ∧ (∀ j, j ≠ i → (countBy i n s).counter j = s.counter j)
      ∧ ((countBy i n s).cnt.ovf.has i = true ↔ s.cnt.ovf.has i = true ∨ 2 ^ 64 ≤ s.counter i + n)
      ∧ (∀ l : List Nat, (l.foldl (fun u k => countBy i k u) s).counter i = (s.counter i + l.sum) % 2 ^ 64)
      ∧ countBy i n s = { s with cnt := (countBy i n s).cnt, int := { s.int with src := (countBy i n s).int.src } })
    ∧ (s.inState pLDG .reset = true → countBy i n s = s)
    ∧ (∀ j, (clearCounters b m s).counter j = (if j < b ∨ b + m ≤ j then s.counter j else 0)
        ∧ (clearCounters b m s).cnt.ovf.has j = (if j < b ∨ b + m ≤ j then s.cnt.ovf.has j else false))
    ∧ clearCounters b m s = { s with cnt := { s.cnt with val := (clearCounters b m s).cnt.val, ovf := (clearCounters b m s).cnt.ovf } }
    ∧ (∀ ag, b = s.rd pLDG F.LDG_CLR_BASE_BASE → m = s.rd pLDG F.LDG_CLR_COUNT_COUNT → 524288 < b + m → lockedBy s pLDG ag = false →
        exec (.ldgCntClear pLDG ag 0) s = .next (record pLDG ag 4 0x42 rRANGE s))

/-- R285: a round's order is by class, the highest first, and within a class cyclically upward from the class's pointer; it holds every request once; after a grant
the pointer of its class is one past the requester and no other pointer moves. -/
def Obligations.ArbitersGrantInOrder : Prop :=
  ∀ (a : Arb) (l : List Want), (∀ x ∈ l, x.cls < 8) →
    (a.order l).Perm l
    ∧ (a.order l).Pairwise (fun x y => y.cls < x.cls ∨ (x.cls = y.cls
        ∧ ((a.pointer x.cls ≤ x.req ∧ y.req < a.pointer x.cls) ∨ ((a.pointer x.cls ≤ x.req ↔ a.pointer x.cls ≤ y.req) ∧ x.req ≤ y.req))))
    ∧ (∀ x ∈ l, (a.moved x).pointer x.cls = x.req + 1 ∧ ∀ c, c ≠ x.cls → (a.moved x).pointer c = a.pointer c)

/-- R135: the hash of a key of n words is the seed rotated n times, XORed with each word rotated by its place; rotations are taken modulo 32, and a bucket is the XOR
of the hash's low 18 bits and its high 14. -/
def Obligations.HashEqualsItsClosedForm : Prop :=
  ∀ (seed rot n key : Nat), seed < 2 ^ 32 →
    BitVec.ofNat 32 (hashX seed rot n key)
        = (List.range n).foldl (fun x i => x ^^^ (BitVec.ofNat 32 (key / 2 ^ (32 * i))).rotateLeft (i * rot)) ((BitVec.ofNat 32 seed).rotateLeft (n * rot))
    ∧ hashX seed (rot % 32) n key = hashX seed rot n key ∧ hashX seed rot n key < 2 ^ 32
    ∧ hashBucket (hashX seed rot n key) = (hashX seed rot n key % 2 ^ 18) ^^^ (hashX seed rot n key / 2 ^ 18)
    ∧ hashBucket (hashX seed rot n key) < 2 ^ 18

/-- The bytes of the Peat window (R340): what was written is read back, every other byte stays, the canonical form is kept, nothing but the memory changes, and two
memories in canonical form that read alike are equal. -/
def Obligations.WindowBytesReadBack : Prop :=
  ∀ (s : State) (a : Nat) (d : List Byte),
    (∀ x, (setWin a d s).winByte x = if a ≤ x ∧ x < a + d.length then (d[x - a]?).getD 0 else s.winByte x)
    ∧ (Memory.wf s.peat.mem = true → Memory.wf (setWin a d s).peat.mem = true)
    ∧ setWin a d s = { s with peat := { s.peat with mem := (setWin a d s).peat.mem } }
    ∧ (∀ m m' : SMap Byte, Memory.wf m = true → Memory.wf m' = true → (∀ x, m.get 0 x = m'.get 0 x) → m = m')

/-- The flash (R593, R600): an erase leaves a 4 KiB block at 0xFF; programming clears bits and sets none; every byte outside the range stays; the canonical form is
kept and nothing but the flash changes. -/
def Obligations.FlashProgramsClearBits : Prop :=
  ∀ (s : State) (a : Nat) (d : List Byte) (lg : Bool), Flash.wf s.boot.flash = true →
    (∀ x, flashByte (flashApply ⟨true, a, d, lg⟩ s) x = if a ≤ x ∧ x < a + 4096 then 0xFF else flashByte s x)
    ∧ (∀ x, flashByte (flashApply ⟨false, a, d, lg⟩ s) x
        = if a ≤ x ∧ x < a + d.length then flashByte s x &&& (d[x - a]?).getD 0xFF else flashByte s x)
    ∧ (∀ e, Flash.wf (flashApply ⟨e, a, d, lg⟩ s).boot.flash = true
        ∧ flashApply ⟨e, a, d, lg⟩ s = { s with boot := { s.boot with flash := (flashApply ⟨e, a, d, lg⟩ s).boot.flash } })

/-- Domain time (R397): at the local count l it is B + (l − L)(1 + ρ·10⁻¹²), held exactly in units of 1/`timeDen` of 1/65,536 ns; a change of rate keeps the time
of its instant, a step of x moves it by x, and time at a rate above −1 never runs backwards. -/
def Obligations.DomainTimeIsContinuous : Prop :=
  ∀ (s : State) (d l : Nat) (rho integ x : Int),
    ((setRate d rho integ s).dom d).fine s.now = (s.dom d).fine s.now
    ∧ ((setRate d rho integ s).dom d).fine l = (s.dom d).fine s.now + ((l : Int) - s.now) * (timeDen + rho)
    ∧ ((moveDom d x s).dom d).fine l = (s.dom d).fine s.now + ((l : Int) - s.now) * (timeDen + (s.dom d).rho) + x
    ∧ (∀ m, -(timeDen : Int) ≤ (s.dom d).rho → m ≤ l → (s.dom d).fine m ≤ (s.dom d).fine l)
    ∧ (∀ e, d < 2 → e < 2 → e ≠ d → (setRate d rho integ s).dom e = s.dom e ∧ (moveDom d x s).dom e = s.dom e)
    ∧ (∀ (y : Dom), y.time l < 2 ^ 48 * 65536000000000)

/-- A policer (R296): whatever the arrivals, the bytes it colours green never exceed what the committed bucket held at the start and its fill since; both
buckets stay within their sizes. Buckets count 1/1,024 B, and `tokU` of what a rate of 1 kb/s brings in a unit of time make one of those. -/
def Obligations.PolicersBoundGreenTraffic : Prop :=
  ∀ (x : Policer) (l : List (Nat × Nat)) (y : Policer) (green : Nat),
    (x.mode = 1 ∨ x.mode = 2) → x.tc ≤ x.cbs * 1024 → x.tp ≤ x.pbs * 1024 →
    (l.map (·.1)).Pairwise (· ≤ ·) → (∀ a ∈ l, x.at_ ≤ a.1) →
    l.foldl (fun (z : Policer × Nat) (a : Nat × Nat) =>
      let r := (z.1.fill a.1).meter a.2
      (r.2.2, if r.1 = .green then z.2 + a.2 else z.2)) (x, 0) = (y, green) →
    green * 1024 * tokU ≤ x.tc * tokU + x.rc + (y.at_ - x.at_) * x.cir ∧ y.tc ≤ x.cbs * 1024 ∧ y.tp ≤ x.pbs * 1024
      ∧ y.cir = x.cir ∧ y.pir = x.pir ∧ y.cbs = x.cbs ∧ y.pbs = x.pbs ∧ y.mode = x.mode

/-- Charges (R239): a charge adds to the shared use exactly the billets above the guarantee and to no other account; one that adds none is never refused, and one
that adds some is refused exactly when a limit would be passed. -/
def Obligations.ChargesRespectTheGuarantee : Prop :=
  ∀ (s : State) (r a n : Nat), a < 104 → useOf s r a + n < 65536 →
    useOf (charge r a n s) r a = useOf s r a + n
    ∧ (∀ b, b < 104 → b ≠ a → useOf (charge r a n s) r b = useOf s r b)
    ∧ sharedUse (charge r a n s) r + (useOf s r a - gminOf s r a) = sharedUse s r + (useOf s r a + n - gminOf s r a)
    ∧ (useOf s r a + n ≤ gminOf s r a → chargeOk s r a n = true)
    ∧ (∀ m o, m = (useOf s r a + n - gminOf s r a) - (useOf s r a - gminOf s r a) → 0 < m →
        o = (List.range 4).foldl (fun k q => if q = r then k else k + (s.pool q).lastShared) 0 →
        (chargeOk s r a n = true ↔ s.rd (pBUF r) F.BUF_USE_SHARED_COUNT + m ≤ s.rd (pBUF r) F.BUF_SHARED_LIMIT_LIMIT
          ∧ s.rd (pBUF r) F.BUF_USE_SHARED_COUNT + m + o ≤ s.rd (pBUF 0) F.BUF_CHIP_CAP_CAP))

/-- The eliminator (R380): its decision table, and that no number is delivered twice: the number just delivered, and every earlier duplicate, is a duplicate or a
rogue from then on. -/
def Obligations.EliminatorDeliversOnce : Prop :=
  ∀ (s : State) (k next hist seq : Nat), seq < 65536 → next < 65536 → hist < 2 ^ 64 →
    (∀ d : Int, d = toSigned 16 ((seq + 65536 - next) % 65536) →
      (decide380 true next hist seq = .any)
      ∧ (d = 0 → decide380 false next hist seq = .expected)
      ∧ (-64 ≤ d → d ≤ -1 → decide380 false next hist seq = if hist.testBit (-d - 1).toNat then .duplicate else .late)
      ∧ (1 ≤ d → d ≤ 63 → decide380 false next hist seq = .early d.toNat)
      ∧ (d < -64 ∨ 63 < d → decide380 false next hist seq = .rogue))
    ∧ (s.rd (wRECOV k) F.REC_NEXT = next → recHist s k = hist → ∀ t n', t = deliver380 k next s → n' = t.rd (wRECOV k) F.REC_NEXT →
      n' = (next + 1) % 65536 ∧ decide380 false n' (recHist t k) next = .duplicate
      ∧ (decide380 false next hist seq = .duplicate → decide380 false n' (recHist t k) seq = .duplicate ∨ decide380 false n' (recHist t k) seq = .rogue))

/-- R200 and R207: quarters 0 to 2 wait in the region's buffer and change no word; quarter 3 stores all four quarters of its word in one step and empties the buffer,
with quarter INJ_PAR − 1 under inverted parity when INJ_PAR is not 0, which then returns to 0; values above 4 of INJ_PAR answer RANGE. -/
def Obligations.ControlStoreWordsAreWrittenWhole : Prop :=
  ∀ (s : State) (r w q v ag : Nat), r < 4 → w < 4608 → v < 2 ^ 32 → csWriteCode s r w ag v = rDONE →
    ∃ t, exec (.csWindowWrite r w q ag v) s = .next t
      ∧ (∀ b, b = s.eng.wbuf.get (0, 0, 0, 0) r →
        (q < 3 → (∀ r' w', csWord t r' w' = csWord s r' w' ∧ csGood t r' w' = csGood s r' w')
          ∧ (t.eng.wbuf.get (0, 0, 0, 0) r).1 = w
          ∧ (t.eng.wbuf.get (0, 0, 0, 0) r).2 = (if q = 0 then v else if b.1 = w then b.2.1 else 0, if q = 1 then v else if b.1 = w then b.2.2.1 else 0,
              if q = 2 then v else if b.1 = w then b.2.2.2 else 0))
        ∧ (q = 3 → csWord t r w = BitVec.ofNat 128 ((if b.1 = w then b.2.1 + b.2.2.1 * 2 ^ 32 + b.2.2.2 * 2 ^ 64 else 0) + v * 2 ^ 96)
          ∧ (∀ r' w', w' < 4608 → (r', w') ≠ (r, w) → csWord t r' w' = csWord s r' w' ∧ csGood t r' w' = csGood s r' w')
          ∧ t.eng.wbuf.get (0, 0, 0, 0) r = (0, 0, 0, 0)
          ∧ (s.rd (pENG r) F.ENG_CTRL_INJ_PAR = 0 → csGood t r w = true)
          ∧ (∀ k, s.rd (pENG r) F.ENG_CTRL_INJ_PAR = k + 1 → t.eng.badPar.get 0 (4608 * r + w) = 2 ^ k)
          ∧ t.rd (pENG r) F.ENG_CTRL_INJ_PAR = 0))
      ∧ (∀ view x, pageBlk (pENG r) ≠ none → lockedBy s (pENG r) ag = false → 4 < nv s (pENG r) (newVals s (pENG r) .eng 0x040 view x) F.ENG_CTRL_INJ_PAR →
        gateCode s (pENG r) 0x040 view ag x (injParRange s r) noCheck noBusy = rRANGE)

/-- A gate schedule that is not running holds nothing back (R313): every gate of the port is open at every instant, and the operating list closes none. -/
def Obligations.GatesOffAreOpen : Prop :=
  ∀ (s : State) (p c t : Nat), p < 48 → c < 8 → s.rdB (pPORT (portRegion p)) F.GATE_CTRL_GATE_EN (portCell p) = false →
    gateOpenAt s p c t = true ∧ (operList s p).closes c t = none ∧ maxWindow (operList s p) c = 0x3FFFFFFF
      ∧ (s.takeoverAt p = none → ∀ at_ len, mayStart s p c at_ len = true)

/-- Frames: a command of these units that answers a next state changes only the unit's own state, its page's header and registers, and what it sends out. In
particular no table, queue, memory, clock or engine moves with an interrupt, a policer, a filter, a hamper, a statistic or the TAP. -/
def Obligations.CommandsChangeOnlyTheirUnit : Prop :=
  ∀ (s t : State) (pg ag arg n v : Nat) (w : View),
    (∀ i ∈ [Instr.polWrite pg ag arg], exec i s = .next t → t = { s with pages := t.pages, policers := t.policers })
    ∧ (∀ i ∈ [Instr.sfWrite pg ag arg, .sfUnblock pg ag arg], exec i s = .next t → t = { s with pages := t.pages, filters := t.filters })
    ∧ (∀ i ∈ [Instr.hamperWrite pg ag arg], exec i s = .next t → t = { s with pages := t.pages, hampers := t.hampers })
    ∧ (∀ i ∈ [Instr.polRead pg ag arg, .sfRead pg ag arg, .hamperRead pg ag arg, .turfRead pg ag arg, .qPeatRead pg ag arg, .cmdNop pg ag arg], exec i s = .next t →
        t = { s with pages := t.pages, reg := t.reg })
    ∧ (∀ i ∈ [Instr.interruptEvent n, .levelDeassert n, .interruptDelivery n, .intClaimRead n ag w, .intComplete n ag w v, .holdoffExpiry n, .stackClear pINT ag n],
        exec i s = .next t → t = { s with int := t.int, pages := t.pages, reg := t.reg, out := t.out })
    ∧ (∀ i ∈ [Instr.statLowRead n ag], exec i s = .next t → t = { s with cnt := t.cnt, out := t.out })
    ∧ (∀ i ∈ [Instr.smbRecordSelect v, .smbRecordRead, .smbLdgStatus, .smbBootStatusLo, .smbBootStatusHi, .smbAlarm (v = 1), .smbAlertResponse, .smbTimeout],
        exec i s = .next t → t = { s with ldg := t.ldg, out := t.out })
    ∧ (∀ i ∈ [Instr.tapReset, .jtagInstruction .idcode, .jtagInstruction .bypass, .jtagInstruction .debug, .jtagInstruction .extest], exec i s = .next t →
        t = { s with boot := t.boot, reg := t.reg })
    ∧ (∀ i ∈ [Instr.scratchLoRead n v ag, .samplePop n], exec i s = .next t → t = { s with eng := t.eng, reg := t.reg, out := t.out })
    ∧ (∀ i ∈ [Instr.activateTableClear n v], exec i s = .next t → t = { s with peat := t.peat })

/-! ### Nothing stops -/

/-- No command of the part stops the machine: every one answers a next state, and a run of any length goes on. -/
def Obligations.EveryCommandAnswers : Prop :=
  (∀ (i : Instr) (s : State), ∃ t, exec i s = .next t) ∧ (∀ (n : Nat) (s : State), ∃ t, runFor n s = some t)
end

