-- ==== Sys2Proof/Laws/SMap.lean ====
section
/-! SUPPORT. The laws of the sparse map: what a read answers after a write, and that every operation keeps the canonical form. -/
namespace Sys2Proof.SMap

variable {α : Type}

@[simp] theorem findIn_insertIn_same (l : List (Nat × α)) (i : Nat) (v : α) : findIn (insertIn l i v) i = some v := by
  induction l with
  | nil => simp [insertIn, findIn]
  | cons e l ih =>
    obtain ⟨k, w⟩ := e
    by_cases h : i = k
    · simp [insertIn, findIn, h]
    · by_cases g : i < k <;> simp [insertIn, findIn, h, g, ih]

theorem findIn_insertIn_other (l : List (Nat × α)) {i j : Nat} (v : α) (h : j ≠ i) :
    findIn (insertIn l i v) j = findIn l j := by
  induction l with
  | nil => simp [insertIn, findIn, h]
  | cons e l ih =>
    obtain ⟨k, w⟩ := e
    by_cases e : i = k
    · subst e; simp [insertIn, findIn, h]
    · by_cases g : i < k <;> simp [insertIn, findIn, e, g, h, ih]

@[simp] theorem findIn_eraseIn_same (l : List (Nat × α)) (i : Nat) : findIn (eraseIn l i) i = none := by
  induction l with
  | nil => rfl
  | cons e l ih =>
    obtain ⟨k, w⟩ := e
    by_cases h : i = k
    · simp [eraseIn, h]; rw [← h]; exact ih
    · simp [eraseIn, findIn, h, ih]

theorem findIn_eraseIn_other (l : List (Nat × α)) {i j : Nat} (h : j ≠ i) : findIn (eraseIn l i) j = findIn l j := by
  induction l with
  | nil => rfl
  | cons e l ih =>
    obtain ⟨k, w⟩ := e
    by_cases g : i = k
    · subst g; simp [eraseIn, findIn, h, ih]
    · simp [eraseIn, findIn, g, ih]

@[simp] theorem find?_empty (i : Nat) : (⟨[]⟩ : SMap α).find? i = none := rfl
@[simp] theorem get_empty (d : α) (i : Nat) : (⟨[]⟩ : SMap α).get d i = d := rfl

@[simp] theorem find?_insert_same (m : SMap α) (i : Nat) (v : α) : (m.insert i v).find? i = some v := by
  simp [find?, insert]

theorem find?_insert_other (m : SMap α) {i j : Nat} (v : α) (h : j ≠ i) : (m.insert i v).find? j = m.find? j := by
  simp [find?, insert, findIn_insertIn_other _ _ h]

@[simp] theorem find?_erase_same (m : SMap α) (i : Nat) : (m.erase i).find? i = none := by
  simp [find?, erase]

theorem find?_erase_other (m : SMap α) {i j : Nat} (h : j ≠ i) : (m.erase i).find? j = m.find? j := by
  simp [find?, erase, findIn_eraseIn_other _ h]

theorem get_eq_find? (d : α) (m : SMap α) (i : Nat) : m.get d i = (m.find? i).getD d := rfl

section put
variable [DecidableEq α]

@[simp] theorem get_put_same (d : α) (m : SMap α) (i : Nat) (v : α) : (m.put d i v).get d i = v := by
  by_cases h : v = d <;> simp [put, h, get_eq_find?]

theorem get_put_other (d : α) (m : SMap α) {i j : Nat} (v : α) (h : j ≠ i) : (m.put d i v).get d j = m.get d j := by
  by_cases g : v = d <;> simp [put, g, get_eq_find?, find?_erase_other _ h, find?_insert_other _ _ h]

/-- A write reads back past a different default for other indices. -/
theorem find?_put_other (d : α) (m : SMap α) {i j : Nat} (v : α) (h : j ≠ i) : (m.put d i v).find? j = m.find? j := by
  by_cases g : v = d <;> simp [put, g, find?_erase_other _ h, find?_insert_other _ _ h]

@[simp] theorem get_upd_same (d : α) (m : SMap α) (i : Nat) (f : α → α) : (m.upd d i f).get d i = f (m.get d i) := by
  simp [upd]

theorem get_upd_other (d : α) (m : SMap α) {i j : Nat} (f : α → α) (h : j ≠ i) : (m.upd d i f).get d j = m.get d j := by
  simp [upd, get_put_other _ _ _ h]

end put

/-! ### The canonical form -/

/-- Every index of a list is above a bound. -/
def above (b : Nat) (l : List (Nat × α)) : Prop := ∀ e ∈ l, b < e.1

theorem rising_cons (k : Nat) (w : α) (l : List (Nat × α)) : rising ((k, w) :: l) = true ↔ above k l ∧ rising l = true := by
  induction l generalizing k w with
  | nil => simp [rising, above]
  | cons e l ih =>
    obtain ⟨k', w'⟩ := e
    have hl := ih k' w'
    simp only [rising, Bool.and_eq_true, decide_eq_true_eq] at hl ⊢
    constructor
    · rintro ⟨h, g⟩
      refine ⟨?_, g⟩
      intro e he
      rcases List.mem_cons.1 he with rfl | he
      · exact h
      · exact Nat.lt_trans h ((hl.1 g).1 e he)
    · rintro ⟨h, g⟩
      exact ⟨h (k', w') (by simp), g⟩

theorem mem_insertIn {l : List (Nat × α)} {i : Nat} {v : α} {e : Nat × α} (h : e ∈ insertIn l i v) : e = (i, v) ∨ e ∈ l := by
  induction l with
  | nil => simpa [insertIn] using h
  | cons x l ih =>
    obtain ⟨k, w⟩ := x
    unfold insertIn at h
    split at h
    · rcases List.mem_cons.1 h with h | h <;> simp [h]
    · split at h
      · simpa using h
      · rcases List.mem_cons.1 h with h | h
        · simp [h]
        · rcases ih h with h | h <;> simp [h]

theorem mem_eraseIn {l : List (Nat × α)} {i : Nat} {e : Nat × α} (h : e ∈ eraseIn l i) : e ∈ l := by
  induction l with
  | nil => exact h
  | cons x l ih =>
    obtain ⟨k, w⟩ := x
    unfold eraseIn at h
    split at h
    · exact List.mem_cons_of_mem _ (ih h)
    · rcases List.mem_cons.1 h with h | h
      · simp [h]
      · exact List.mem_cons_of_mem _ (ih h)

theorem rising_insertIn {l : List (Nat × α)} (h : rising l = true) (i : Nat) (v : α) : rising (insertIn l i v) = true := by
  induction l with
  | nil => rfl
  | cons x l ih =>
    obtain ⟨k, w⟩ := x
    obtain ⟨ha, hr⟩ := (rising_cons k w l).1 h
    unfold insertIn
    split
    · rename_i e; subst e; exact (rising_cons _ _ _).2 ⟨ha, hr⟩
    · split
      · rename_i g
        refine (rising_cons _ _ _).2 ⟨?_, h⟩
        intro e he
        rcases List.mem_cons.1 he with rfl | he
        · exact g
        · exact Nat.lt_trans g (ha e he)
      · rename_i e g
        refine (rising_cons _ _ _).2 ⟨?_, ih hr⟩
        intro e he
        rcases mem_insertIn he with rfl | he
        · show k < i; omega
        · exact ha e he

theorem rising_eraseIn {l : List (Nat × α)} (h : rising l = true) (i : Nat) : rising (eraseIn l i) = true := by
  induction l with
  | nil => rfl
  | cons x l ih =>
    obtain ⟨k, w⟩ := x
    obtain ⟨ha, hr⟩ := (rising_cons k w l).1 h
    unfold eraseIn
    split
    · exact ih hr
    · exact (rising_cons _ _ _).2 ⟨fun e he => ha e (mem_eraseIn he), ih hr⟩

theorem insert_wf {m : SMap α} (h : m.wf = true) (i : Nat) (v : α) : (m.insert i v).wf = true := rising_insertIn h i v
theorem erase_wf {m : SMap α} (h : m.wf = true) (i : Nat) : (m.erase i).wf = true := rising_eraseIn h i

theorem put_wf [DecidableEq α] (d : α) {m : SMap α} (h : m.wf = true) (i : Nat) (v : α) : (m.put d i v).wf = true := by
  by_cases g : v = d <;> simp [put, g, insert_wf h, erase_wf h]

/-- A write leaves no entry that says what an unlisted index says. -/
theorem put_no_default [DecidableEq α] (d : α) {m : SMap α} (h : ∀ e ∈ m.entries, e.2 ≠ d) (i : Nat) (v : α) :
    ∀ e ∈ (m.put d i v).entries, e.2 ≠ d := by
  intro e he
  by_cases g : v = d
  · simp only [put, g, if_true, erase] at he
    exact h e (mem_eraseIn he)
  · simp only [put, g, if_false, insert] at he
    rcases mem_insertIn he with rfl | he
    · exact g
    · exact h e he

end Sys2Proof.SMap
end

