-- ==== Sys2Proof/Laws/State.lean ====
section
/-! SUPPORT. What each named update of the state leaves alone: one lemma per field and update, so that no proof unfolds a record update. -/
namespace Sys2Proof.Machine

/-! #### State.wr -/

section
variable (s : State) (p : Nat) (f : Field) (v i j : Nat)
@[simp] theorem wr_pages : (s.wr p f v i j).pages = s.pages := rfl
@[simp] theorem wr_int : (s.wr p f v i j).int = s.int := rfl
@[simp] theorem wr_cnt : (s.wr p f v i j).cnt = s.cnt := rfl
@[simp] theorem wr_ldg : (s.wr p f v i j).ldg = s.ldg := rfl
@[simp] theorem wr_time : (s.wr p f v i j).time = s.time := rfl
@[simp] theorem wr_frames : (s.wr p f v i j).frames = s.frames := rfl
@[simp] theorem wr_nextFrame : (s.wr p f v i j).nextFrame = s.nextFrame := rfl
@[simp] theorem wr_buf : (s.wr p f v i j).buf = s.buf := rfl
@[simp] theorem wr_queues : (s.wr p f v i j).queues = s.queues := rfl
@[simp] theorem wr_ports : (s.wr p f v i j).ports = s.ports := rfl
@[simp] theorem wr_gates : (s.wr p f v i j).gates = s.gates := rfl
@[simp] theorem wr_shapers : (s.wr p f v i j).shapers = s.shapers := rfl
@[simp] theorem wr_policers : (s.wr p f v i j).policers = s.policers := rfl
@[simp] theorem wr_filters : (s.wr p f v i j).filters = s.filters := rfl
@[simp] theorem wr_hampers : (s.wr p f v i j).hampers = s.hampers := rfl
@[simp] theorem wr_mirrorCount : (s.wr p f v i j).mirrorCount = s.mirrorCount := rfl
@[simp] theorem wr_wred : (s.wr p f v i j).wred = s.wred := rfl
@[simp] theorem wr_qscWin : (s.wr p f v i j).qscWin = s.qscWin := rfl
@[simp] theorem wr_recov : (s.wr p f v i j).recov = s.recov := rfl
@[simp] theorem wr_arbs : (s.wr p f v i j).arbs = s.arbs := rfl
@[simp] theorem wr_peat : (s.wr p f v i j).peat = s.peat := rfl
@[simp] theorem wr_tab : (s.wr p f v i j).tab = s.tab := rfl
@[simp] theorem wr_eng : (s.wr p f v i j).eng = s.eng := rfl
@[simp] theorem wr_emb : (s.wr p f v i j).emb = s.emb := rfl
@[simp] theorem wr_sns : (s.wr p f v i j).sns = s.sns := rfl
@[simp] theorem wr_mate : (s.wr p f v i j).mate = s.mate := rfl
@[simp] theorem wr_hif : (s.wr p f v i j).hif = s.hif := rfl
@[simp] theorem wr_boot : (s.wr p f v i j).boot = s.boot := rfl
@[simp] theorem wr_out : (s.wr p f v i j).out = s.out := rfl
@[simp] theorem wr_free : (s.wr p f v i j).free = s.free := rfl
@[simp] theorem wr_pending : (s.wr p f v i j).pending = s.pending := rfl
end

/-! #### State.wrS -/

section
variable (s : State) (p : Nat) (f : Field) (v : Int) (i j : Nat)
@[simp] theorem wrS_pages : (s.wrS p f v i j).pages = s.pages := rfl
@[simp] theorem wrS_int : (s.wrS p f v i j).int = s.int := rfl
@[simp] theorem wrS_cnt : (s.wrS p f v i j).cnt = s.cnt := rfl
@[simp] theorem wrS_ldg : (s.wrS p f v i j).ldg = s.ldg := rfl
@[simp] theorem wrS_time : (s.wrS p f v i j).time = s.time := rfl
@[simp] theorem wrS_frames : (s.wrS p f v i j).frames = s.frames := rfl
@[simp] theorem wrS_nextFrame : (s.wrS p f v i j).nextFrame = s.nextFrame := rfl
@[simp] theorem wrS_buf : (s.wrS p f v i j).buf = s.buf := rfl
@[simp] theorem wrS_queues : (s.wrS p f v i j).queues = s.queues := rfl
@[simp] theorem wrS_ports : (s.wrS p f v i j).ports = s.ports := rfl
@[simp] theorem wrS_gates : (s.wrS p f v i j).gates = s.gates := rfl
@[simp] theorem wrS_shapers : (s.wrS p f v i j).shapers = s.shapers := rfl
@[simp] theorem wrS_policers : (s.wrS p f v i j).policers = s.policers := rfl
@[simp] theorem wrS_filters : (s.wrS p f v i j).filters = s.filters := rfl
@[simp] theorem wrS_hampers : (s.wrS p f v i j).hampers = s.hampers := rfl
@[simp] theorem wrS_mirrorCount : (s.wrS p f v i j).mirrorCount = s.mirrorCount := rfl
@[simp] theorem wrS_wred : (s.wrS p f v i j).wred = s.wred := rfl
@[simp] theorem wrS_qscWin : (s.wrS p f v i j).qscWin = s.qscWin := rfl
@[simp] theorem wrS_recov : (s.wrS p f v i j).recov = s.recov := rfl
@[simp] theorem wrS_arbs : (s.wrS p f v i j).arbs = s.arbs := rfl
@[simp] theorem wrS_peat : (s.wrS p f v i j).peat = s.peat := rfl
@[simp] theorem wrS_tab : (s.wrS p f v i j).tab = s.tab := rfl
@[simp] theorem wrS_eng : (s.wrS p f v i j).eng = s.eng := rfl
@[simp] theorem wrS_emb : (s.wrS p f v i j).emb = s.emb := rfl
@[simp] theorem wrS_sns : (s.wrS p f v i j).sns = s.sns := rfl
@[simp] theorem wrS_mate : (s.wrS p f v i j).mate = s.mate := rfl
@[simp] theorem wrS_hif : (s.wrS p f v i j).hif = s.hif := rfl
@[simp] theorem wrS_boot : (s.wrS p f v i j).boot = s.boot := rfl
@[simp] theorem wrS_out : (s.wrS p f v i j).out = s.out := rfl
@[simp] theorem wrS_free : (s.wrS p f v i j).free = s.free := rfl
@[simp] theorem wrS_pending : (s.wrS p f v i j).pending = s.pending := rfl
end

/-! #### State.setF -/

section
variable (s : State) (p : Nat) (f : Field) (i j : Nat)
@[simp] theorem setF_pages : (s.setF p f i j).pages = s.pages := rfl
@[simp] theorem setF_int : (s.setF p f i j).int = s.int := rfl
@[simp] theorem setF_cnt : (s.setF p f i j).cnt = s.cnt := rfl
@[simp] theorem setF_ldg : (s.setF p f i j).ldg = s.ldg := rfl
@[simp] theorem setF_time : (s.setF p f i j).time = s.time := rfl
@[simp] theorem setF_frames : (s.setF p f i j).frames = s.frames := rfl
@[simp] theorem setF_nextFrame : (s.setF p f i j).nextFrame = s.nextFrame := rfl
@[simp] theorem setF_buf : (s.setF p f i j).buf = s.buf := rfl
@[simp] theorem setF_queues : (s.setF p f i j).queues = s.queues := rfl
@[simp] theorem setF_ports : (s.setF p f i j).ports = s.ports := rfl
@[simp] theorem setF_gates : (s.setF p f i j).gates = s.gates := rfl
@[simp] theorem setF_shapers : (s.setF p f i j).shapers = s.shapers := rfl
@[simp] theorem setF_policers : (s.setF p f i j).policers = s.policers := rfl
@[simp] theorem setF_filters : (s.setF p f i j).filters = s.filters := rfl
@[simp] theorem setF_hampers : (s.setF p f i j).hampers = s.hampers := rfl
@[simp] theorem setF_mirrorCount : (s.setF p f i j).mirrorCount = s.mirrorCount := rfl
@[simp] theorem setF_wred : (s.setF p f i j).wred = s.wred := rfl
@[simp] theorem setF_qscWin : (s.setF p f i j).qscWin = s.qscWin := rfl
@[simp] theorem setF_recov : (s.setF p f i j).recov = s.recov := rfl
@[simp] theorem setF_arbs : (s.setF p f i j).arbs = s.arbs := rfl
@[simp] theorem setF_peat : (s.setF p f i j).peat = s.peat := rfl
@[simp] theorem setF_tab : (s.setF p f i j).tab = s.tab := rfl
@[simp] theorem setF_eng : (s.setF p f i j).eng = s.eng := rfl
@[simp] theorem setF_emb : (s.setF p f i j).emb = s.emb := rfl
@[simp] theorem setF_sns : (s.setF p f i j).sns = s.sns := rfl
@[simp] theorem setF_mate : (s.setF p f i j).mate = s.mate := rfl
@[simp] theorem setF_hif : (s.setF p f i j).hif = s.hif := rfl
@[simp] theorem setF_boot : (s.setF p f i j).boot = s.boot := rfl
@[simp] theorem setF_out : (s.setF p f i j).out = s.out := rfl
@[simp] theorem setF_free : (s.setF p f i j).free = s.free := rfl
@[simp] theorem setF_pending : (s.setF p f i j).pending = s.pending := rfl
end

/-! #### State.addSat -/

section
variable (s : State) (p : Nat) (f : Field) (n i j : Nat)
@[simp] theorem addSat_pages : (s.addSat p f n i j).pages = s.pages := rfl
@[simp] theorem addSat_int : (s.addSat p f n i j).int = s.int := rfl
@[simp] theorem addSat_cnt : (s.addSat p f n i j).cnt = s.cnt := rfl
@[simp] theorem addSat_ldg : (s.addSat p f n i j).ldg = s.ldg := rfl
@[simp] theorem addSat_time : (s.addSat p f n i j).time = s.time := rfl
@[simp] theorem addSat_frames : (s.addSat p f n i j).frames = s.frames := rfl
@[simp] theorem addSat_nextFrame : (s.addSat p f n i j).nextFrame = s.nextFrame := rfl
@[simp] theorem addSat_buf : (s.addSat p f n i j).buf = s.buf := rfl
@[simp] theorem addSat_queues : (s.addSat p f n i j).queues = s.queues := rfl
@[simp] theorem addSat_ports : (s.addSat p f n i j).ports = s.ports := rfl
@[simp] theorem addSat_gates : (s.addSat p f n i j).gates = s.gates := rfl
@[simp] theorem addSat_shapers : (s.addSat p f n i j).shapers = s.shapers := rfl
@[simp] theorem addSat_policers : (s.addSat p f n i j).policers = s.policers := rfl
@[simp] theorem addSat_filters : (s.addSat p f n i j).filters = s.filters := rfl
@[simp] theorem addSat_hampers : (s.addSat p f n i j).hampers = s.hampers := rfl
@[simp] theorem addSat_mirrorCount : (s.addSat p f n i j).mirrorCount = s.mirrorCount := rfl
@[simp] theorem addSat_wred : (s.addSat p f n i j).wred = s.wred := rfl
@[simp] theorem addSat_qscWin : (s.addSat p f n i j).qscWin = s.qscWin := rfl
@[simp] theorem addSat_recov : (s.addSat p f n i j).recov = s.recov := rfl
@[simp] theorem addSat_arbs : (s.addSat p f n i j).arbs = s.arbs := rfl
@[simp] theorem addSat_peat : (s.addSat p f n i j).peat = s.peat := rfl
@[simp] theorem addSat_tab : (s.addSat p f n i j).tab = s.tab := rfl
@[simp] theorem addSat_eng : (s.addSat p f n i j).eng = s.eng := rfl
@[simp] theorem addSat_emb : (s.addSat p f n i j).emb = s.emb := rfl
@[simp] theorem addSat_sns : (s.addSat p f n i j).sns = s.sns := rfl
@[simp] theorem addSat_mate : (s.addSat p f n i j).mate = s.mate := rfl
@[simp] theorem addSat_hif : (s.addSat p f n i j).hif = s.hif := rfl
@[simp] theorem addSat_boot : (s.addSat p f n i j).boot = s.boot := rfl
@[simp] theorem addSat_out : (s.addSat p f n i j).out = s.out := rfl
@[simp] theorem addSat_free : (s.addSat p f n i j).free = s.free := rfl
@[simp] theorem addSat_pending : (s.addSat p f n i j).pending = s.pending := rfl
end

/-! #### State.wrShadow -/

section
variable (s : State) (p : Nat) (f : Field) (ag v i j : Nat)
@[simp] theorem wrShadow_pages : (s.wrShadow p f ag v i j).pages = s.pages := rfl
@[simp] theorem wrShadow_int : (s.wrShadow p f ag v i j).int = s.int := rfl
@[simp] theorem wrShadow_cnt : (s.wrShadow p f ag v i j).cnt = s.cnt := rfl
@[simp] theorem wrShadow_ldg : (s.wrShadow p f ag v i j).ldg = s.ldg := rfl
@[simp] theorem wrShadow_time : (s.wrShadow p f ag v i j).time = s.time := rfl
@[simp] theorem wrShadow_frames : (s.wrShadow p f ag v i j).frames = s.frames := rfl
@[simp] theorem wrShadow_nextFrame : (s.wrShadow p f ag v i j).nextFrame = s.nextFrame := rfl
@[simp] theorem wrShadow_buf : (s.wrShadow p f ag v i j).buf = s.buf := rfl
@[simp] theorem wrShadow_queues : (s.wrShadow p f ag v i j).queues = s.queues := rfl
@[simp] theorem wrShadow_ports : (s.wrShadow p f ag v i j).ports = s.ports := rfl
@[simp] theorem wrShadow_gates : (s.wrShadow p f ag v i j).gates = s.gates := rfl
@[simp] theorem wrShadow_shapers : (s.wrShadow p f ag v i j).shapers = s.shapers := rfl
@[simp] theorem wrShadow_policers : (s.wrShadow p f ag v i j).policers = s.policers := rfl
@[simp] theorem wrShadow_filters : (s.wrShadow p f ag v i j).filters = s.filters := rfl
@[simp] theorem wrShadow_hampers : (s.wrShadow p f ag v i j).hampers = s.hampers := rfl
@[simp] theorem wrShadow_mirrorCount : (s.wrShadow p f ag v i j).mirrorCount = s.mirrorCount := rfl
@[simp] theorem wrShadow_wred : (s.wrShadow p f ag v i j).wred = s.wred := rfl
@[simp] theorem wrShadow_qscWin : (s.wrShadow p f ag v i j).qscWin = s.qscWin := rfl
@[simp] theorem wrShadow_recov : (s.wrShadow p f ag v i j).recov = s.recov := rfl
@[simp] theorem wrShadow_arbs : (s.wrShadow p f ag v i j).arbs = s.arbs := rfl
@[simp] theorem wrShadow_peat : (s.wrShadow p f ag v i j).peat = s.peat := rfl
@[simp] theorem wrShadow_tab : (s.wrShadow p f ag v i j).tab = s.tab := rfl
@[simp] theorem wrShadow_eng : (s.wrShadow p f ag v i j).eng = s.eng := rfl
@[simp] theorem wrShadow_emb : (s.wrShadow p f ag v i j).emb = s.emb := rfl
@[simp] theorem wrShadow_sns : (s.wrShadow p f ag v i j).sns = s.sns := rfl
@[simp] theorem wrShadow_mate : (s.wrShadow p f ag v i j).mate = s.mate := rfl
@[simp] theorem wrShadow_hif : (s.wrShadow p f ag v i j).hif = s.hif := rfl
@[simp] theorem wrShadow_boot : (s.wrShadow p f ag v i j).boot = s.boot := rfl
@[simp] theorem wrShadow_out : (s.wrShadow p f ag v i j).out = s.out := rfl
@[simp] theorem wrShadow_free : (s.wrShadow p f ag v i j).free = s.free := rfl
@[simp] theorem wrShadow_pending : (s.wrShadow p f ag v i j).pending = s.pending := rfl
end

/-! #### State.updPage -/

section
variable (s : State) (p : Nat) (f : Page → Page)
@[simp] theorem updPage_reg : (s.updPage p f).reg = s.reg := rfl
@[simp] theorem updPage_int : (s.updPage p f).int = s.int := rfl
@[simp] theorem updPage_cnt : (s.updPage p f).cnt = s.cnt := rfl
@[simp] theorem updPage_ldg : (s.updPage p f).ldg = s.ldg := rfl
@[simp] theorem updPage_time : (s.updPage p f).time = s.time := rfl
@[simp] theorem updPage_frames : (s.updPage p f).frames = s.frames := rfl
@[simp] theorem updPage_nextFrame : (s.updPage p f).nextFrame = s.nextFrame := rfl
@[simp] theorem updPage_buf : (s.updPage p f).buf = s.buf := rfl
@[simp] theorem updPage_queues : (s.updPage p f).queues = s.queues := rfl
@[simp] theorem updPage_ports : (s.updPage p f).ports = s.ports := rfl
@[simp] theorem updPage_gates : (s.updPage p f).gates = s.gates := rfl
@[simp] theorem updPage_shapers : (s.updPage p f).shapers = s.shapers := rfl
@[simp] theorem updPage_policers : (s.updPage p f).policers = s.policers := rfl
@[simp] theorem updPage_filters : (s.updPage p f).filters = s.filters := rfl
@[simp] theorem updPage_hampers : (s.updPage p f).hampers = s.hampers := rfl
@[simp] theorem updPage_mirrorCount : (s.updPage p f).mirrorCount = s.mirrorCount := rfl
@[simp] theorem updPage_wred : (s.updPage p f).wred = s.wred := rfl
@[simp] theorem updPage_qscWin : (s.updPage p f).qscWin = s.qscWin := rfl
@[simp] theorem updPage_recov : (s.updPage p f).recov = s.recov := rfl
@[simp] theorem updPage_arbs : (s.updPage p f).arbs = s.arbs := rfl
@[simp] theorem updPage_peat : (s.updPage p f).peat = s.peat := rfl
@[simp] theorem updPage_tab : (s.updPage p f).tab = s.tab := rfl
@[simp] theorem updPage_eng : (s.updPage p f).eng = s.eng := rfl
@[simp] theorem updPage_emb : (s.updPage p f).emb = s.emb := rfl
@[simp] theorem updPage_sns : (s.updPage p f).sns = s.sns := rfl
@[simp] theorem updPage_mate : (s.updPage p f).mate = s.mate := rfl
@[simp] theorem updPage_hif : (s.updPage p f).hif = s.hif := rfl
@[simp] theorem updPage_boot : (s.updPage p f).boot = s.boot := rfl
@[simp] theorem updPage_out : (s.updPage p f).out = s.out := rfl
@[simp] theorem updPage_free : (s.updPage p f).free = s.free := rfl
@[simp] theorem updPage_pending : (s.updPage p f).pending = s.pending := rfl
end

/-! #### record -/

section
variable (p ag idx op code : Nat) (s : State)
@[simp] theorem record_reg : (record p ag idx op code s).reg = s.reg := rfl
@[simp] theorem record_int : (record p ag idx op code s).int = s.int := rfl
@[simp] theorem record_cnt : (record p ag idx op code s).cnt = s.cnt := rfl
@[simp] theorem record_ldg : (record p ag idx op code s).ldg = s.ldg := rfl
@[simp] theorem record_time : (record p ag idx op code s).time = s.time := rfl
@[simp] theorem record_frames : (record p ag idx op code s).frames = s.frames := rfl
@[simp] theorem record_nextFrame : (record p ag idx op code s).nextFrame = s.nextFrame := rfl
@[simp] theorem record_buf : (record p ag idx op code s).buf = s.buf := rfl
@[simp] theorem record_queues : (record p ag idx op code s).queues = s.queues := rfl
@[simp] theorem record_ports : (record p ag idx op code s).ports = s.ports := rfl
@[simp] theorem record_gates : (record p ag idx op code s).gates = s.gates := rfl
@[simp] theorem record_shapers : (record p ag idx op code s).shapers = s.shapers := rfl
@[simp] theorem record_policers : (record p ag idx op code s).policers = s.policers := rfl
@[simp] theorem record_filters : (record p ag idx op code s).filters = s.filters := rfl
@[simp] theorem record_hampers : (record p ag idx op code s).hampers = s.hampers := rfl
@[simp] theorem record_mirrorCount : (record p ag idx op code s).mirrorCount = s.mirrorCount := rfl
@[simp] theorem record_wred : (record p ag idx op code s).wred = s.wred := rfl
@[simp] theorem record_qscWin : (record p ag idx op code s).qscWin = s.qscWin := rfl
@[simp] theorem record_recov : (record p ag idx op code s).recov = s.recov := rfl
@[simp] theorem record_arbs : (record p ag idx op code s).arbs = s.arbs := rfl
@[simp] theorem record_peat : (record p ag idx op code s).peat = s.peat := rfl
@[simp] theorem record_tab : (record p ag idx op code s).tab = s.tab := rfl
@[simp] theorem record_eng : (record p ag idx op code s).eng = s.eng := rfl
@[simp] theorem record_emb : (record p ag idx op code s).emb = s.emb := rfl
@[simp] theorem record_sns : (record p ag idx op code s).sns = s.sns := rfl
@[simp] theorem record_mate : (record p ag idx op code s).mate = s.mate := rfl
@[simp] theorem record_hif : (record p ag idx op code s).hif = s.hif := rfl
@[simp] theorem record_boot : (record p ag idx op code s).boot = s.boot := rfl
@[simp] theorem record_out : (record p ag idx op code s).out = s.out := rfl
@[simp] theorem record_free : (record p ag idx op code s).free = s.free := rfl
@[simp] theorem record_pending : (record p ag idx op code s).pending = s.pending := rfl
end

/-! #### windowResult -/

section
variable (p ag addr code : Nat) (s : State)
@[simp] theorem windowResult_reg : (windowResult p ag addr code s).reg = s.reg := rfl
@[simp] theorem windowResult_int : (windowResult p ag addr code s).int = s.int := rfl
@[simp] theorem windowResult_cnt : (windowResult p ag addr code s).cnt = s.cnt := rfl
@[simp] theorem windowResult_ldg : (windowResult p ag addr code s).ldg = s.ldg := rfl
@[simp] theorem windowResult_time : (windowResult p ag addr code s).time = s.time := rfl
@[simp] theorem windowResult_frames : (windowResult p ag addr code s).frames = s.frames := rfl
@[simp] theorem windowResult_nextFrame : (windowResult p ag addr code s).nextFrame = s.nextFrame := rfl
@[simp] theorem windowResult_buf : (windowResult p ag addr code s).buf = s.buf := rfl
@[simp] theorem windowResult_queues : (windowResult p ag addr code s).queues = s.queues := rfl
@[simp] theorem windowResult_ports : (windowResult p ag addr code s).ports = s.ports := rfl
@[simp] theorem windowResult_gates : (windowResult p ag addr code s).gates = s.gates := rfl
@[simp] theorem windowResult_shapers : (windowResult p ag addr code s).shapers = s.shapers := rfl
@[simp] theorem windowResult_policers : (windowResult p ag addr code s).policers = s.policers := rfl
@[simp] theorem windowResult_filters : (windowResult p ag addr code s).filters = s.filters := rfl
@[simp] theorem windowResult_hampers : (windowResult p ag addr code s).hampers = s.hampers := rfl
@[simp] theorem windowResult_mirrorCount : (windowResult p ag addr code s).mirrorCount = s.mirrorCount := rfl
@[simp] theorem windowResult_wred : (windowResult p ag addr code s).wred = s.wred := rfl
@[simp] theorem windowResult_qscWin : (windowResult p ag addr code s).qscWin = s.qscWin := rfl
@[simp] theorem windowResult_recov : (windowResult p ag addr code s).recov = s.recov := rfl
@[simp] theorem windowResult_arbs : (windowResult p ag addr code s).arbs = s.arbs := rfl
@[simp] theorem windowResult_peat : (windowResult p ag addr code s).peat = s.peat := rfl
@[simp] theorem windowResult_tab : (windowResult p ag addr code s).tab = s.tab := rfl
@[simp] theorem windowResult_eng : (windowResult p ag addr code s).eng = s.eng := rfl
@[simp] theorem windowResult_emb : (windowResult p ag addr code s).emb = s.emb := rfl
@[simp] theorem windowResult_sns : (windowResult p ag addr code s).sns = s.sns := rfl
@[simp] theorem windowResult_mate : (windowResult p ag addr code s).mate = s.mate := rfl
@[simp] theorem windowResult_hif : (windowResult p ag addr code s).hif = s.hif := rfl
@[simp] theorem windowResult_boot : (windowResult p ag addr code s).boot = s.boot := rfl
@[simp] theorem windowResult_out : (windowResult p ag addr code s).out = s.out := rfl
@[simp] theorem windowResult_free : (windowResult p ag addr code s).free = s.free := rfl
@[simp] theorem windowResult_pending : (windowResult p ag addr code s).pending = s.pending := rfl
end

/-! #### State.updSrc -/

section
variable (s : State) (n : Nat) (f : Src → Src)
@[simp] theorem updSrc_reg : (s.updSrc n f).reg = s.reg := rfl
@[simp] theorem updSrc_pages : (s.updSrc n f).pages = s.pages := rfl
@[simp] theorem updSrc_cnt : (s.updSrc n f).cnt = s.cnt := rfl
@[simp] theorem updSrc_ldg : (s.updSrc n f).ldg = s.ldg := rfl
@[simp] theorem updSrc_time : (s.updSrc n f).time = s.time := rfl
@[simp] theorem updSrc_frames : (s.updSrc n f).frames = s.frames := rfl
@[simp] theorem updSrc_nextFrame : (s.updSrc n f).nextFrame = s.nextFrame := rfl
@[simp] theorem updSrc_buf : (s.updSrc n f).buf = s.buf := rfl
@[simp] theorem updSrc_queues : (s.updSrc n f).queues = s.queues := rfl
@[simp] theorem updSrc_ports : (s.updSrc n f).ports = s.ports := rfl
@[simp] theorem updSrc_gates : (s.updSrc n f).gates = s.gates := rfl
@[simp] theorem updSrc_shapers : (s.updSrc n f).shapers = s.shapers := rfl
@[simp] theorem updSrc_policers : (s.updSrc n f).policers = s.policers := rfl
@[simp] theorem updSrc_filters : (s.updSrc n f).filters = s.filters := rfl
@[simp] theorem updSrc_hampers : (s.updSrc n f).hampers = s.hampers := rfl
@[simp] theorem updSrc_mirrorCount : (s.updSrc n f).mirrorCount = s.mirrorCount := rfl
@[simp] theorem updSrc_wred : (s.updSrc n f).wred = s.wred := rfl
@[simp] theorem updSrc_qscWin : (s.updSrc n f).qscWin = s.qscWin := rfl
@[simp] theorem updSrc_recov : (s.updSrc n f).recov = s.recov := rfl
@[simp] theorem updSrc_arbs : (s.updSrc n f).arbs = s.arbs := rfl
@[simp] theorem updSrc_peat : (s.updSrc n f).peat = s.peat := rfl
@[simp] theorem updSrc_tab : (s.updSrc n f).tab = s.tab := rfl
@[simp] theorem updSrc_eng : (s.updSrc n f).eng = s.eng := rfl
@[simp] theorem updSrc_emb : (s.updSrc n f).emb = s.emb := rfl
@[simp] theorem updSrc_sns : (s.updSrc n f).sns = s.sns := rfl
@[simp] theorem updSrc_mate : (s.updSrc n f).mate = s.mate := rfl
@[simp] theorem updSrc_hif : (s.updSrc n f).hif = s.hif := rfl
@[simp] theorem updSrc_boot : (s.updSrc n f).boot = s.boot := rfl
@[simp] theorem updSrc_out : (s.updSrc n f).out = s.out := rfl
@[simp] theorem updSrc_free : (s.updSrc n f).free = s.free := rfl
@[simp] theorem updSrc_pending : (s.updSrc n f).pending = s.pending := rfl
end

/-! #### setStack -/

section
variable (t : Nat) (l : List StkEntry) (s : State)
@[simp] theorem setStack_reg : (setStack t l s).reg = s.reg := rfl
@[simp] theorem setStack_pages : (setStack t l s).pages = s.pages := rfl
@[simp] theorem setStack_cnt : (setStack t l s).cnt = s.cnt := rfl
@[simp] theorem setStack_ldg : (setStack t l s).ldg = s.ldg := rfl
@[simp] theorem setStack_time : (setStack t l s).time = s.time := rfl
@[simp] theorem setStack_frames : (setStack t l s).frames = s.frames := rfl
@[simp] theorem setStack_nextFrame : (setStack t l s).nextFrame = s.nextFrame := rfl
@[simp] theorem setStack_buf : (setStack t l s).buf = s.buf := rfl
@[simp] theorem setStack_queues : (setStack t l s).queues = s.queues := rfl
@[simp] theorem setStack_ports : (setStack t l s).ports = s.ports := rfl
@[simp] theorem setStack_gates : (setStack t l s).gates = s.gates := rfl
@[simp] theorem setStack_shapers : (setStack t l s).shapers = s.shapers := rfl
@[simp] theorem setStack_policers : (setStack t l s).policers = s.policers := rfl
@[simp] theorem setStack_filters : (setStack t l s).filters = s.filters := rfl
@[simp] theorem setStack_hampers : (setStack t l s).hampers = s.hampers := rfl
@[simp] theorem setStack_mirrorCount : (setStack t l s).mirrorCount = s.mirrorCount := rfl
@[simp] theorem setStack_wred : (setStack t l s).wred = s.wred := rfl
@[simp] theorem setStack_qscWin : (setStack t l s).qscWin = s.qscWin := rfl
@[simp] theorem setStack_recov : (setStack t l s).recov = s.recov := rfl
@[simp] theorem setStack_arbs : (setStack t l s).arbs = s.arbs := rfl
@[simp] theorem setStack_peat : (setStack t l s).peat = s.peat := rfl
@[simp] theorem setStack_tab : (setStack t l s).tab = s.tab := rfl
@[simp] theorem setStack_eng : (setStack t l s).eng = s.eng := rfl
@[simp] theorem setStack_emb : (setStack t l s).emb = s.emb := rfl
@[simp] theorem setStack_sns : (setStack t l s).sns = s.sns := rfl
@[simp] theorem setStack_mate : (setStack t l s).mate = s.mate := rfl
@[simp] theorem setStack_hif : (setStack t l s).hif = s.hif := rfl
@[simp] theorem setStack_boot : (setStack t l s).boot = s.boot := rfl
@[simp] theorem setStack_out : (setStack t l s).out = s.out := rfl
@[simp] theorem setStack_free : (setStack t l s).free = s.free := rfl
@[simp] theorem setStack_pending : (setStack t l s).pending = s.pending := rfl
end

/-! #### setCounter -/

section
variable (i v : Nat) (s : State)
@[simp] theorem setCounter_reg : (setCounter i v s).reg = s.reg := rfl
@[simp] theorem setCounter_pages : (setCounter i v s).pages = s.pages := rfl
@[simp] theorem setCounter_int : (setCounter i v s).int = s.int := rfl
@[simp] theorem setCounter_ldg : (setCounter i v s).ldg = s.ldg := rfl
@[simp] theorem setCounter_time : (setCounter i v s).time = s.time := rfl
@[simp] theorem setCounter_frames : (setCounter i v s).frames = s.frames := rfl
@[simp] theorem setCounter_nextFrame : (setCounter i v s).nextFrame = s.nextFrame := rfl
@[simp] theorem setCounter_buf : (setCounter i v s).buf = s.buf := rfl
@[simp] theorem setCounter_queues : (setCounter i v s).queues = s.queues := rfl
@[simp] theorem setCounter_ports : (setCounter i v s).ports = s.ports := rfl
@[simp] theorem setCounter_gates : (setCounter i v s).gates = s.gates := rfl
@[simp] theorem setCounter_shapers : (setCounter i v s).shapers = s.shapers := rfl
@[simp] theorem setCounter_policers : (setCounter i v s).policers = s.policers := rfl
@[simp] theorem setCounter_filters : (setCounter i v s).filters = s.filters := rfl
@[simp] theorem setCounter_hampers : (setCounter i v s).hampers = s.hampers := rfl
@[simp] theorem setCounter_mirrorCount : (setCounter i v s).mirrorCount = s.mirrorCount := rfl
@[simp] theorem setCounter_wred : (setCounter i v s).wred = s.wred := rfl
@[simp] theorem setCounter_qscWin : (setCounter i v s).qscWin = s.qscWin := rfl
@[simp] theorem setCounter_recov : (setCounter i v s).recov = s.recov := rfl
@[simp] theorem setCounter_arbs : (setCounter i v s).arbs = s.arbs := rfl
@[simp] theorem setCounter_peat : (setCounter i v s).peat = s.peat := rfl
@[simp] theorem setCounter_tab : (setCounter i v s).tab = s.tab := rfl
@[simp] theorem setCounter_eng : (setCounter i v s).eng = s.eng := rfl
@[simp] theorem setCounter_emb : (setCounter i v s).emb = s.emb := rfl
@[simp] theorem setCounter_sns : (setCounter i v s).sns = s.sns := rfl
@[simp] theorem setCounter_mate : (setCounter i v s).mate = s.mate := rfl
@[simp] theorem setCounter_hif : (setCounter i v s).hif = s.hif := rfl
@[simp] theorem setCounter_boot : (setCounter i v s).boot = s.boot := rfl
@[simp] theorem setCounter_out : (setCounter i v s).out = s.out := rfl
@[simp] theorem setCounter_free : (setCounter i v s).free = s.free := rfl
@[simp] theorem setCounter_pending : (setCounter i v s).pending = s.pending := rfl
end

/-! #### emit -/

section
variable (o : Out) (s : State)
@[simp] theorem emit_reg : (emit o s).reg = s.reg := rfl
@[simp] theorem emit_pages : (emit o s).pages = s.pages := rfl
@[simp] theorem emit_int : (emit o s).int = s.int := rfl
@[simp] theorem emit_cnt : (emit o s).cnt = s.cnt := rfl
@[simp] theorem emit_ldg : (emit o s).ldg = s.ldg := rfl
@[simp] theorem emit_time : (emit o s).time = s.time := rfl
@[simp] theorem emit_frames : (emit o s).frames = s.frames := rfl
@[simp] theorem emit_nextFrame : (emit o s).nextFrame = s.nextFrame := rfl
@[simp] theorem emit_buf : (emit o s).buf = s.buf := rfl
@[simp] theorem emit_queues : (emit o s).queues = s.queues := rfl
@[simp] theorem emit_ports : (emit o s).ports = s.ports := rfl
@[simp] theorem emit_gates : (emit o s).gates = s.gates := rfl
@[simp] theorem emit_shapers : (emit o s).shapers = s.shapers := rfl
@[simp] theorem emit_policers : (emit o s).policers = s.policers := rfl
@[simp] theorem emit_filters : (emit o s).filters = s.filters := rfl
@[simp] theorem emit_hampers : (emit o s).hampers = s.hampers := rfl
@[simp] theorem emit_mirrorCount : (emit o s).mirrorCount = s.mirrorCount := rfl
@[simp] theorem emit_wred : (emit o s).wred = s.wred := rfl
@[simp] theorem emit_qscWin : (emit o s).qscWin = s.qscWin := rfl
@[simp] theorem emit_recov : (emit o s).recov = s.recov := rfl
@[simp] theorem emit_arbs : (emit o s).arbs = s.arbs := rfl
@[simp] theorem emit_peat : (emit o s).peat = s.peat := rfl
@[simp] theorem emit_tab : (emit o s).tab = s.tab := rfl
@[simp] theorem emit_eng : (emit o s).eng = s.eng := rfl
@[simp] theorem emit_emb : (emit o s).emb = s.emb := rfl
@[simp] theorem emit_sns : (emit o s).sns = s.sns := rfl
@[simp] theorem emit_mate : (emit o s).mate = s.mate := rfl
@[simp] theorem emit_hif : (emit o s).hif = s.hif := rfl
@[simp] theorem emit_boot : (emit o s).boot = s.boot := rfl
@[simp] theorem emit_free : (emit o s).free = s.free := rfl
@[simp] theorem emit_pending : (emit o s).pending = s.pending := rfl
end

/-! #### updHour -/

section
variable (f : Hour → Hour) (s : State)
@[simp] theorem updHour_reg : (updHour f s).reg = s.reg := rfl
@[simp] theorem updHour_pages : (updHour f s).pages = s.pages := rfl
@[simp] theorem updHour_int : (updHour f s).int = s.int := rfl
@[simp] theorem updHour_cnt : (updHour f s).cnt = s.cnt := rfl
@[simp] theorem updHour_time : (updHour f s).time = s.time := rfl
@[simp] theorem updHour_frames : (updHour f s).frames = s.frames := rfl
@[simp] theorem updHour_nextFrame : (updHour f s).nextFrame = s.nextFrame := rfl
@[simp] theorem updHour_buf : (updHour f s).buf = s.buf := rfl
@[simp] theorem updHour_queues : (updHour f s).queues = s.queues := rfl
@[simp] theorem updHour_ports : (updHour f s).ports = s.ports := rfl
@[simp] theorem updHour_gates : (updHour f s).gates = s.gates := rfl
@[simp] theorem updHour_shapers : (updHour f s).shapers = s.shapers := rfl
@[simp] theorem updHour_policers : (updHour f s).policers = s.policers := rfl
@[simp] theorem updHour_filters : (updHour f s).filters = s.filters := rfl
@[simp] theorem updHour_hampers : (updHour f s).hampers = s.hampers := rfl
@[simp] theorem updHour_mirrorCount : (updHour f s).mirrorCount = s.mirrorCount := rfl
@[simp] theorem updHour_wred : (updHour f s).wred = s.wred := rfl
@[simp] theorem updHour_qscWin : (updHour f s).qscWin = s.qscWin := rfl
@[simp] theorem updHour_recov : (updHour f s).recov = s.recov := rfl
@[simp] theorem updHour_arbs : (updHour f s).arbs = s.arbs := rfl
@[simp] theorem updHour_peat : (updHour f s).peat = s.peat := rfl
@[simp] theorem updHour_tab : (updHour f s).tab = s.tab := rfl
@[simp] theorem updHour_eng : (updHour f s).eng = s.eng := rfl
@[simp] theorem updHour_emb : (updHour f s).emb = s.emb := rfl
@[simp] theorem updHour_sns : (updHour f s).sns = s.sns := rfl
@[simp] theorem updHour_mate : (updHour f s).mate = s.mate := rfl
@[simp] theorem updHour_hif : (updHour f s).hif = s.hif := rfl
@[simp] theorem updHour_boot : (updHour f s).boot = s.boot := rfl
@[simp] theorem updHour_out : (updHour f s).out = s.out := rfl
@[simp] theorem updHour_free : (updHour f s).free = s.free := rfl
@[simp] theorem updHour_pending : (updHour f s).pending = s.pending := rfl
end

/-! #### State.updDom -/

section
variable (s : State) (d : Nat) (f : Dom → Dom)
@[simp] theorem updDom_reg : (s.updDom d f).reg = s.reg := by unfold State.updDom; split <;> rfl
@[simp] theorem updDom_pages : (s.updDom d f).pages = s.pages := by unfold State.updDom; split <;> rfl
@[simp] theorem updDom_int : (s.updDom d f).int = s.int := by unfold State.updDom; split <;> rfl
@[simp] theorem updDom_cnt : (s.updDom d f).cnt = s.cnt := by unfold State.updDom; split <;> rfl
@[simp] theorem updDom_ldg : (s.updDom d f).ldg = s.ldg := by unfold State.updDom; split <;> rfl
@[simp] theorem updDom_frames : (s.updDom d f).frames = s.frames := by unfold State.updDom; split <;> rfl
@[simp] theorem updDom_nextFrame : (s.updDom d f).nextFrame = s.nextFrame := by unfold State.updDom; split <;> rfl
@[simp] theorem updDom_buf : (s.updDom d f).buf = s.buf := by unfold State.updDom; split <;> rfl
@[simp] theorem updDom_queues : (s.updDom d f).queues = s.queues := by unfold State.updDom; split <;> rfl
@[simp] theorem updDom_ports : (s.updDom d f).ports = s.ports := by unfold State.updDom; split <;> rfl
@[simp] theorem updDom_gates : (s.updDom d f).gates = s.gates := by unfold State.updDom; split <;> rfl
@[simp] theorem updDom_shapers : (s.updDom d f).shapers = s.shapers := by unfold State.updDom; split <;> rfl
@[simp] theorem updDom_policers : (s.updDom d f).policers = s.policers := by unfold State.updDom; split <;> rfl
@[simp] theorem updDom_filters : (s.updDom d f).filters = s.filters := by unfold State.updDom; split <;> rfl
@[simp] theorem updDom_hampers : (s.updDom d f).hampers = s.hampers := by unfold State.updDom; split <;> rfl
@[simp] theorem updDom_mirrorCount : (s.updDom d f).mirrorCount = s.mirrorCount := by unfold State.updDom; split <;> rfl
@[simp] theorem updDom_wred : (s.updDom d f).wred = s.wred := by unfold State.updDom; split <;> rfl
@[simp] theorem updDom_qscWin : (s.updDom d f).qscWin = s.qscWin := by unfold State.updDom; split <;> rfl
@[simp] theorem updDom_recov : (s.updDom d f).recov = s.recov := by unfold State.updDom; split <;> rfl
@[simp] theorem updDom_arbs : (s.updDom d f).arbs = s.arbs := by unfold State.updDom; split <;> rfl
@[simp] theorem updDom_peat : (s.updDom d f).peat = s.peat := by unfold State.updDom; split <;> rfl
@[simp] theorem updDom_tab : (s.updDom d f).tab = s.tab := by unfold State.updDom; split <;> rfl
@[simp] theorem updDom_eng : (s.updDom d f).eng = s.eng := by unfold State.updDom; split <;> rfl
@[simp] theorem updDom_emb : (s.updDom d f).emb = s.emb := by unfold State.updDom; split <;> rfl
@[simp] theorem updDom_sns : (s.updDom d f).sns = s.sns := by unfold State.updDom; split <;> rfl
@[simp] theorem updDom_mate : (s.updDom d f).mate = s.mate := by unfold State.updDom; split <;> rfl
@[simp] theorem updDom_hif : (s.updDom d f).hif = s.hif := by unfold State.updDom; split <;> rfl
@[simp] theorem updDom_boot : (s.updDom d f).boot = s.boot := by unfold State.updDom; split <;> rfl
@[simp] theorem updDom_out : (s.updDom d f).out = s.out := by unfold State.updDom; split <;> rfl
@[simp] theorem updDom_free : (s.updDom d f).free = s.free := by unfold State.updDom; split <;> rfl
@[simp] theorem updDom_pending : (s.updDom d f).pending = s.pending := by unfold State.updDom; split <;> rfl
end

/-! #### State.updFrame -/

section
variable (s : State) (k : Nat) (f : Frame → Frame)
@[simp] theorem updFrame_reg : (s.updFrame k f).reg = s.reg := by unfold State.updFrame; split <;> rfl
@[simp] theorem updFrame_pages : (s.updFrame k f).pages = s.pages := by unfold State.updFrame; split <;> rfl
@[simp] theorem updFrame_int : (s.updFrame k f).int = s.int := by unfold State.updFrame; split <;> rfl
@[simp] theorem updFrame_cnt : (s.updFrame k f).cnt = s.cnt := by unfold State.updFrame; split <;> rfl
@[simp] theorem updFrame_ldg : (s.updFrame k f).ldg = s.ldg := by unfold State.updFrame; split <;> rfl
@[simp] theorem updFrame_time : (s.updFrame k f).time = s.time := by unfold State.updFrame; split <;> rfl
@[simp] theorem updFrame_nextFrame : (s.updFrame k f).nextFrame = s.nextFrame := by unfold State.updFrame; split <;> rfl
@[simp] theorem updFrame_buf : (s.updFrame k f).buf = s.buf := by unfold State.updFrame; split <;> rfl
@[simp] theorem updFrame_queues : (s.updFrame k f).queues = s.queues := by unfold State.updFrame; split <;> rfl
@[simp] theorem updFrame_ports : (s.updFrame k f).ports = s.ports := by unfold State.updFrame; split <;> rfl
@[simp] theorem updFrame_gates : (s.updFrame k f).gates = s.gates := by unfold State.updFrame; split <;> rfl
@[simp] theorem updFrame_shapers : (s.updFrame k f).shapers = s.shapers := by unfold State.updFrame; split <;> rfl
@[simp] theorem updFrame_policers : (s.updFrame k f).policers = s.policers := by unfold State.updFrame; split <;> rfl
@[simp] theorem updFrame_filters : (s.updFrame k f).filters = s.filters := by unfold State.updFrame; split <;> rfl
@[simp] theorem updFrame_hampers : (s.updFrame k f).hampers = s.hampers := by unfold State.updFrame; split <;> rfl
@[simp] theorem updFrame_mirrorCount : (s.updFrame k f).mirrorCount = s.mirrorCount := by unfold State.updFrame; split <;> rfl
@[simp] theorem updFrame_wred : (s.updFrame k f).wred = s.wred := by unfold State.updFrame; split <;> rfl
@[simp] theorem updFrame_qscWin : (s.updFrame k f).qscWin = s.qscWin := by unfold State.updFrame; split <;> rfl
@[simp] theorem updFrame_recov : (s.updFrame k f).recov = s.recov := by unfold State.updFrame; split <;> rfl
@[simp] theorem updFrame_arbs : (s.updFrame k f).arbs = s.arbs := by unfold State.updFrame; split <;> rfl
@[simp] theorem updFrame_peat : (s.updFrame k f).peat = s.peat := by unfold State.updFrame; split <;> rfl
@[simp] theorem updFrame_tab : (s.updFrame k f).tab = s.tab := by unfold State.updFrame; split <;> rfl
@[simp] theorem updFrame_eng : (s.updFrame k f).eng = s.eng := by unfold State.updFrame; split <;> rfl
@[simp] theorem updFrame_emb : (s.updFrame k f).emb = s.emb := by unfold State.updFrame; split <;> rfl
@[simp] theorem updFrame_sns : (s.updFrame k f).sns = s.sns := by unfold State.updFrame; split <;> rfl
@[simp] theorem updFrame_mate : (s.updFrame k f).mate = s.mate := by unfold State.updFrame; split <;> rfl
@[simp] theorem updFrame_hif : (s.updFrame k f).hif = s.hif := by unfold State.updFrame; split <;> rfl
@[simp] theorem updFrame_boot : (s.updFrame k f).boot = s.boot := by unfold State.updFrame; split <;> rfl
@[simp] theorem updFrame_out : (s.updFrame k f).out = s.out := by unfold State.updFrame; split <;> rfl
@[simp] theorem updFrame_free : (s.updFrame k f).free = s.free := by unfold State.updFrame; split <;> rfl
@[simp] theorem updFrame_pending : (s.updFrame k f).pending = s.pending := by unfold State.updFrame; split <;> rfl
end

/-! #### State.updPool -/

section
variable (s : State) (r : Nat) (f : Pool → Pool)
@[simp] theorem updPool_reg : (s.updPool r f).reg = s.reg := rfl
@[simp] theorem updPool_pages : (s.updPool r f).pages = s.pages := rfl
@[simp] theorem updPool_int : (s.updPool r f).int = s.int := rfl
@[simp] theorem updPool_cnt : (s.updPool r f).cnt = s.cnt := rfl
@[simp] theorem updPool_ldg : (s.updPool r f).ldg = s.ldg := rfl
@[simp] theorem updPool_time : (s.updPool r f).time = s.time := rfl
@[simp] theorem updPool_frames : (s.updPool r f).frames = s.frames := rfl
@[simp] theorem updPool_nextFrame : (s.updPool r f).nextFrame = s.nextFrame := rfl
@[simp] theorem updPool_queues : (s.updPool r f).queues = s.queues := rfl
@[simp] theorem updPool_ports : (s.updPool r f).ports = s.ports := rfl
@[simp] theorem updPool_gates : (s.updPool r f).gates = s.gates := rfl
@[simp] theorem updPool_shapers : (s.updPool r f).shapers = s.shapers := rfl
@[simp] theorem updPool_policers : (s.updPool r f).policers = s.policers := rfl
@[simp] theorem updPool_filters : (s.updPool r f).filters = s.filters := rfl
@[simp] theorem updPool_hampers : (s.updPool r f).hampers = s.hampers := rfl
@[simp] theorem updPool_mirrorCount : (s.updPool r f).mirrorCount = s.mirrorCount := rfl
@[simp] theorem updPool_wred : (s.updPool r f).wred = s.wred := rfl
@[simp] theorem updPool_qscWin : (s.updPool r f).qscWin = s.qscWin := rfl
@[simp] theorem updPool_recov : (s.updPool r f).recov = s.recov := rfl
@[simp] theorem updPool_arbs : (s.updPool r f).arbs = s.arbs := rfl
@[simp] theorem updPool_peat : (s.updPool r f).peat = s.peat := rfl
@[simp] theorem updPool_tab : (s.updPool r f).tab = s.tab := rfl
@[simp] theorem updPool_eng : (s.updPool r f).eng = s.eng := rfl
@[simp] theorem updPool_emb : (s.updPool r f).emb = s.emb := rfl
@[simp] theorem updPool_sns : (s.updPool r f).sns = s.sns := rfl
@[simp] theorem updPool_mate : (s.updPool r f).mate = s.mate := rfl
@[simp] theorem updPool_hif : (s.updPool r f).hif = s.hif := rfl
@[simp] theorem updPool_boot : (s.updPool r f).boot = s.boot := rfl
@[simp] theorem updPool_out : (s.updPool r f).out = s.out := rfl
@[simp] theorem updPool_free : (s.updPool r f).free = s.free := rfl
@[simp] theorem updPool_pending : (s.updPool r f).pending = s.pending := rfl
end

/-! #### State.setLink -/

section
variable (s : State) (b : Nat) (l : Link)
@[simp] theorem setLink_reg : (s.setLink b l).reg = s.reg := rfl
@[simp] theorem setLink_pages : (s.setLink b l).pages = s.pages := rfl
@[simp] theorem setLink_int : (s.setLink b l).int = s.int := rfl
@[simp] theorem setLink_cnt : (s.setLink b l).cnt = s.cnt := rfl
@[simp] theorem setLink_ldg : (s.setLink b l).ldg = s.ldg := rfl
@[simp] theorem setLink_time : (s.setLink b l).time = s.time := rfl
@[simp] theorem setLink_frames : (s.setLink b l).frames = s.frames := rfl
@[simp] theorem setLink_nextFrame : (s.setLink b l).nextFrame = s.nextFrame := rfl
@[simp] theorem setLink_queues : (s.setLink b l).queues = s.queues := rfl
@[simp] theorem setLink_ports : (s.setLink b l).ports = s.ports := rfl
@[simp] theorem setLink_gates : (s.setLink b l).gates = s.gates := rfl
@[simp] theorem setLink_shapers : (s.setLink b l).shapers = s.shapers := rfl
@[simp] theorem setLink_policers : (s.setLink b l).policers = s.policers := rfl
@[simp] theorem setLink_filters : (s.setLink b l).filters = s.filters := rfl
@[simp] theorem setLink_hampers : (s.setLink b l).hampers = s.hampers := rfl
@[simp] theorem setLink_mirrorCount : (s.setLink b l).mirrorCount = s.mirrorCount := rfl
@[simp] theorem setLink_wred : (s.setLink b l).wred = s.wred := rfl
@[simp] theorem setLink_qscWin : (s.setLink b l).qscWin = s.qscWin := rfl
@[simp] theorem setLink_recov : (s.setLink b l).recov = s.recov := rfl
@[simp] theorem setLink_arbs : (s.setLink b l).arbs = s.arbs := rfl
@[simp] theorem setLink_peat : (s.setLink b l).peat = s.peat := rfl
@[simp] theorem setLink_tab : (s.setLink b l).tab = s.tab := rfl
@[simp] theorem setLink_eng : (s.setLink b l).eng = s.eng := rfl
@[simp] theorem setLink_emb : (s.setLink b l).emb = s.emb := rfl
@[simp] theorem setLink_sns : (s.setLink b l).sns = s.sns := rfl
@[simp] theorem setLink_mate : (s.setLink b l).mate = s.mate := rfl
@[simp] theorem setLink_hif : (s.setLink b l).hif = s.hif := rfl
@[simp] theorem setLink_boot : (s.setLink b l).boot = s.boot := rfl
@[simp] theorem setLink_out : (s.setLink b l).out = s.out := rfl
@[simp] theorem setLink_free : (s.setLink b l).free = s.free := rfl
@[simp] theorem setLink_pending : (s.setLink b l).pending = s.pending := rfl
end

/-! #### State.setHead -/

section
variable (s : State) (b : Nat) (h : HeadWord)
@[simp] theorem setHead_reg : (s.setHead b h).reg = s.reg := rfl
@[simp] theorem setHead_pages : (s.setHead b h).pages = s.pages := rfl
@[simp] theorem setHead_int : (s.setHead b h).int = s.int := rfl
@[simp] theorem setHead_cnt : (s.setHead b h).cnt = s.cnt := rfl
@[simp] theorem setHead_ldg : (s.setHead b h).ldg = s.ldg := rfl
@[simp] theorem setHead_time : (s.setHead b h).time = s.time := rfl
@[simp] theorem setHead_frames : (s.setHead b h).frames = s.frames := rfl
@[simp] theorem setHead_nextFrame : (s.setHead b h).nextFrame = s.nextFrame := rfl
@[simp] theorem setHead_queues : (s.setHead b h).queues = s.queues := rfl
@[simp] theorem setHead_ports : (s.setHead b h).ports = s.ports := rfl
@[simp] theorem setHead_gates : (s.setHead b h).gates = s.gates := rfl
@[simp] theorem setHead_shapers : (s.setHead b h).shapers = s.shapers := rfl
@[simp] theorem setHead_policers : (s.setHead b h).policers = s.policers := rfl
@[simp] theorem setHead_filters : (s.setHead b h).filters = s.filters := rfl
@[simp] theorem setHead_hampers : (s.setHead b h).hampers = s.hampers := rfl
@[simp] theorem setHead_mirrorCount : (s.setHead b h).mirrorCount = s.mirrorCount := rfl
@[simp] theorem setHead_wred : (s.setHead b h).wred = s.wred := rfl
@[simp] theorem setHead_qscWin : (s.setHead b h).qscWin = s.qscWin := rfl
@[simp] theorem setHead_recov : (s.setHead b h).recov = s.recov := rfl
@[simp] theorem setHead_arbs : (s.setHead b h).arbs = s.arbs := rfl
@[simp] theorem setHead_peat : (s.setHead b h).peat = s.peat := rfl
@[simp] theorem setHead_tab : (s.setHead b h).tab = s.tab := rfl
@[simp] theorem setHead_eng : (s.setHead b h).eng = s.eng := rfl
@[simp] theorem setHead_emb : (s.setHead b h).emb = s.emb := rfl
@[simp] theorem setHead_sns : (s.setHead b h).sns = s.sns := rfl
@[simp] theorem setHead_mate : (s.setHead b h).mate = s.mate := rfl
@[simp] theorem setHead_hif : (s.setHead b h).hif = s.hif := rfl
@[simp] theorem setHead_boot : (s.setHead b h).boot = s.boot := rfl
@[simp] theorem setHead_out : (s.setHead b h).out = s.out := rfl
@[simp] theorem setHead_free : (s.setHead b h).free = s.free := rfl
@[simp] theorem setHead_pending : (s.setHead b h).pending = s.pending := rfl
end

/-! #### State.updQueue -/

section
variable (s : State) (q : Nat) (f : Queue → Queue)
@[simp] theorem updQueue_int : (s.updQueue q f).int = s.int := rfl
@[simp] theorem updQueue_cnt : (s.updQueue q f).cnt = s.cnt := rfl
@[simp] theorem updQueue_ldg : (s.updQueue q f).ldg = s.ldg := rfl
@[simp] theorem updQueue_time : (s.updQueue q f).time = s.time := rfl
@[simp] theorem updQueue_frames : (s.updQueue q f).frames = s.frames := rfl
@[simp] theorem updQueue_nextFrame : (s.updQueue q f).nextFrame = s.nextFrame := rfl
@[simp] theorem updQueue_buf : (s.updQueue q f).buf = s.buf := rfl
@[simp] theorem updQueue_ports : (s.updQueue q f).ports = s.ports := rfl
@[simp] theorem updQueue_gates : (s.updQueue q f).gates = s.gates := rfl
@[simp] theorem updQueue_shapers : (s.updQueue q f).shapers = s.shapers := rfl
@[simp] theorem updQueue_policers : (s.updQueue q f).policers = s.policers := rfl
@[simp] theorem updQueue_filters : (s.updQueue q f).filters = s.filters := rfl
@[simp] theorem updQueue_hampers : (s.updQueue q f).hampers = s.hampers := rfl
@[simp] theorem updQueue_mirrorCount : (s.updQueue q f).mirrorCount = s.mirrorCount := rfl
@[simp] theorem updQueue_wred : (s.updQueue q f).wred = s.wred := rfl
@[simp] theorem updQueue_qscWin : (s.updQueue q f).qscWin = s.qscWin := rfl
@[simp] theorem updQueue_recov : (s.updQueue q f).recov = s.recov := rfl
@[simp] theorem updQueue_arbs : (s.updQueue q f).arbs = s.arbs := rfl
@[simp] theorem updQueue_peat : (s.updQueue q f).peat = s.peat := rfl
@[simp] theorem updQueue_tab : (s.updQueue q f).tab = s.tab := rfl
@[simp] theorem updQueue_eng : (s.updQueue q f).eng = s.eng := rfl
@[simp] theorem updQueue_emb : (s.updQueue q f).emb = s.emb := rfl
@[simp] theorem updQueue_sns : (s.updQueue q f).sns = s.sns := rfl
@[simp] theorem updQueue_mate : (s.updQueue q f).mate = s.mate := rfl
@[simp] theorem updQueue_hif : (s.updQueue q f).hif = s.hif := rfl
@[simp] theorem updQueue_boot : (s.updQueue q f).boot = s.boot := rfl
@[simp] theorem updQueue_out : (s.updQueue q f).out = s.out := rfl
@[simp] theorem updQueue_free : (s.updQueue q f).free = s.free := rfl
@[simp] theorem updQueue_pending : (s.updQueue q f).pending = s.pending := rfl
end

/-! #### State.updPort -/

section
variable (s : State) (p : Nat) (f : PortSt → PortSt)
@[simp] theorem updPort_reg : (s.updPort p f).reg = s.reg := rfl
@[simp] theorem updPort_pages : (s.updPort p f).pages = s.pages := rfl
@[simp] theorem updPort_int : (s.updPort p f).int = s.int := rfl
@[simp] theorem updPort_cnt : (s.updPort p f).cnt = s.cnt := rfl
@[simp] theorem updPort_ldg : (s.updPort p f).ldg = s.ldg := rfl
@[simp] theorem updPort_time : (s.updPort p f).time = s.time := rfl
@[simp] theorem updPort_frames : (s.updPort p f).frames = s.frames := rfl
@[simp] theorem updPort_nextFrame : (s.updPort p f).nextFrame = s.nextFrame := rfl
@[simp] theorem updPort_buf : (s.updPort p f).buf = s.buf := rfl
@[simp] theorem updPort_queues : (s.updPort p f).queues = s.queues := rfl
@[simp] theorem updPort_gates : (s.updPort p f).gates = s.gates := rfl
@[simp] theorem updPort_shapers : (s.updPort p f).shapers = s.shapers := rfl
@[simp] theorem updPort_policers : (s.updPort p f).policers = s.policers := rfl
@[simp] theorem updPort_filters : (s.updPort p f).filters = s.filters := rfl
@[simp] theorem updPort_hampers : (s.updPort p f).hampers = s.hampers := rfl
@[simp] theorem updPort_mirrorCount : (s.updPort p f).mirrorCount = s.mirrorCount := rfl
@[simp] theorem updPort_wred : (s.updPort p f).wred = s.wred := rfl
@[simp] theorem updPort_qscWin : (s.updPort p f).qscWin = s.qscWin := rfl
@[simp] theorem updPort_recov : (s.updPort p f).recov = s.recov := rfl
@[simp] theorem updPort_arbs : (s.updPort p f).arbs = s.arbs := rfl
@[simp] theorem updPort_peat : (s.updPort p f).peat = s.peat := rfl
@[simp] theorem updPort_tab : (s.updPort p f).tab = s.tab := rfl
@[simp] theorem updPort_eng : (s.updPort p f).eng = s.eng := rfl
@[simp] theorem updPort_emb : (s.updPort p f).emb = s.emb := rfl
@[simp] theorem updPort_sns : (s.updPort p f).sns = s.sns := rfl
@[simp] theorem updPort_mate : (s.updPort p f).mate = s.mate := rfl
@[simp] theorem updPort_hif : (s.updPort p f).hif = s.hif := rfl
@[simp] theorem updPort_boot : (s.updPort p f).boot = s.boot := rfl
@[simp] theorem updPort_out : (s.updPort p f).out = s.out := rfl
@[simp] theorem updPort_free : (s.updPort p f).free = s.free := rfl
@[simp] theorem updPort_pending : (s.updPort p f).pending = s.pending := rfl
end

/-! #### State.updGate -/

section
variable (s : State) (p : Nat) (f : GateSt → GateSt)
@[simp] theorem updGate_reg : (s.updGate p f).reg = s.reg := rfl
@[simp] theorem updGate_pages : (s.updGate p f).pages = s.pages := rfl
@[simp] theorem updGate_int : (s.updGate p f).int = s.int := rfl
@[simp] theorem updGate_cnt : (s.updGate p f).cnt = s.cnt := rfl
@[simp] theorem updGate_ldg : (s.updGate p f).ldg = s.ldg := rfl
@[simp] theorem updGate_time : (s.updGate p f).time = s.time := rfl
@[simp] theorem updGate_frames : (s.updGate p f).frames = s.frames := rfl
@[simp] theorem updGate_nextFrame : (s.updGate p f).nextFrame = s.nextFrame := rfl
@[simp] theorem updGate_buf : (s.updGate p f).buf = s.buf := rfl
@[simp] theorem updGate_queues : (s.updGate p f).queues = s.queues := rfl
@[simp] theorem updGate_ports : (s.updGate p f).ports = s.ports := rfl
@[simp] theorem updGate_shapers : (s.updGate p f).shapers = s.shapers := rfl
@[simp] theorem updGate_policers : (s.updGate p f).policers = s.policers := rfl
@[simp] theorem updGate_filters : (s.updGate p f).filters = s.filters := rfl
@[simp] theorem updGate_hampers : (s.updGate p f).hampers = s.hampers := rfl
@[simp] theorem updGate_mirrorCount : (s.updGate p f).mirrorCount = s.mirrorCount := rfl
@[simp] theorem updGate_wred : (s.updGate p f).wred = s.wred := rfl
@[simp] theorem updGate_qscWin : (s.updGate p f).qscWin = s.qscWin := rfl
@[simp] theorem updGate_recov : (s.updGate p f).recov = s.recov := rfl
@[simp] theorem updGate_arbs : (s.updGate p f).arbs = s.arbs := rfl
@[simp] theorem updGate_peat : (s.updGate p f).peat = s.peat := rfl
@[simp] theorem updGate_tab : (s.updGate p f).tab = s.tab := rfl
@[simp] theorem updGate_eng : (s.updGate p f).eng = s.eng := rfl
@[simp] theorem updGate_emb : (s.updGate p f).emb = s.emb := rfl
@[simp] theorem updGate_sns : (s.updGate p f).sns = s.sns := rfl
@[simp] theorem updGate_mate : (s.updGate p f).mate = s.mate := rfl
@[simp] theorem updGate_hif : (s.updGate p f).hif = s.hif := rfl
@[simp] theorem updGate_boot : (s.updGate p f).boot = s.boot := rfl
@[simp] theorem updGate_out : (s.updGate p f).out = s.out := rfl
@[simp] theorem updGate_free : (s.updGate p f).free = s.free := rfl
@[simp] theorem updGate_pending : (s.updGate p f).pending = s.pending := rfl
end

/-! #### State.setShaper -/

section
variable (s : State) (j : Nat) (x : Shaper)
@[simp] theorem setShaper_reg : (s.setShaper j x).reg = s.reg := rfl
@[simp] theorem setShaper_pages : (s.setShaper j x).pages = s.pages := rfl
@[simp] theorem setShaper_int : (s.setShaper j x).int = s.int := rfl
@[simp] theorem setShaper_cnt : (s.setShaper j x).cnt = s.cnt := rfl
@[simp] theorem setShaper_ldg : (s.setShaper j x).ldg = s.ldg := rfl
@[simp] theorem setShaper_time : (s.setShaper j x).time = s.time := rfl
@[simp] theorem setShaper_frames : (s.setShaper j x).frames = s.frames := rfl
@[simp] theorem setShaper_nextFrame : (s.setShaper j x).nextFrame = s.nextFrame := rfl
@[simp] theorem setShaper_buf : (s.setShaper j x).buf = s.buf := rfl
@[simp] theorem setShaper_queues : (s.setShaper j x).queues = s.queues := rfl
@[simp] theorem setShaper_ports : (s.setShaper j x).ports = s.ports := rfl
@[simp] theorem setShaper_gates : (s.setShaper j x).gates = s.gates := rfl
@[simp] theorem setShaper_policers : (s.setShaper j x).policers = s.policers := rfl
@[simp] theorem setShaper_filters : (s.setShaper j x).filters = s.filters := rfl
@[simp] theorem setShaper_hampers : (s.setShaper j x).hampers = s.hampers := rfl
@[simp] theorem setShaper_mirrorCount : (s.setShaper j x).mirrorCount = s.mirrorCount := rfl
@[simp] theorem setShaper_wred : (s.setShaper j x).wred = s.wred := rfl
@[simp] theorem setShaper_qscWin : (s.setShaper j x).qscWin = s.qscWin := rfl
@[simp] theorem setShaper_recov : (s.setShaper j x).recov = s.recov := rfl
@[simp] theorem setShaper_arbs : (s.setShaper j x).arbs = s.arbs := rfl
@[simp] theorem setShaper_peat : (s.setShaper j x).peat = s.peat := rfl
@[simp] theorem setShaper_tab : (s.setShaper j x).tab = s.tab := rfl
@[simp] theorem setShaper_eng : (s.setShaper j x).eng = s.eng := rfl
@[simp] theorem setShaper_emb : (s.setShaper j x).emb = s.emb := rfl
@[simp] theorem setShaper_sns : (s.setShaper j x).sns = s.sns := rfl
@[simp] theorem setShaper_mate : (s.setShaper j x).mate = s.mate := rfl
@[simp] theorem setShaper_hif : (s.setShaper j x).hif = s.hif := rfl
@[simp] theorem setShaper_boot : (s.setShaper j x).boot = s.boot := rfl
@[simp] theorem setShaper_out : (s.setShaper j x).out = s.out := rfl
@[simp] theorem setShaper_free : (s.setShaper j x).free = s.free := rfl
@[simp] theorem setShaper_pending : (s.setShaper j x).pending = s.pending := rfl
end

/-! #### State.setPolicer -/

section
variable (s : State) (n : Nat) (x : Policer)
@[simp] theorem setPolicer_reg : (s.setPolicer n x).reg = s.reg := rfl
@[simp] theorem setPolicer_pages : (s.setPolicer n x).pages = s.pages := rfl
@[simp] theorem setPolicer_int : (s.setPolicer n x).int = s.int := rfl
@[simp] theorem setPolicer_cnt : (s.setPolicer n x).cnt = s.cnt := rfl
@[simp] theorem setPolicer_ldg : (s.setPolicer n x).ldg = s.ldg := rfl
@[simp] theorem setPolicer_time : (s.setPolicer n x).time = s.time := rfl
@[simp] theorem setPolicer_frames : (s.setPolicer n x).frames = s.frames := rfl
@[simp] theorem setPolicer_nextFrame : (s.setPolicer n x).nextFrame = s.nextFrame := rfl
@[simp] theorem setPolicer_buf : (s.setPolicer n x).buf = s.buf := rfl
@[simp] theorem setPolicer_queues : (s.setPolicer n x).queues = s.queues := rfl
@[simp] theorem setPolicer_ports : (s.setPolicer n x).ports = s.ports := rfl
@[simp] theorem setPolicer_gates : (s.setPolicer n x).gates = s.gates := rfl
@[simp] theorem setPolicer_shapers : (s.setPolicer n x).shapers = s.shapers := rfl
@[simp] theorem setPolicer_filters : (s.setPolicer n x).filters = s.filters := rfl
@[simp] theorem setPolicer_hampers : (s.setPolicer n x).hampers = s.hampers := rfl
@[simp] theorem setPolicer_mirrorCount : (s.setPolicer n x).mirrorCount = s.mirrorCount := rfl
@[simp] theorem setPolicer_wred : (s.setPolicer n x).wred = s.wred := rfl
@[simp] theorem setPolicer_qscWin : (s.setPolicer n x).qscWin = s.qscWin := rfl
@[simp] theorem setPolicer_recov : (s.setPolicer n x).recov = s.recov := rfl
@[simp] theorem setPolicer_arbs : (s.setPolicer n x).arbs = s.arbs := rfl
@[simp] theorem setPolicer_peat : (s.setPolicer n x).peat = s.peat := rfl
@[simp] theorem setPolicer_tab : (s.setPolicer n x).tab = s.tab := rfl
@[simp] theorem setPolicer_eng : (s.setPolicer n x).eng = s.eng := rfl
@[simp] theorem setPolicer_emb : (s.setPolicer n x).emb = s.emb := rfl
@[simp] theorem setPolicer_sns : (s.setPolicer n x).sns = s.sns := rfl
@[simp] theorem setPolicer_mate : (s.setPolicer n x).mate = s.mate := rfl
@[simp] theorem setPolicer_hif : (s.setPolicer n x).hif = s.hif := rfl
@[simp] theorem setPolicer_boot : (s.setPolicer n x).boot = s.boot := rfl
@[simp] theorem setPolicer_out : (s.setPolicer n x).out = s.out := rfl
@[simp] theorem setPolicer_free : (s.setPolicer n x).free = s.free := rfl
@[simp] theorem setPolicer_pending : (s.setPolicer n x).pending = s.pending := rfl
end

/-! #### State.setFilter -/

section
variable (s : State) (h : Nat) (x : Filter)
@[simp] theorem setFilter_reg : (s.setFilter h x).reg = s.reg := rfl
@[simp] theorem setFilter_pages : (s.setFilter h x).pages = s.pages := rfl
@[simp] theorem setFilter_int : (s.setFilter h x).int = s.int := rfl
@[simp] theorem setFilter_cnt : (s.setFilter h x).cnt = s.cnt := rfl
@[simp] theorem setFilter_ldg : (s.setFilter h x).ldg = s.ldg := rfl
@[simp] theorem setFilter_time : (s.setFilter h x).time = s.time := rfl
@[simp] theorem setFilter_frames : (s.setFilter h x).frames = s.frames := rfl
@[simp] theorem setFilter_nextFrame : (s.setFilter h x).nextFrame = s.nextFrame := rfl
@[simp] theorem setFilter_buf : (s.setFilter h x).buf = s.buf := rfl
@[simp] theorem setFilter_queues : (s.setFilter h x).queues = s.queues := rfl
@[simp] theorem setFilter_ports : (s.setFilter h x).ports = s.ports := rfl
@[simp] theorem setFilter_gates : (s.setFilter h x).gates = s.gates := rfl
@[simp] theorem setFilter_shapers : (s.setFilter h x).shapers = s.shapers := rfl
@[simp] theorem setFilter_policers : (s.setFilter h x).policers = s.policers := rfl
@[simp] theorem setFilter_hampers : (s.setFilter h x).hampers = s.hampers := rfl
@[simp] theorem setFilter_mirrorCount : (s.setFilter h x).mirrorCount = s.mirrorCount := rfl
@[simp] theorem setFilter_wred : (s.setFilter h x).wred = s.wred := rfl
@[simp] theorem setFilter_qscWin : (s.setFilter h x).qscWin = s.qscWin := rfl
@[simp] theorem setFilter_recov : (s.setFilter h x).recov = s.recov := rfl
@[simp] theorem setFilter_arbs : (s.setFilter h x).arbs = s.arbs := rfl
@[simp] theorem setFilter_peat : (s.setFilter h x).peat = s.peat := rfl
@[simp] theorem setFilter_tab : (s.setFilter h x).tab = s.tab := rfl
@[simp] theorem setFilter_eng : (s.setFilter h x).eng = s.eng := rfl
@[simp] theorem setFilter_emb : (s.setFilter h x).emb = s.emb := rfl
@[simp] theorem setFilter_sns : (s.setFilter h x).sns = s.sns := rfl
@[simp] theorem setFilter_mate : (s.setFilter h x).mate = s.mate := rfl
@[simp] theorem setFilter_hif : (s.setFilter h x).hif = s.hif := rfl
@[simp] theorem setFilter_boot : (s.setFilter h x).boot = s.boot := rfl
@[simp] theorem setFilter_out : (s.setFilter h x).out = s.out := rfl
@[simp] theorem setFilter_free : (s.setFilter h x).free = s.free := rfl
@[simp] theorem setFilter_pending : (s.setFilter h x).pending = s.pending := rfl
end

/-! #### State.updRec -/

section
variable (s : State) (k : Nat) (f : RecSt → RecSt)
@[simp] theorem updRec_pages : (s.updRec k f).pages = s.pages := rfl
@[simp] theorem updRec_int : (s.updRec k f).int = s.int := rfl
@[simp] theorem updRec_cnt : (s.updRec k f).cnt = s.cnt := rfl
@[simp] theorem updRec_ldg : (s.updRec k f).ldg = s.ldg := rfl
@[simp] theorem updRec_time : (s.updRec k f).time = s.time := rfl
@[simp] theorem updRec_frames : (s.updRec k f).frames = s.frames := rfl
@[simp] theorem updRec_nextFrame : (s.updRec k f).nextFrame = s.nextFrame := rfl
@[simp] theorem updRec_buf : (s.updRec k f).buf = s.buf := rfl
@[simp] theorem updRec_queues : (s.updRec k f).queues = s.queues := rfl
@[simp] theorem updRec_ports : (s.updRec k f).ports = s.ports := rfl
@[simp] theorem updRec_gates : (s.updRec k f).gates = s.gates := rfl
@[simp] theorem updRec_shapers : (s.updRec k f).shapers = s.shapers := rfl
@[simp] theorem updRec_policers : (s.updRec k f).policers = s.policers := rfl
@[simp] theorem updRec_filters : (s.updRec k f).filters = s.filters := rfl
@[simp] theorem updRec_hampers : (s.updRec k f).hampers = s.hampers := rfl
@[simp] theorem updRec_mirrorCount : (s.updRec k f).mirrorCount = s.mirrorCount := rfl
@[simp] theorem updRec_wred : (s.updRec k f).wred = s.wred := rfl
@[simp] theorem updRec_qscWin : (s.updRec k f).qscWin = s.qscWin := rfl
@[simp] theorem updRec_arbs : (s.updRec k f).arbs = s.arbs := rfl
@[simp] theorem updRec_peat : (s.updRec k f).peat = s.peat := rfl
@[simp] theorem updRec_tab : (s.updRec k f).tab = s.tab := rfl
@[simp] theorem updRec_eng : (s.updRec k f).eng = s.eng := rfl
@[simp] theorem updRec_emb : (s.updRec k f).emb = s.emb := rfl
@[simp] theorem updRec_sns : (s.updRec k f).sns = s.sns := rfl
@[simp] theorem updRec_mate : (s.updRec k f).mate = s.mate := rfl
@[simp] theorem updRec_hif : (s.updRec k f).hif = s.hif := rfl
@[simp] theorem updRec_boot : (s.updRec k f).boot = s.boot := rfl
@[simp] theorem updRec_out : (s.updRec k f).out = s.out := rfl
@[simp] theorem updRec_free : (s.updRec k f).free = s.free := rfl
@[simp] theorem updRec_pending : (s.updRec k f).pending = s.pending := rfl
end

/-! #### State.setArb -/

section
variable (s : State) (a : Nat) (x : Arb)
@[simp] theorem setArb_reg : (s.setArb a x).reg = s.reg := rfl
@[simp] theorem setArb_pages : (s.setArb a x).pages = s.pages := rfl
@[simp] theorem setArb_int : (s.setArb a x).int = s.int := rfl
@[simp] theorem setArb_cnt : (s.setArb a x).cnt = s.cnt := rfl
@[simp] theorem setArb_ldg : (s.setArb a x).ldg = s.ldg := rfl
@[simp] theorem setArb_time : (s.setArb a x).time = s.time := rfl
@[simp] theorem setArb_frames : (s.setArb a x).frames = s.frames := rfl
@[simp] theorem setArb_nextFrame : (s.setArb a x).nextFrame = s.nextFrame := rfl
@[simp] theorem setArb_buf : (s.setArb a x).buf = s.buf := rfl
@[simp] theorem setArb_queues : (s.setArb a x).queues = s.queues := rfl
@[simp] theorem setArb_ports : (s.setArb a x).ports = s.ports := rfl
@[simp] theorem setArb_gates : (s.setArb a x).gates = s.gates := rfl
@[simp] theorem setArb_shapers : (s.setArb a x).shapers = s.shapers := rfl
@[simp] theorem setArb_policers : (s.setArb a x).policers = s.policers := rfl
@[simp] theorem setArb_filters : (s.setArb a x).filters = s.filters := rfl
@[simp] theorem setArb_hampers : (s.setArb a x).hampers = s.hampers := rfl
@[simp] theorem setArb_mirrorCount : (s.setArb a x).mirrorCount = s.mirrorCount := rfl
@[simp] theorem setArb_wred : (s.setArb a x).wred = s.wred := rfl
@[simp] theorem setArb_qscWin : (s.setArb a x).qscWin = s.qscWin := rfl
@[simp] theorem setArb_recov : (s.setArb a x).recov = s.recov := rfl
@[simp] theorem setArb_peat : (s.setArb a x).peat = s.peat := rfl
@[simp] theorem setArb_tab : (s.setArb a x).tab = s.tab := rfl
@[simp] theorem setArb_eng : (s.setArb a x).eng = s.eng := rfl
@[simp] theorem setArb_emb : (s.setArb a x).emb = s.emb := rfl
@[simp] theorem setArb_sns : (s.setArb a x).sns = s.sns := rfl
@[simp] theorem setArb_mate : (s.setArb a x).mate = s.mate := rfl
@[simp] theorem setArb_hif : (s.setArb a x).hif = s.hif := rfl
@[simp] theorem setArb_boot : (s.setArb a x).boot = s.boot := rfl
@[simp] theorem setArb_out : (s.setArb a x).out = s.out := rfl
@[simp] theorem setArb_free : (s.setArb a x).free = s.free := rfl
@[simp] theorem setArb_pending : (s.setArb a x).pending = s.pending := rfl
end

/-! #### State.setTurf -/

section
variable (s : State) (t : Nat) (x : Turf)
@[simp] theorem setTurf_reg : (s.setTurf t x).reg = s.reg := rfl
@[simp] theorem setTurf_pages : (s.setTurf t x).pages = s.pages := rfl
@[simp] theorem setTurf_int : (s.setTurf t x).int = s.int := rfl
@[simp] theorem setTurf_cnt : (s.setTurf t x).cnt = s.cnt := rfl
@[simp] theorem setTurf_ldg : (s.setTurf t x).ldg = s.ldg := rfl
@[simp] theorem setTurf_time : (s.setTurf t x).time = s.time := rfl
@[simp] theorem setTurf_frames : (s.setTurf t x).frames = s.frames := rfl
@[simp] theorem setTurf_nextFrame : (s.setTurf t x).nextFrame = s.nextFrame := rfl
@[simp] theorem setTurf_buf : (s.setTurf t x).buf = s.buf := rfl
@[simp] theorem setTurf_queues : (s.setTurf t x).queues = s.queues := rfl
@[simp] theorem setTurf_ports : (s.setTurf t x).ports = s.ports := rfl
@[simp] theorem setTurf_gates : (s.setTurf t x).gates = s.gates := rfl
@[simp] theorem setTurf_shapers : (s.setTurf t x).shapers = s.shapers := rfl
@[simp] theorem setTurf_policers : (s.setTurf t x).policers = s.policers := rfl
@[simp] theorem setTurf_filters : (s.setTurf t x).filters = s.filters := rfl
@[simp] theorem setTurf_hampers : (s.setTurf t x).hampers = s.hampers := rfl
@[simp] theorem setTurf_mirrorCount : (s.setTurf t x).mirrorCount = s.mirrorCount := rfl
@[simp] theorem setTurf_wred : (s.setTurf t x).wred = s.wred := rfl
@[simp] theorem setTurf_qscWin : (s.setTurf t x).qscWin = s.qscWin := rfl
@[simp] theorem setTurf_recov : (s.setTurf t x).recov = s.recov := rfl
@[simp] theorem setTurf_arbs : (s.setTurf t x).arbs = s.arbs := rfl
@[simp] theorem setTurf_tab : (s.setTurf t x).tab = s.tab := rfl
@[simp] theorem setTurf_eng : (s.setTurf t x).eng = s.eng := rfl
@[simp] theorem setTurf_emb : (s.setTurf t x).emb = s.emb := rfl
@[simp] theorem setTurf_sns : (s.setTurf t x).sns = s.sns := rfl
@[simp] theorem setTurf_mate : (s.setTurf t x).mate = s.mate := rfl
@[simp] theorem setTurf_hif : (s.setTurf t x).hif = s.hif := rfl
@[simp] theorem setTurf_boot : (s.setTurf t x).boot = s.boot := rfl
@[simp] theorem setTurf_out : (s.setTurf t x).out = s.out := rfl
@[simp] theorem setTurf_free : (s.setTurf t x).free = s.free := rfl
@[simp] theorem setTurf_pending : (s.setTurf t x).pending = s.pending := rfl
end

/-! #### setWin -/

section
variable (a : Nat) (d : List Byte) (s : State)
@[simp] theorem setWin_reg : (setWin a d s).reg = s.reg := rfl
@[simp] theorem setWin_pages : (setWin a d s).pages = s.pages := rfl
@[simp] theorem setWin_int : (setWin a d s).int = s.int := rfl
@[simp] theorem setWin_cnt : (setWin a d s).cnt = s.cnt := rfl
@[simp] theorem setWin_ldg : (setWin a d s).ldg = s.ldg := rfl
@[simp] theorem setWin_time : (setWin a d s).time = s.time := rfl
@[simp] theorem setWin_frames : (setWin a d s).frames = s.frames := rfl
@[simp] theorem setWin_nextFrame : (setWin a d s).nextFrame = s.nextFrame := rfl
@[simp] theorem setWin_buf : (setWin a d s).buf = s.buf := rfl
@[simp] theorem setWin_queues : (setWin a d s).queues = s.queues := rfl
@[simp] theorem setWin_ports : (setWin a d s).ports = s.ports := rfl
@[simp] theorem setWin_gates : (setWin a d s).gates = s.gates := rfl
@[simp] theorem setWin_shapers : (setWin a d s).shapers = s.shapers := rfl
@[simp] theorem setWin_policers : (setWin a d s).policers = s.policers := rfl
@[simp] theorem setWin_filters : (setWin a d s).filters = s.filters := rfl
@[simp] theorem setWin_hampers : (setWin a d s).hampers = s.hampers := rfl
@[simp] theorem setWin_mirrorCount : (setWin a d s).mirrorCount = s.mirrorCount := rfl
@[simp] theorem setWin_wred : (setWin a d s).wred = s.wred := rfl
@[simp] theorem setWin_qscWin : (setWin a d s).qscWin = s.qscWin := rfl
@[simp] theorem setWin_recov : (setWin a d s).recov = s.recov := rfl
@[simp] theorem setWin_arbs : (setWin a d s).arbs = s.arbs := rfl
@[simp] theorem setWin_tab : (setWin a d s).tab = s.tab := rfl
@[simp] theorem setWin_eng : (setWin a d s).eng = s.eng := rfl
@[simp] theorem setWin_emb : (setWin a d s).emb = s.emb := rfl
@[simp] theorem setWin_sns : (setWin a d s).sns = s.sns := rfl
@[simp] theorem setWin_mate : (setWin a d s).mate = s.mate := rfl
@[simp] theorem setWin_hif : (setWin a d s).hif = s.hif := rfl
@[simp] theorem setWin_boot : (setWin a d s).boot = s.boot := rfl
@[simp] theorem setWin_out : (setWin a d s).out = s.out := rfl
@[simp] theorem setWin_free : (setWin a d s).free = s.free := rfl
@[simp] theorem setWin_pending : (setWin a d s).pending = s.pending := rfl
end

/-! #### setGroups -/

section
variable (g : SMap Group) (s : State)
@[simp] theorem setGroups_reg : (setGroups g s).reg = s.reg := rfl
@[simp] theorem setGroups_pages : (setGroups g s).pages = s.pages := rfl
@[simp] theorem setGroups_int : (setGroups g s).int = s.int := rfl
@[simp] theorem setGroups_cnt : (setGroups g s).cnt = s.cnt := rfl
@[simp] theorem setGroups_ldg : (setGroups g s).ldg = s.ldg := rfl
@[simp] theorem setGroups_time : (setGroups g s).time = s.time := rfl
@[simp] theorem setGroups_frames : (setGroups g s).frames = s.frames := rfl
@[simp] theorem setGroups_nextFrame : (setGroups g s).nextFrame = s.nextFrame := rfl
@[simp] theorem setGroups_buf : (setGroups g s).buf = s.buf := rfl
@[simp] theorem setGroups_queues : (setGroups g s).queues = s.queues := rfl
@[simp] theorem setGroups_ports : (setGroups g s).ports = s.ports := rfl
@[simp] theorem setGroups_gates : (setGroups g s).gates = s.gates := rfl
@[simp] theorem setGroups_shapers : (setGroups g s).shapers = s.shapers := rfl
@[simp] theorem setGroups_policers : (setGroups g s).policers = s.policers := rfl
@[simp] theorem setGroups_filters : (setGroups g s).filters = s.filters := rfl
@[simp] theorem setGroups_hampers : (setGroups g s).hampers = s.hampers := rfl
@[simp] theorem setGroups_mirrorCount : (setGroups g s).mirrorCount = s.mirrorCount := rfl
@[simp] theorem setGroups_wred : (setGroups g s).wred = s.wred := rfl
@[simp] theorem setGroups_qscWin : (setGroups g s).qscWin = s.qscWin := rfl
@[simp] theorem setGroups_recov : (setGroups g s).recov = s.recov := rfl
@[simp] theorem setGroups_arbs : (setGroups g s).arbs = s.arbs := rfl
@[simp] theorem setGroups_peat : (setGroups g s).peat = s.peat := rfl
@[simp] theorem setGroups_eng : (setGroups g s).eng = s.eng := rfl
@[simp] theorem setGroups_emb : (setGroups g s).emb = s.emb := rfl
@[simp] theorem setGroups_sns : (setGroups g s).sns = s.sns := rfl
@[simp] theorem setGroups_mate : (setGroups g s).mate = s.mate := rfl
@[simp] theorem setGroups_hif : (setGroups g s).hif = s.hif := rfl
@[simp] theorem setGroups_boot : (setGroups g s).boot = s.boot := rfl
@[simp] theorem setGroups_out : (setGroups g s).out = s.out := rfl
@[simp] theorem setGroups_free : (setGroups g s).free = s.free := rfl
@[simp] theorem setGroups_pending : (setGroups g s).pending = s.pending := rfl
end

/-! #### queueSeq -/

section
variable (q : SeqReq) (s : State)
@[simp] theorem queueSeq_reg : (queueSeq q s).reg = s.reg := rfl
@[simp] theorem queueSeq_pages : (queueSeq q s).pages = s.pages := rfl
@[simp] theorem queueSeq_int : (queueSeq q s).int = s.int := rfl
@[simp] theorem queueSeq_cnt : (queueSeq q s).cnt = s.cnt := rfl
@[simp] theorem queueSeq_ldg : (queueSeq q s).ldg = s.ldg := rfl
@[simp] theorem queueSeq_time : (queueSeq q s).time = s.time := rfl
@[simp] theorem queueSeq_frames : (queueSeq q s).frames = s.frames := rfl
@[simp] theorem queueSeq_nextFrame : (queueSeq q s).nextFrame = s.nextFrame := rfl
@[simp] theorem queueSeq_buf : (queueSeq q s).buf = s.buf := rfl
@[simp] theorem queueSeq_queues : (queueSeq q s).queues = s.queues := rfl
@[simp] theorem queueSeq_ports : (queueSeq q s).ports = s.ports := rfl
@[simp] theorem queueSeq_gates : (queueSeq q s).gates = s.gates := rfl
@[simp] theorem queueSeq_shapers : (queueSeq q s).shapers = s.shapers := rfl
@[simp] theorem queueSeq_policers : (queueSeq q s).policers = s.policers := rfl
@[simp] theorem queueSeq_filters : (queueSeq q s).filters = s.filters := rfl
@[simp] theorem queueSeq_hampers : (queueSeq q s).hampers = s.hampers := rfl
@[simp] theorem queueSeq_mirrorCount : (queueSeq q s).mirrorCount = s.mirrorCount := rfl
@[simp] theorem queueSeq_wred : (queueSeq q s).wred = s.wred := rfl
@[simp] theorem queueSeq_qscWin : (queueSeq q s).qscWin = s.qscWin := rfl
@[simp] theorem queueSeq_recov : (queueSeq q s).recov = s.recov := rfl
@[simp] theorem queueSeq_arbs : (queueSeq q s).arbs = s.arbs := rfl
@[simp] theorem queueSeq_peat : (queueSeq q s).peat = s.peat := rfl
@[simp] theorem queueSeq_eng : (queueSeq q s).eng = s.eng := rfl
@[simp] theorem queueSeq_emb : (queueSeq q s).emb = s.emb := rfl
@[simp] theorem queueSeq_sns : (queueSeq q s).sns = s.sns := rfl
@[simp] theorem queueSeq_mate : (queueSeq q s).mate = s.mate := rfl
@[simp] theorem queueSeq_hif : (queueSeq q s).hif = s.hif := rfl
@[simp] theorem queueSeq_boot : (queueSeq q s).boot = s.boot := rfl
@[simp] theorem queueSeq_out : (queueSeq q s).out = s.out := rfl
@[simp] theorem queueSeq_free : (queueSeq q s).free = s.free := rfl
@[simp] theorem queueSeq_pending : (queueSeq q s).pending = s.pending := rfl
end

/-! #### State.setCtx -/

section
variable (s : State) (e c : Nat) (x : Ctx)
@[simp] theorem setCtx_reg : (s.setCtx e c x).reg = s.reg := by unfold State.setCtx; dsimp only; split <;> rfl
@[simp] theorem setCtx_int : (s.setCtx e c x).int = s.int := by unfold State.setCtx; dsimp only; split <;> rfl
@[simp] theorem setCtx_cnt : (s.setCtx e c x).cnt = s.cnt := by unfold State.setCtx; dsimp only; split <;> rfl
@[simp] theorem setCtx_ldg : (s.setCtx e c x).ldg = s.ldg := by unfold State.setCtx; dsimp only; split <;> rfl
@[simp] theorem setCtx_time : (s.setCtx e c x).time = s.time := by unfold State.setCtx; dsimp only; split <;> rfl
@[simp] theorem setCtx_frames : (s.setCtx e c x).frames = s.frames := by unfold State.setCtx; dsimp only; split <;> rfl
@[simp] theorem setCtx_nextFrame : (s.setCtx e c x).nextFrame = s.nextFrame := by unfold State.setCtx; dsimp only; split <;> rfl
@[simp] theorem setCtx_buf : (s.setCtx e c x).buf = s.buf := by unfold State.setCtx; dsimp only; split <;> rfl
@[simp] theorem setCtx_queues : (s.setCtx e c x).queues = s.queues := by unfold State.setCtx; dsimp only; split <;> rfl
@[simp] theorem setCtx_ports : (s.setCtx e c x).ports = s.ports := by unfold State.setCtx; dsimp only; split <;> rfl
@[simp] theorem setCtx_gates : (s.setCtx e c x).gates = s.gates := by unfold State.setCtx; dsimp only; split <;> rfl
@[simp] theorem setCtx_shapers : (s.setCtx e c x).shapers = s.shapers := by unfold State.setCtx; dsimp only; split <;> rfl
@[simp] theorem setCtx_policers : (s.setCtx e c x).policers = s.policers := by unfold State.setCtx; dsimp only; split <;> rfl
@[simp] theorem setCtx_filters : (s.setCtx e c x).filters = s.filters := by unfold State.setCtx; dsimp only; split <;> rfl
@[simp] theorem setCtx_hampers : (s.setCtx e c x).hampers = s.hampers := by unfold State.setCtx; dsimp only; split <;> rfl
@[simp] theorem setCtx_mirrorCount : (s.setCtx e c x).mirrorCount = s.mirrorCount := by unfold State.setCtx; dsimp only; split <;> rfl
@[simp] theorem setCtx_wred : (s.setCtx e c x).wred = s.wred := by unfold State.setCtx; dsimp only; split <;> rfl
@[simp] theorem setCtx_qscWin : (s.setCtx e c x).qscWin = s.qscWin := by unfold State.setCtx; dsimp only; split <;> rfl
@[simp] theorem setCtx_recov : (s.setCtx e c x).recov = s.recov := by unfold State.setCtx; dsimp only; split <;> rfl
@[simp] theorem setCtx_arbs : (s.setCtx e c x).arbs = s.arbs := by unfold State.setCtx; dsimp only; split <;> rfl
@[simp] theorem setCtx_peat : (s.setCtx e c x).peat = s.peat := by unfold State.setCtx; dsimp only; split <;> rfl
@[simp] theorem setCtx_tab : (s.setCtx e c x).tab = s.tab := by unfold State.setCtx; dsimp only; split <;> rfl
@[simp] theorem setCtx_emb : (s.setCtx e c x).emb = s.emb := by unfold State.setCtx; dsimp only; split <;> rfl
@[simp] theorem setCtx_sns : (s.setCtx e c x).sns = s.sns := by unfold State.setCtx; dsimp only; split <;> rfl
@[simp] theorem setCtx_mate : (s.setCtx e c x).mate = s.mate := by unfold State.setCtx; dsimp only; split <;> rfl
@[simp] theorem setCtx_hif : (s.setCtx e c x).hif = s.hif := by unfold State.setCtx; dsimp only; split <;> rfl
@[simp] theorem setCtx_boot : (s.setCtx e c x).boot = s.boot := by unfold State.setCtx; dsimp only; split <;> rfl
@[simp] theorem setCtx_out : (s.setCtx e c x).out = s.out := by unfold State.setCtx; dsimp only; split <;> rfl
@[simp] theorem setCtx_free : (s.setCtx e c x).free = s.free := by unfold State.setCtx; dsimp only; split <;> rfl
@[simp] theorem setCtx_pending : (s.setCtx e c x).pending = s.pending := by unfold State.setCtx; dsimp only; split <;> rfl
end

/-! #### State.updHb -/

section
variable (s : State) (path : Nat) (f : HbPath → HbPath)
@[simp] theorem updHb_reg : (s.updHb path f).reg = s.reg := by unfold State.updHb; split <;> rfl
@[simp] theorem updHb_pages : (s.updHb path f).pages = s.pages := by unfold State.updHb; split <;> rfl
@[simp] theorem updHb_int : (s.updHb path f).int = s.int := by unfold State.updHb; split <;> rfl
@[simp] theorem updHb_cnt : (s.updHb path f).cnt = s.cnt := by unfold State.updHb; split <;> rfl
@[simp] theorem updHb_ldg : (s.updHb path f).ldg = s.ldg := by unfold State.updHb; split <;> rfl
@[simp] theorem updHb_time : (s.updHb path f).time = s.time := by unfold State.updHb; split <;> rfl
@[simp] theorem updHb_frames : (s.updHb path f).frames = s.frames := by unfold State.updHb; split <;> rfl
@[simp] theorem updHb_nextFrame : (s.updHb path f).nextFrame = s.nextFrame := by unfold State.updHb; split <;> rfl
@[simp] theorem updHb_buf : (s.updHb path f).buf = s.buf := by unfold State.updHb; split <;> rfl
@[simp] theorem updHb_queues : (s.updHb path f).queues = s.queues := by unfold State.updHb; split <;> rfl
@[simp] theorem updHb_ports : (s.updHb path f).ports = s.ports := by unfold State.updHb; split <;> rfl
@[simp] theorem updHb_gates : (s.updHb path f).gates = s.gates := by unfold State.updHb; split <;> rfl
@[simp] theorem updHb_shapers : (s.updHb path f).shapers = s.shapers := by unfold State.updHb; split <;> rfl
@[simp] theorem updHb_policers : (s.updHb path f).policers = s.policers := by unfold State.updHb; split <;> rfl
@[simp] theorem updHb_filters : (s.updHb path f).filters = s.filters := by unfold State.updHb; split <;> rfl
@[simp] theorem updHb_hampers : (s.updHb path f).hampers = s.hampers := by unfold State.updHb; split <;> rfl
@[simp] theorem updHb_mirrorCount : (s.updHb path f).mirrorCount = s.mirrorCount := by unfold State.updHb; split <;> rfl
@[simp] theorem updHb_wred : (s.updHb path f).wred = s.wred := by unfold State.updHb; split <;> rfl
@[simp] theorem updHb_qscWin : (s.updHb path f).qscWin = s.qscWin := by unfold State.updHb; split <;> rfl
@[simp] theorem updHb_recov : (s.updHb path f).recov = s.recov := by unfold State.updHb; split <;> rfl
@[simp] theorem updHb_arbs : (s.updHb path f).arbs = s.arbs := by unfold State.updHb; split <;> rfl
@[simp] theorem updHb_peat : (s.updHb path f).peat = s.peat := by unfold State.updHb; split <;> rfl
@[simp] theorem updHb_tab : (s.updHb path f).tab = s.tab := by unfold State.updHb; split <;> rfl
@[simp] theorem updHb_eng : (s.updHb path f).eng = s.eng := by unfold State.updHb; split <;> rfl
@[simp] theorem updHb_emb : (s.updHb path f).emb = s.emb := by unfold State.updHb; split <;> rfl
@[simp] theorem updHb_sns : (s.updHb path f).sns = s.sns := by unfold State.updHb; split <;> rfl
@[simp] theorem updHb_hif : (s.updHb path f).hif = s.hif := by unfold State.updHb; split <;> rfl
@[simp] theorem updHb_boot : (s.updHb path f).boot = s.boot := by unfold State.updHb; split <;> rfl
@[simp] theorem updHb_out : (s.updHb path f).out = s.out := by unfold State.updHb; split <;> rfl
@[simp] theorem updHb_free : (s.updHb path f).free = s.free := by unfold State.updHb; split <;> rfl
@[simp] theorem updHb_pending : (s.updHb path f).pending = s.pending := by unfold State.updHb; split <;> rfl
end

/-! #### setFlash -/

section
variable (a : Nat) (l : List Byte) (s : State)
@[simp] theorem setFlash_reg : (setFlash a l s).reg = s.reg := rfl
@[simp] theorem setFlash_pages : (setFlash a l s).pages = s.pages := rfl
@[simp] theorem setFlash_int : (setFlash a l s).int = s.int := rfl
@[simp] theorem setFlash_cnt : (setFlash a l s).cnt = s.cnt := rfl
@[simp] theorem setFlash_ldg : (setFlash a l s).ldg = s.ldg := rfl
@[simp] theorem setFlash_time : (setFlash a l s).time = s.time := rfl
@[simp] theorem setFlash_frames : (setFlash a l s).frames = s.frames := rfl
@[simp] theorem setFlash_nextFrame : (setFlash a l s).nextFrame = s.nextFrame := rfl
@[simp] theorem setFlash_buf : (setFlash a l s).buf = s.buf := rfl
@[simp] theorem setFlash_queues : (setFlash a l s).queues = s.queues := rfl
@[simp] theorem setFlash_ports : (setFlash a l s).ports = s.ports := rfl
@[simp] theorem setFlash_gates : (setFlash a l s).gates = s.gates := rfl
@[simp] theorem setFlash_shapers : (setFlash a l s).shapers = s.shapers := rfl
@[simp] theorem setFlash_policers : (setFlash a l s).policers = s.policers := rfl
@[simp] theorem setFlash_filters : (setFlash a l s).filters = s.filters := rfl
@[simp] theorem setFlash_hampers : (setFlash a l s).hampers = s.hampers := rfl
@[simp] theorem setFlash_mirrorCount : (setFlash a l s).mirrorCount = s.mirrorCount := rfl
@[simp] theorem setFlash_wred : (setFlash a l s).wred = s.wred := rfl
@[simp] theorem setFlash_qscWin : (setFlash a l s).qscWin = s.qscWin := rfl
@[simp] theorem setFlash_recov : (setFlash a l s).recov = s.recov := rfl
@[simp] theorem setFlash_arbs : (setFlash a l s).arbs = s.arbs := rfl
@[simp] theorem setFlash_peat : (setFlash a l s).peat = s.peat := rfl
@[simp] theorem setFlash_tab : (setFlash a l s).tab = s.tab := rfl
@[simp] theorem setFlash_eng : (setFlash a l s).eng = s.eng := rfl
@[simp] theorem setFlash_emb : (setFlash a l s).emb = s.emb := rfl
@[simp] theorem setFlash_sns : (setFlash a l s).sns = s.sns := rfl
@[simp] theorem setFlash_mate : (setFlash a l s).mate = s.mate := rfl
@[simp] theorem setFlash_hif : (setFlash a l s).hif = s.hif := rfl
@[simp] theorem setFlash_out : (setFlash a l s).out = s.out := rfl
@[simp] theorem setFlash_free : (setFlash a l s).free = s.free := rfl
@[simp] theorem setFlash_pending : (setFlash a l s).pending = s.pending := rfl
end

/-! #### setFlashOp -/

section
variable (o : Option FlashOp) (s : State)
@[simp] theorem setFlashOp_pages : (setFlashOp o s).pages = s.pages := rfl
@[simp] theorem setFlashOp_int : (setFlashOp o s).int = s.int := rfl
@[simp] theorem setFlashOp_cnt : (setFlashOp o s).cnt = s.cnt := rfl
@[simp] theorem setFlashOp_ldg : (setFlashOp o s).ldg = s.ldg := rfl
@[simp] theorem setFlashOp_time : (setFlashOp o s).time = s.time := rfl
@[simp] theorem setFlashOp_frames : (setFlashOp o s).frames = s.frames := rfl
@[simp] theorem setFlashOp_nextFrame : (setFlashOp o s).nextFrame = s.nextFrame := rfl
@[simp] theorem setFlashOp_buf : (setFlashOp o s).buf = s.buf := rfl
@[simp] theorem setFlashOp_queues : (setFlashOp o s).queues = s.queues := rfl
@[simp] theorem setFlashOp_ports : (setFlashOp o s).ports = s.ports := rfl
@[simp] theorem setFlashOp_gates : (setFlashOp o s).gates = s.gates := rfl
@[simp] theorem setFlashOp_shapers : (setFlashOp o s).shapers = s.shapers := rfl
@[simp] theorem setFlashOp_policers : (setFlashOp o s).policers = s.policers := rfl
@[simp] theorem setFlashOp_filters : (setFlashOp o s).filters = s.filters := rfl
@[simp] theorem setFlashOp_hampers : (setFlashOp o s).hampers = s.hampers := rfl
@[simp] theorem setFlashOp_mirrorCount : (setFlashOp o s).mirrorCount = s.mirrorCount := rfl
@[simp] theorem setFlashOp_wred : (setFlashOp o s).wred = s.wred := rfl
@[simp] theorem setFlashOp_qscWin : (setFlashOp o s).qscWin = s.qscWin := rfl
@[simp] theorem setFlashOp_recov : (setFlashOp o s).recov = s.recov := rfl
@[simp] theorem setFlashOp_arbs : (setFlashOp o s).arbs = s.arbs := rfl
@[simp] theorem setFlashOp_peat : (setFlashOp o s).peat = s.peat := rfl
@[simp] theorem setFlashOp_tab : (setFlashOp o s).tab = s.tab := rfl
@[simp] theorem setFlashOp_eng : (setFlashOp o s).eng = s.eng := rfl
@[simp] theorem setFlashOp_emb : (setFlashOp o s).emb = s.emb := rfl
@[simp] theorem setFlashOp_sns : (setFlashOp o s).sns = s.sns := rfl
@[simp] theorem setFlashOp_mate : (setFlashOp o s).mate = s.mate := rfl
@[simp] theorem setFlashOp_hif : (setFlashOp o s).hif = s.hif := rfl
@[simp] theorem setFlashOp_out : (setFlashOp o s).out = s.out := rfl
@[simp] theorem setFlashOp_free : (setFlashOp o s).free = s.free := rfl
@[simp] theorem setFlashOp_pending : (setFlashOp o s).pending = s.pending := rfl
end

/-! #### setToutS -/

section
variable (n : Nat) (c : Sched) (s : State)
@[simp] theorem setToutS_reg : (setToutS n c s).reg = s.reg := rfl
@[simp] theorem setToutS_pages : (setToutS n c s).pages = s.pages := rfl
@[simp] theorem setToutS_int : (setToutS n c s).int = s.int := rfl
@[simp] theorem setToutS_cnt : (setToutS n c s).cnt = s.cnt := rfl
@[simp] theorem setToutS_ldg : (setToutS n c s).ldg = s.ldg := rfl
@[simp] theorem setToutS_frames : (setToutS n c s).frames = s.frames := rfl
@[simp] theorem setToutS_nextFrame : (setToutS n c s).nextFrame = s.nextFrame := rfl
@[simp] theorem setToutS_buf : (setToutS n c s).buf = s.buf := rfl
@[simp] theorem setToutS_queues : (setToutS n c s).queues = s.queues := rfl
@[simp] theorem setToutS_ports : (setToutS n c s).ports = s.ports := rfl
@[simp] theorem setToutS_gates : (setToutS n c s).gates = s.gates := rfl
@[simp] theorem setToutS_shapers : (setToutS n c s).shapers = s.shapers := rfl
@[simp] theorem setToutS_policers : (setToutS n c s).policers = s.policers := rfl
@[simp] theorem setToutS_filters : (setToutS n c s).filters = s.filters := rfl
@[simp] theorem setToutS_hampers : (setToutS n c s).hampers = s.hampers := rfl
@[simp] theorem setToutS_mirrorCount : (setToutS n c s).mirrorCount = s.mirrorCount := rfl
@[simp] theorem setToutS_wred : (setToutS n c s).wred = s.wred := rfl
@[simp] theorem setToutS_qscWin : (setToutS n c s).qscWin = s.qscWin := rfl
@[simp] theorem setToutS_recov : (setToutS n c s).recov = s.recov := rfl
@[simp] theorem setToutS_arbs : (setToutS n c s).arbs = s.arbs := rfl
@[simp] theorem setToutS_peat : (setToutS n c s).peat = s.peat := rfl
@[simp] theorem setToutS_tab : (setToutS n c s).tab = s.tab := rfl
@[simp] theorem setToutS_eng : (setToutS n c s).eng = s.eng := rfl
@[simp] theorem setToutS_emb : (setToutS n c s).emb = s.emb := rfl
@[simp] theorem setToutS_sns : (setToutS n c s).sns = s.sns := rfl
@[simp] theorem setToutS_mate : (setToutS n c s).mate = s.mate := rfl
@[simp] theorem setToutS_hif : (setToutS n c s).hif = s.hif := rfl
@[simp] theorem setToutS_boot : (setToutS n c s).boot = s.boot := rfl
@[simp] theorem setToutS_out : (setToutS n c s).out = s.out := rfl
@[simp] theorem setToutS_free : (setToutS n c s).free = s.free := rfl
@[simp] theorem setToutS_pending : (setToutS n c s).pending = s.pending := rfl
end

/-! #### setTrigS -/

section
variable (n : Nat) (c : Sched) (s : State)
@[simp] theorem setTrigS_reg : (setTrigS n c s).reg = s.reg := rfl
@[simp] theorem setTrigS_pages : (setTrigS n c s).pages = s.pages := rfl
@[simp] theorem setTrigS_int : (setTrigS n c s).int = s.int := rfl
@[simp] theorem setTrigS_cnt : (setTrigS n c s).cnt = s.cnt := rfl
@[simp] theorem setTrigS_ldg : (setTrigS n c s).ldg = s.ldg := rfl
@[simp] theorem setTrigS_frames : (setTrigS n c s).frames = s.frames := rfl
@[simp] theorem setTrigS_nextFrame : (setTrigS n c s).nextFrame = s.nextFrame := rfl
@[simp] theorem setTrigS_buf : (setTrigS n c s).buf = s.buf := rfl
@[simp] theorem setTrigS_queues : (setTrigS n c s).queues = s.queues := rfl
@[simp] theorem setTrigS_ports : (setTrigS n c s).ports = s.ports := rfl
@[simp] theorem setTrigS_gates : (setTrigS n c s).gates = s.gates := rfl
@[simp] theorem setTrigS_shapers : (setTrigS n c s).shapers = s.shapers := rfl
@[simp] theorem setTrigS_policers : (setTrigS n c s).policers = s.policers := rfl
@[simp] theorem setTrigS_filters : (setTrigS n c s).filters = s.filters := rfl
@[simp] theorem setTrigS_hampers : (setTrigS n c s).hampers = s.hampers := rfl
@[simp] theorem setTrigS_mirrorCount : (setTrigS n c s).mirrorCount = s.mirrorCount := rfl
@[simp] theorem setTrigS_wred : (setTrigS n c s).wred = s.wred := rfl
@[simp] theorem setTrigS_qscWin : (setTrigS n c s).qscWin = s.qscWin := rfl
@[simp] theorem setTrigS_recov : (setTrigS n c s).recov = s.recov := rfl
@[simp] theorem setTrigS_arbs : (setTrigS n c s).arbs = s.arbs := rfl
@[simp] theorem setTrigS_peat : (setTrigS n c s).peat = s.peat := rfl
@[simp] theorem setTrigS_tab : (setTrigS n c s).tab = s.tab := rfl
@[simp] theorem setTrigS_eng : (setTrigS n c s).eng = s.eng := rfl
@[simp] theorem setTrigS_emb : (setTrigS n c s).emb = s.emb := rfl
@[simp] theorem setTrigS_sns : (setTrigS n c s).sns = s.sns := rfl
@[simp] theorem setTrigS_mate : (setTrigS n c s).mate = s.mate := rfl
@[simp] theorem setTrigS_hif : (setTrigS n c s).hif = s.hif := rfl
@[simp] theorem setTrigS_boot : (setTrigS n c s).boot = s.boot := rfl
@[simp] theorem setTrigS_out : (setTrigS n c s).out = s.out := rfl
@[simp] theorem setTrigS_free : (setTrigS n c s).free = s.free := rfl
@[simp] theorem setTrigS_pending : (setTrigS n c s).pending = s.pending := rfl
end

/-! #### setTout -/

section
variable (n : Nat) (v : Bool) (s : State)
@[simp] theorem setTout_reg : (setTout n v s).reg = s.reg := rfl
@[simp] theorem setTout_pages : (setTout n v s).pages = s.pages := rfl
@[simp] theorem setTout_int : (setTout n v s).int = s.int := rfl
@[simp] theorem setTout_cnt : (setTout n v s).cnt = s.cnt := rfl
@[simp] theorem setTout_ldg : (setTout n v s).ldg = s.ldg := rfl
@[simp] theorem setTout_frames : (setTout n v s).frames = s.frames := rfl
@[simp] theorem setTout_nextFrame : (setTout n v s).nextFrame = s.nextFrame := rfl
@[simp] theorem setTout_buf : (setTout n v s).buf = s.buf := rfl
@[simp] theorem setTout_queues : (setTout n v s).queues = s.queues := rfl
@[simp] theorem setTout_ports : (setTout n v s).ports = s.ports := rfl
@[simp] theorem setTout_gates : (setTout n v s).gates = s.gates := rfl
@[simp] theorem setTout_shapers : (setTout n v s).shapers = s.shapers := rfl
@[simp] theorem setTout_policers : (setTout n v s).policers = s.policers := rfl
@[simp] theorem setTout_filters : (setTout n v s).filters = s.filters := rfl
@[simp] theorem setTout_hampers : (setTout n v s).hampers = s.hampers := rfl
@[simp] theorem setTout_mirrorCount : (setTout n v s).mirrorCount = s.mirrorCount := rfl
@[simp] theorem setTout_wred : (setTout n v s).wred = s.wred := rfl
@[simp] theorem setTout_qscWin : (setTout n v s).qscWin = s.qscWin := rfl
@[simp] theorem setTout_recov : (setTout n v s).recov = s.recov := rfl
@[simp] theorem setTout_arbs : (setTout n v s).arbs = s.arbs := rfl
@[simp] theorem setTout_peat : (setTout n v s).peat = s.peat := rfl
@[simp] theorem setTout_tab : (setTout n v s).tab = s.tab := rfl
@[simp] theorem setTout_eng : (setTout n v s).eng = s.eng := rfl
@[simp] theorem setTout_emb : (setTout n v s).emb = s.emb := rfl
@[simp] theorem setTout_sns : (setTout n v s).sns = s.sns := rfl
@[simp] theorem setTout_mate : (setTout n v s).mate = s.mate := rfl
@[simp] theorem setTout_hif : (setTout n v s).hif = s.hif := rfl
@[simp] theorem setTout_boot : (setTout n v s).boot = s.boot := rfl
@[simp] theorem setTout_out : (setTout n v s).out = s.out := rfl
@[simp] theorem setTout_free : (setTout n v s).free = s.free := rfl
@[simp] theorem setTout_pending : (setTout n v s).pending = s.pending := rfl
end

end Sys2Proof.Machine
end

