-- ==== Sys2Proof/Laws/Ops.lean ====
section
/-! SUPPORT. What the shared operations over registers and page headers do: fields and their reads, the check order of R56, commands, writes of registers
and of table entries, line sources and counters. -/
namespace Sys2Proof.Machine

/-! ### Fields -/

@[simp] theorem rd_wr_same (s : State) (p : Nat) (f : Field) (v i j : Nat) : (s.wr p f v i j).rd p f i j = v % 2 ^ (f.hi - f.lo + 1) := by
  simp [State.rd, State.wr]

theorem rd_wr_other {p q : Nat} {f g : Field} {i j k l : Nat} (s : State) (v : Nat) (h : fkey q g k l ≠ fkey p f i j) :
    (s.wr p f v i j).rd q g k l = s.rd q g k l := by
  have := SMap.find?_put_other f.reset s.reg.op (v % 2 ^ (f.hi - f.lo + 1)) h
  simp [State.rd, State.wr, SMap.find?_erase_other _ h, SMap.get_eq_find?, this]

/-- A read depends on the register file alone. -/
theorem rd_of_reg {s t : State} (h : t.reg = s.reg) (p : Nat) (f : Field) (i j : Nat) : t.rd p f i j = s.rd p f i j := by
  simp only [State.rd, h]

/-- A page's state and header depend on the headers alone. -/
theorem inState_of_pages {s t : State} (h : t.pages = s.pages) (p : Nat) (b : BlkState) : t.inState p b = s.inState p b := by
  unfold State.inState State.page; rw [h]

@[simp] theorem page_updPage_same (s : State) (p : Nat) (f : Page → Page) : (s.updPage p f).page p = f (s.page p) := SMap.get_upd_same ..

theorem page_updPage_other (s : State) {p q : Nat} (f : Page → Page) (h : q ≠ p) : (s.updPage p f).page q = s.page q := SMap.get_upd_other _ _ _ h

/-- What recording a result leaves in the header (R58), and that the page keeps its state, lock and command. -/
theorem page_record (p ag idx op code : Nat) (s : State) :
    ((record p ag idx op code s).page p).resCode = code ∧ ((record p ag idx op code s).page p).resAgent = ag
      ∧ ((record p ag idx op code s).page p).resOp = op ∧ ((record p ag idx op code s).page p).resIndex = idx
      ∧ ((record p ag idx op code s).page p).state = (s.page p).state ∧ ((record p ag idx op code s).page p).lock = (s.page p).lock
      ∧ ((record p ag idx op code s).page p).cmd = (s.page p).cmd := by
  simp [record]

/-! ### The checks of R56 -/

theorem firstFail_done (locked range state busy : Bool) :
    firstFail locked range state busy = rDONE ↔ locked = false ∧ range = true ∧ state = true ∧ busy = false := by
  cases locked <;> cases range <;> cases state <;> cases busy <;> decide

/-- When a command is taken: nobody else holds the lock, its argument and the state are right, no posted write waits and no command runs. -/
theorem cmdCode_done (s : State) (p ag : Nat) (r st : Bool) :
    cmdCode s p ag r st = rDONE ↔ lockedBy s p ag = false ∧ r = true ∧ st = true ∧ (s.page p).posted.isEmpty = true ∧ (s.page p).cmd = none := by
  rw [cmdCode, firstFail_done]
  cases (s.page p).posted.isEmpty <;> cases (s.page p).cmd <;> simp

/-- A command answers its body when it is taken, and otherwise changes the header alone. -/
theorem command_eq (p ag op : Nat) (r st : Bool) (body : State → State × Nat) (s : State) :
    (cmdCode s p ag r st = rDONE → command p ag op r st body s = record p ag 4 op (body s).2 (body s).1)
      ∧ (cmdCode s p ag r st ≠ rDONE → command p ag op r st body s = record p ag 4 op (cmdCode s p ag r st) s) := by
  constructor <;> intro h <;> simp [command, h]

/-- A long command starts when it is taken, and otherwise changes the header alone. -/
theorem commandLong_eq (p ag op arg : Nat) (r st : Bool) (ops : List Nat) (body : State → State) (s : State) :
    (cmdCode s p ag r st = rDONE → commandLong p ag op arg r st ops body s = (body s).updPage p (fun h => { h with cmd := some ⟨op, arg, ag, ops⟩ }))
      ∧ (cmdCode s p ag r st ≠ rDONE → commandLong p ag op arg r st ops body s = record p ag 4 op (cmdCode s p ag r st) s) := by
  constructor <;> intro h <;> simp [commandLong, h]

/-- Whatever a command does, it does through its body and the page's header. -/
theorem command_frame (P : State → State → Prop) (h0 : ∀ s, P s s) (hr : ∀ s t p ag idx op c, P s t → P s (record p ag idx op c t))
    (p ag op : Nat) (r st : Bool) (body : State → State × Nat) (s : State) (hb : P s (body s).1) : P s (command p ag op r st body s) := by
  unfold command
  dsimp only
  split
  · exact hr _ _ _ _ _ _ _ hb
  · exact hr _ _ _ _ _ _ _ (h0 s)

/-- A register's write that passes its checks stores its fields, has its effect and records DONE. -/
theorem regGate_done {p off ag v : Nat} {w : View} {xr xs xb : List NewVal → Bool} {body : List NewVal → State → State} {s : State} (hp : pageBlk p ≠ none)
    (h : gateCode s p off w ag v xr xs xb = rDONE) :
    regGate p off w ag v xr xs xb body s = record p ag (off / 4) 0xFF rDONE (body (gateVals s p off w v) s) := by
  simp only [regGate, gateVals]
  cases hb : pageBlk p with
  | none => exact absurd hb hp
  | some b => simp [h]

theorem regWrite_done {p off ag v : Nat} {w : View} {xr xs xb : List NewVal → Bool} {eff : List NewVal → State → State} {s : State} (hp : pageBlk p ≠ none)
    (h : gateCode s p off w ag v xr xs xb = rDONE) :
    regWrite p off w ag v xr xs xb eff s
      = record p ag (off / 4) 0xFF rDONE (eff (gateVals s p off w v) ((gateVals s p off w v).foldl (storeVal p ag) s)) := regGate_done hp h

/-- A register's write that fails a check changes the page headers alone. -/
theorem regGate_refused {p off ag v : Nat} {w : View} {xr xs xb : List NewVal → Bool} {body : List NewVal → State → State} {s : State}
    (h : gateCode s p off w ag v xr xs xb ≠ rDONE) : regGate p off w ag v xr xs xb body s = { s with pages := (regGate p off w ag v xr xs xb body s).pages } := by
  unfold regGate
  split
  · rfl
  · dsimp only
    rw [if_neg h]
    split <;> rfl

/-- A write of a table entry: its fields and effect when it passes, and the header alone when it does not. -/
theorem entryWrite_eq (p e : Nat) (b : Blk) (off addr ag v : Nat) (xr xs : List NewVal → Bool) (eff : List NewVal → State → State) (s : State) :
    (entryCode s p e b off ag v xr xs = rDONE → entryWrite p e b off addr ag v xr xs eff s
        = windowResult p ag addr rDONE (eff (entryVals s e b off v) ((entryVals s e b off v).foldl (storeVal e ag) s)))
      ∧ (entryCode s p e b off ag v xr xs ≠ rDONE → entryWrite p e b off addr ag v xr xs eff s = windowResult p ag addr (entryCode s p e b off ag v xr xs) s) := by
  constructor <;> intro h <;> simp [entryWrite, h]

/-- Storing a value writes the field, its shadow or the page's posted writes, by its commit class. -/
theorem storeVal_frame (p ag : Nat) (s : State) (x : NewVal) :
    storeVal p ag s x = { s with reg := (storeVal p ag s x).reg, pages := (storeVal p ag s x).pages } := by
  unfold storeVal
  split <;> first | rfl | (split <;> rfl)

/-! ### Sources and counters (R527, R551) -/

theorem src_updSrc (s : State) (n m : Nat) (f : Src → Src) : (s.updSrc n f).src m = if m = n then f (s.src n) else s.src m := by
  split
  · subst m; exact SMap.get_upd_same ..
  · exact SMap.get_upd_other _ _ _ ‹_›

theorem srcEvent_frame (n : Nat) (s : State) : srcEvent n s = { s with int := { s.int with src := (srcEvent n s).int.src } } := by
  unfold srcEvent; split <;> rfl

theorem srcFall_frame (n : Nat) (s : State) : srcFall n s = { s with int := { s.int with src := (srcFall n s).int.src } } := rfl

theorem srcRise_frame (n : Nat) (s : State) : srcRise n s = { s with int := { s.int with src := (srcRise n s).int.src } } := by
  unfold srcRise
  rw [srcEvent_frame]
  split
  · rw [srcFall_frame]; rfl
  · rfl

/-- A change of a level source's conditions changes, beside the conditions, the sources alone. -/
theorem withLine_frame (n : Nat) (f : State → State) (s : State) : withLine n f s = { f s with int := { (f s).int with src := (withLine n f s).int.src } } := by
  unfold withLine; split
  · exact srcRise_frame ..
  · rfl

theorem counter_setCounter (s : State) (i v j : Nat) : (setCounter i v s).counter j = if j = i then v % 2 ^ 64 else s.counter j := by
  split
  · subst j; exact SMap.get_put_same ..
  · exact SMap.get_put_other _ _ _ ‹_›

/-- Counters stand while the LDG block is in RESET. -/
theorem countBy_reset (i n : Nat) (s : State) (h : s.inState pLDG .reset = true) : countBy i n s = s := by
  unfold countBy; simp only [h, if_true]

theorem countBy_val (i n : Nat) (s : State) (h : s.inState pLDG .reset = false) : (countBy i n s).cnt.val = (setCounter i (s.counter i + n) s).cnt.val := by
  unfold countBy; simp only [h, Bool.false_eq_true, if_false]; split
  · rfl
  · rw [withLine_frame]

theorem countBy_ovf (i n : Nat) (s : State) (h : s.inState pLDG .reset = false) :
    (countBy i n s).cnt.ovf = if s.counter i + n < 2 ^ 64 then s.cnt.ovf else s.cnt.ovf.insert i true := by
  unfold countBy; simp only [h, Bool.false_eq_true, if_false]; split
  · rfl
  · rw [withLine_frame]; rfl

theorem counter_countBy (i n j : Nat) (s : State) (h : s.inState pLDG .reset = false) :
    (countBy i n s).counter j = if j = i then (s.counter i + n) % 2 ^ 64 else s.counter j := by
  rw [← counter_setCounter]; simp only [State.counter, countBy_val _ _ _ h]

theorem countBy_frame (i n : Nat) (s : State) : countBy i n s = { s with cnt := (countBy i n s).cnt, int := { s.int with src := (countBy i n s).int.src } } := by
  unfold countBy; dsimp only; split
  · rfl
  split
  · rfl
  · rw [withLine_frame]; rfl

theorem has_insert (m : SMap Bool) (i j : Nat) (v : Bool) : (m.insert i v).has j = (decide (j = i) || m.has j) := by
  by_cases h : j = i
  · subst h; simp [SMap.has, SMap.insert]
  · have := SMap.find?_insert_other m v h
    simp only [SMap.find?] at this
    simp [SMap.has, this, h]

end Sys2Proof.Machine
end

