-- ==== Sys2Proof/Laws/Engine.lean ====
section
/-! SUPPORT. The engines: what the issue of a micro-instruction answers, and what its retirement leaves alone. -/
namespace Sys2Proof.Machine

/-- The issue of a micro-instruction that may issue is its body's, on the operands of `Issues`, then the captures that fall due. -/
theorem issue_eq {s : State} {e c op : Nat} {mi : MI} {a b : Nat} {x : Ctx} (h : Issues s e c op mi a b x)
    (body : MI → Nat → Nat → Ctx → State → State) :
    issue e c op body s = forceCaptures e (noteTime e c mi (body mi a b x (served e c s))) := by
  have hl : (opUse mi.opcode).isSome = true := by
    have := h.legal
    unfold MI.legal at this
    cases hq : opUse mi.opcode <;> simp_all
  have h0 : illegalFetch e c s = false := by
    have hp := h.place
    have : ¬ maxPc < (s.ctx e c).pc := by omega
    have hn : (opUse mi.opcode).isNone = false := by cases hq : opUse mi.opcode <;> simp_all
    simp only [illegalFetch, h.word, h.parity, hn, this]
    simp
  have h1 : issues e c op s = some (s.ctx e c, mi) := by
    simp [issues, h.word, h.busy, h.awake, h.run, h.place, h.parity, h.opcode, h.slots]
  have h2 : ((s.ctx e c).frame.isNone && needsFrame op) = false := by
    cases hn : needsFrame op with
    | false => simp
    | true => have := h.frame hn; cases hf : (s.ctx e c).frame <;> simp_all
  have h3 : operands (served e c s) e c (s.ctx e c) mi = .ok (a, b, x) := h.operands
  simp [issue, h.run, h.turn, h0, h1, h.goes, h2, h.legal, h3]

/-- No counter of an engine has an overflow whose skid is up (R220). -/
def Calm (e : Nat) (s : State) : Prop :=
  ∀ n < 8, 2 ^ 32 ≤ s.eng.pcnt.get 0 (8 * e + n) → s.eng.retired.get 0 e < s.eng.passed.get 0 (8 * e + n) + 6

/-- `t` differs from `s` in the engines alone: no context differs, no capture, nothing of the retirement order, and counters that were
calm stay so. -/
def CountsOnly (e : Nat) (s t : State) : Prop :=
  t.eng.ctx = s.eng.ctx ∧ t = { s with eng := t.eng } ∧ t.eng.captures = s.eng.captures ∧ t.eng.retired = s.eng.retired ∧ (Calm e s → Calm e t)

theorem CountsOnly.refl (e : Nat) (s : State) : CountsOnly e s s := ⟨rfl, rfl, rfl, rfl, id⟩

theorem CountsOnly.trans {e : Nat} {s t u : State} (h : CountsOnly e s t) (k : CountsOnly e t u) : CountsOnly e s u := by
  refine ⟨k.1.trans h.1, ?_, k.2.2.1.trans h.2.2.1, k.2.2.2.1.trans h.2.2.2.1, fun x => k.2.2.2.2 (h.2.2.2.2 x)⟩
  rw [k.2.1, h.2.1]

theorem countsOnly_counterBy (e k n : Nat) (s : State) : CountsOnly e s (counterBy e k n s) := by
  refine ⟨rfl, rfl, rfl, rfl, ?_⟩
  intro h m hm
  unfold counterBy; dsimp only
  by_cases hk : m = k
  · subst hk
    rw [SMap.get_put_same]
    intro hv
    split
    · rw [SMap.get_put_same]; omega
    · refine h m hm ?_
      rename_i hc
      simp only [Bool.and_eq_true, decide_eq_true_eq, not_and] at hc
      omega
  · rw [SMap.get_put_other _ _ _ (by omega)]
    intro hv
    have := h m hm hv
    split
    · rw [SMap.get_put_other _ _ _ (by omega)]; exact this
    · exact this

/-- Counting an event on an engine's counters changes its counters alone. -/
theorem countsOnly_pcntBy (e ev n : Nat) (s : State) : CountsOnly e s (pcntBy e ev n s) := by
  simp only [pcntBy]
  generalize List.range 8 = l
  induction l generalizing s with
  | nil => exact .refl e s
  | cons k l ih =>
    simp only [List.foldl_cons]
    refine CountsOnly.trans ?_ (ih _)
    split
    · exact countsOnly_counterBy e k n s
    · exact .refl e s

theorem countsOnly_pcnt (e ev : Nat) (s : State) : CountsOnly e s (pcnt e ev s) := countsOnly_pcntBy e ev 1 s

theorem countsOnly_noteTime (e c : Nat) (mi : MI) (s : State) : CountsOnly e s (noteTime e c mi s) := by
  unfold noteTime; split
  · exact ⟨rfl, rfl, rfl, rfl, id⟩
  · exact .refl e s

/-- Where no skid is up, no capture is forced. -/
theorem forceCaptures_calm {e : Nat} {s : State} (h : Calm e s) (hc : ∀ q ∈ s.eng.captures, q.engine = e → s.eng.retired.get 0 e < q.place + 6) :
    forceCaptures e s = s := by
  have h1 : ∀ l : List Nat, (∀ n ∈ l, n < 8) → l.foldl (fun s n =>
      if 2 ^ 32 ≤ s.eng.pcnt.get 0 (8 * e + n) && skidUp s e (s.eng.passed.get 0 (8 * e + n)) then pcntOverflow e n s else s) s = s := by
    intro l
    induction l with
    | nil => intro _; rfl
    | cons n l ih =>
      intro hl
      rw [List.foldl_cons, if_neg, ih (fun m hm => hl m (List.mem_cons_of_mem _ hm))]
      simp only [skidUp, Bool.and_eq_true, decide_eq_true_eq, not_and]
      intro hv
      have := h n (hl n List.mem_cons_self) hv
      omega
  have h2 : s.eng.captures.filter (fun q => q.engine = e && skidUp s e q.place) = [] := by
    rw [List.filter_eq_nil_iff]
    intro q hq
    simp only [skidUp, Bool.and_eq_true, decide_eq_true_eq, not_and]
    intro he
    have := hc q hq he
    omega
  simp only [forceCaptures]
  rw [h1 (List.range 8) (fun n hn => List.mem_range.mp hn), h2]; rfl

/-- After `retireAt` on a state in which no capture falls due, none has. -/
theorem calm_retireAt {e c pc : Nat} {ended : Bool} {s : State} (h : captureDue s e = false) :
    Calm e (retireAt e c pc ended s) ∧ ∀ q ∈ (retireAt e c pc ended s).eng.captures, q.engine = e → (retireAt e c pc ended s).eng.retired.get 0 e < q.place + 6 := by
  simp only [captureDue, Bool.or_eq_false_iff, List.any_eq_false, List.mem_range, Bool.and_eq_true, decide_eq_true_eq, not_and] at h
  have k : CountsOnly e (ordered e c pc ended s) (retireAt e c pc ended s) := countsOnly_pcnt e 1 _
  have ho : (ordered e c pc ended s).eng.retired.get 0 e = s.eng.retired.get 0 e + 1 := SMap.get_upd_same ..
  refine ⟨k.2.2.2.2 ?_, ?_⟩
  · intro n hn hv
    rw [ho]
    exact Nat.lt_of_not_le (h.1 n hn hv)
  · intro q hq he
    rw [k.2.2.1] at hq
    rw [k.2.2.2.1, ho]
    exact Nat.lt_of_not_le (h.2 q hq he)

theorem ctx_setCtx (s : State) (e c e' c' : Nat) (x : Ctx) : (s.setCtx e c x).ctx e' c' = if ctxIdx e' c' = ctxIdx e c then x else s.ctx e' c' := by
  have h : (s.setCtx e c x).eng.ctx = s.eng.ctx.put {} (ctxIdx e c) x := by
    unfold State.setCtx; dsimp only; split <;> rfl
  unfold State.ctx; rw [h]; split
  · rw [‹ctxIdx e' c' = _›]; exact SMap.get_put_same ..
  · exact SMap.get_put_other _ _ _ ‹_›

theorem setCtx_awake (s : State) (e c : Nat) (x : Ctx) (h : x.halted = (s.ctx e c).halted) :
    s.setCtx e c x = { s with eng := { s.eng with ctx := s.eng.ctx.put {} (ctxIdx e c) x } } := by
  unfold State.setCtx; dsimp only; rw [if_pos h]

theorem ctx_of_eng {s t : State} (h : t.eng.ctx = s.eng.ctx) (e c : Nat) : t.ctx e c = s.ctx e c := by
  unfold State.ctx; rw [h]

/-- A micro-instruction that changes only its context retires: every other context stays, and so does everything outside the engines. -/
theorem micro_retires {i : Instr} {s : State} {e c op : Nat} {mi : MI} {a b : Nat} {x y : Ctx} (h : Issues s e c op mi a b x)
    {body : MI → Nat → Nat → Ctx → State → Except Stop Ctx} (hb : body mi a b x (served e c s) = .ok y) (hy : y.halted = false)
    (hi : exec i s = .next (micro e c op body noEv s)) : Retires i s e c op mi y := by
  have hd : captureDue (served e c s) e = false := h.calm
  obtain ⟨u, hu, hf⟩ : ∃ u, CountsOnly e (retireAt e c (s.ctx e c).pc false (served e c s)) u
      ∧ finish e c op mi y [] (served e c s) = u.setCtx e c (retired op mi (s.ctx e c) y) := by
    refine ⟨_, ?_, by simp only [finish, List.foldl_nil, retired]; rfl⟩
    show CountsOnly e _ (if _ then _ else _)
    split
    · exact countsOnly_pcnt ..
    · exact .refl ..
  obtain ⟨hcalm, hcap⟩ := calm_retireAt (c := c) (pc := (s.ctx e c).pc) (ended := false) hd
  have hr : (retireAt e c (s.ctx e c).pc false (served e c s)).eng.ctx = s.eng.ctx
      ∧ retireAt e c (s.ctx e c).pc false (served e c s) = { s with eng := (retireAt e c (s.ctx e c).pc false (served e c s)).eng } := by
    have k : CountsOnly e (ordered e c (s.ctx e c).pc false (served e c s)) (retireAt e c (s.ctx e c).pc false (served e c s)) :=
      countsOnly_pcnt e 1 _
    exact ⟨k.1, k.2.1⟩
  have huc : u.eng.ctx = s.eng.ctx := hu.1.trans hr.1
  have hue : u = { s with eng := u.eng } := by rw [hu.2.1, hr.2]
  have hset := setCtx_awake u e c (retired op mi (s.ctx e c) y) (by rw [ctx_of_eng huc, h.awake]; exact hy)
  have hm : micro e c op body noEv s = noteTime e c mi (u.setCtx e c (retired op mi (s.ctx e c) y)) := by
    have : micro e c op body noEv s = forceCaptures e (noteTime e c mi (u.setCtx e c (retired op mi (s.ctx e c) y))) := by
      rw [← hf, micro, issue_eq h, hb]; rfl
    rw [this]
    have hn := countsOnly_noteTime e c mi (u.setCtx e c (retired op mi (s.ctx e c) y))
    have hsc : Calm e (u.setCtx e c (retired op mi (s.ctx e c) y)) := by rw [hset]; exact hu.2.2.2.2 hcalm
    refine forceCaptures_calm (hn.2.2.2.2 hsc) ?_
    rw [hn.2.2.1, hn.2.2.2.1, hset]
    show ∀ q ∈ u.eng.captures, q.engine = e → u.eng.retired.get 0 e < q.place + 6
    rw [hu.2.2.1, hu.2.2.2.1]; exact hcap
  have hn := countsOnly_noteTime e c mi (u.setCtx e c (retired op mi (s.ctx e c) y))
  refine ⟨_, hi, ?_, ?_, ?_⟩
  · rw [hm, ctx_of_eng hn.1, ctx_setCtx, if_pos rfl]
  · intro e' c' hne
    rw [hm, ctx_of_eng hn.1, ctx_setCtx, if_neg hne, ctx_of_eng huc]
  · rw [hm, hn.2.1, hset, hue]

theorem dstWrite_halted (d v : Nat) (x : Ctx) : (dstWrite d v x).halted = x.halted := by
  unfold dstWrite; split
  · rfl
  · split
    · rfl
    · split <;> rfl

theorem aluStep_halted (mi : MI) (q : AluRes) (x : Ctx) : (aluStep mi q x).halted = x.halted := by
  unfold aluStep; rw [dstWrite_halted]; split <;> rfl
/-- The context that issues is not halted, and its sources do not halt it. -/
theorem issues_halted {s : State} {e c op : Nat} {mi : MI} {a b : Nat} {x : Ctx} (h : Issues s e c op mi a b x) : x.halted = false := by
  have ha : ∀ n (x : Ctx), (srcAfter n x).halted = x.halted := by
    intro n x; unfold srcAfter; split
    · split <;> rfl
    · rfl
  have ho := h.operands
  unfold operands at ho
  split at ho
  · cases ho
  · split at ho
    · cases ho
    · cases ho; rw [ha, ha, h.awake]

end Sys2Proof.Machine
end

