-- ==== Sys2Proof/Laws/Interrupts.lean ====
section
/-! SUPPORT. The interrupt controller: which source is delivered, and what each operation does to the priority stacks. -/
namespace Sys2Proof.Machine

/-! ### Selection (R526, R528) -/

/-- Source `n` goes before `m`: its priority is higher, or the same with a number no greater. -/
def Beats (s : State) (n m : Nat) : Prop :=
  s.rd (wISRC m) F.SRC_PRIO < s.rd (wISRC n) F.SRC_PRIO ∨ (s.rd (wISRC m) F.SRC_PRIO = s.rd (wISRC n) F.SRC_PRIO ∧ n ≤ m)

/-- The selection over a list answers a member of it, or the one it began with, that goes before all of them. -/
theorem betterSource_fold (s : State) (l : List Nat) (b : Option Nat) :
    match l.foldl (betterSource s) b with
    | none => b = none ∧ l = []
    | some n => (n ∈ l ∨ b = some n) ∧ (∀ m ∈ l, Beats s n m) ∧ (∀ m, b = some m → Beats s n m) := by
  induction l generalizing b with
  | nil => cases b <;> simp [Beats]
  | cons k l ih =>
    have h := ih (betterSource s b k)
    rw [List.foldl_cons]
    revert h
    cases hf : List.foldl (betterSource s) (betterSource s b k) l with
    | none => cases b <;> simp [betterSource]; split <;> simp
    | some n =>
      rintro ⟨h1, h2, h3⟩
      cases b with
      | none =>
        simp [betterSource] at h1 h3 ⊢
        exact ⟨h1.elim .inr (fun h => .inl h.symm), h3, h2⟩
      | some m =>
        simp only [betterSource] at h1 h3
        split at h1
        · rename_i hc
          simp [hc] at h1 h3 ⊢
          refine ⟨h1.elim (fun h => .inl (.inr h)) (fun h => .inl (.inl h.symm)), ⟨h3, h2⟩, ?_⟩
          simp [Beats] at *; omega
        · rename_i hc
          simp [hc] at h1 h3 ⊢
          refine ⟨h1.elim (fun h => .inl (.inr h)) .inr, ⟨?_, h2⟩, h3⟩
          simp [Beats] at *; omega

theorem targetMasked_iff (s : State) (t : Nat) :
    targetMasked s t = false ↔
      (t < 256 → ∃ f, vecOwner s t = some f ∧ (s.hif.msix.get {} t).mask = false ∧ s.hif.fnMask.get false f = false ∧ s.hif.msixEn.get false f = true)
      ∧ (256 ≤ t → (s.rd pINT F.INT_PIN_CFG_PIN_MASK).testBit (t - 256) = false) := by
  unfold targetMasked
  by_cases h : t < 256
  · have h2 : ¬ (256 ≤ t) := by omega
    rw [if_pos h]
    cases hv : vecOwner s t <;> simp [h, h2, and_assoc]
  · have h2 : 256 ≤ t := by omega
    rw [if_neg h]; simp [h, h2]

theorem heldOff_iff (s : State) (g : Nat) : heldOff s g = false ↔ ∀ e, s.int.holdEnd.find? g = some e → e ≤ s.now := by
  unfold heldOff
  cases h : s.int.holdEnd.find? g <;> simp

theorem findIn_unlisted {α : Type} (l : List (Nat × α)) (i : Nat) (h : i ∉ l.map (·.1)) : SMap.findIn l i = none := by
  induction l with
  | nil => rfl
  | cons e l ih =>
    obtain ⟨k, v⟩ := e
    simp only [List.map_cons, List.mem_cons, not_or] at h
    rw [SMap.findIn, if_neg h.1]
    exact ih h.2

/-- A source that pends is listed. -/
theorem pending_listed {s : State} {m : Nat} (h : (s.src m).pending = true) : m ∈ s.int.src.keys := by
  refine Classical.byContradiction (fun hc => ?_)
  simp [State.src, SMap.get, findIn_unlisted _ _ hc] at h

/-- What `nextSource` answers is pending, unmasked and of a priority above the running one. -/
theorem nextSource_spec {s : State} {t n : Nat} (h : nextSource s t = some n) : targetMasked s t = false ∧ wouldDeliver s t n = true := by
  revert h
  unfold nextSource
  split
  · simp
  · rename_i hm
    intro h
    have := betterSource_fold s (s.int.src.keys.filter (wouldDeliver s t)) none
    rw [h] at this
    simp only [reduceCtorEq, or_false] at this
    exact ⟨by simpa using hm, (List.mem_filter.1 this.1).2⟩

theorem running_le_of_nextSource {s : State} {t n : Nat} (h : nextSource s t = some n) : running s t < s.rd (wISRC n) F.SRC_PRIO + 1 := by
  have := (nextSource_spec h).2
  simp only [wouldDeliver, Bool.and_eq_true, decide_eq_true_eq] at this
  omega

/-! ### Stacks -/

theorem stack_setStack (s : State) (t u : Nat) (l : List StkEntry) : (setStack t l s).stack u = if u = t then l else s.stack u := by
  split
  · subst u; exact SMap.get_put_same ..
  · exact SMap.get_put_other _ _ _ ‹_›

theorem stacksOk_of_eq {s u : State} (h : u.int.prioStacks = s.int.prioStacks) (hs : s.stacksOk) : u.stacksOk := by
  intro t; simpa [State.stack, h] using hs t

theorem stacksOk_setStack {s : State} {t : Nat} {l : List StkEntry} (hl : stackFalls l = true) (hs : s.stacksOk) : (setStack t l s).stacksOk := by
  intro u; rw [stack_setStack]; split
  · exact hl
  · exact hs u

theorem foldl_stacks {α : Type} (l : List α) (f : State → α → State) (hf : ∀ s a, (f s a).int.prioStacks = s.int.prioStacks) (s : State) :
    (l.foldl f s).int.prioStacks = s.int.prioStacks := by
  induction l generalizing s with
  | nil => rfl
  | cons a l ih => rw [List.foldl_cons, ih, hf]

theorem stacksOk_emptyStack {s : State} (t : Nat) (hs : s.stacksOk) : (emptyStack t s).stacksOk := by
  unfold emptyStack
  refine stacksOk_setStack rfl (stacksOk_of_eq ?_ hs)
  apply foldl_stacks
  intros
  rfl

theorem faultSync_stacks (s : State) : (faultSync s).int.prioStacks = s.int.prioStacks := by
  unfold faultSync; split
  · rfl
  · split <;> rfl

/-- A stack that falls strictly from a top of priority at most `k` holds at most `k + 1` entries. -/
theorem stackFalls_length (l : List StkEntry) (k : Nat) (h1 : stackFalls l = true) (h2 : ∀ e ∈ l, e.prio ≤ k) : l.length ≤ k + 1 := by
  induction l generalizing k with
  | nil => simp
  | cons e l ih =>
    cases l with
    | nil => simp
    | cons e' l =>
      simp only [stackFalls, Bool.and_eq_true, decide_eq_true_eq] at h1
      have hk := h2 e (by simp)
      have below : ∀ (l : List StkEntry) (e' : StkEntry), stackFalls (e' :: l) = true → ∀ x ∈ e' :: l, x.prio ≤ e'.prio := by
        intro l
        induction l with
        | nil => intro e' _; simp
        | cons y l ih =>
          intro e' h x hx
          simp only [stackFalls, Bool.and_eq_true, decide_eq_true_eq] at h
          rcases List.mem_cons.1 hx with rfl | hx
          · exact Nat.le_refl _
          · have := ih y (by simpa [stackFalls] using h.2) x hx; omega
      have h3 := ih (e.prio - 1) (by simpa [stackFalls] using h1.2) (fun x hx => by
        have := below l e' (by simpa [stackFalls] using h1.2) x hx; omega)
      simp at h3 ⊢; omega

end Sys2Proof.Machine
end

