-- ==== Sys2Proof/Laws/Memory.lean ====
section
/-! SUPPORT. Addressed memory: what the window and the flash hold after a write, and that every write keeps the canonical form. -/
namespace Sys2Proof.Machine

/-- Bytes put one after another from an address. -/
theorem get_putBytes (d : List Byte) (a k x : Nat) (m : SMap Byte) :
    ((d.zipIdx k).foldl (fun (m : SMap Byte) (e : Byte × Nat) => m.put 0 (a + e.2) e.1) m).get 0 x
      = if a + k ≤ x ∧ x < a + k + d.length then (d[x - a - k]?).getD 0 else m.get 0 x := by
  induction d generalizing k m with
  | nil => simp <;> omega
  | cons b d ih =>
    simp only [List.zipIdx_cons, List.foldl_cons, ih, List.length_cons]
    by_cases h1 : x = a + k
    · subst h1; simp <;> omega
    · rw [SMap.get_put_other _ _ _ h1]
      by_cases h2 : a + (k + 1) ≤ x ∧ x < a + (k + 1) + d.length
      · rw [if_pos h2, if_pos (by omega)]
        have : x - a - k = (x - a - (k + 1)) + 1 := by omega
        rw [this]; simp
      · rw [if_neg h2, if_neg (by omega)]

/-- One byte of the window after bytes are stored. -/
theorem winByte_setWin (a : Nat) (d : List Byte) (s : State) (x : Nat) :
    (setWin a d s).winByte x = if a ≤ x ∧ x < a + d.length then (d[x - a]?).getD 0 else s.winByte x := by
  simpa [setWin, State.winByte] using get_putBytes d a 0 x s.peat.mem

theorem wf_putBytes (d : List (Byte × Nat)) (a : Nat) (m : SMap Byte) (h : Memory.wf m = true) :
    Memory.wf (d.foldl (fun (m : SMap Byte) (e : Byte × Nat) => m.put 0 (a + e.2) e.1) m) = true := by
  induction d generalizing m with
  | nil => exact h
  | cons e d ih =>
    refine ih _ ?_
    simp only [Memory.wf, Bool.and_eq_true, List.all_eq_true, bne_iff_ne, ne_eq] at h ⊢
    exact ⟨SMap.put_wf _ h.1 _ _, SMap.put_no_default _ h.2 _ _⟩

/-- A store into the window keeps its canonical form. -/
theorem wf_setWin (a : Nat) (d : List Byte) (s : State) (h : Memory.wf s.peat.mem = true) : Memory.wf (setWin a d s).peat.mem = true :=
  wf_putBytes _ a _ h

theorem get_flashBytes (d : List Byte) (a x : Nat) (m : SMap Byte) :
    ((d.foldl (fun (m : SMap Byte × Nat) b => (m.1.put 0xFF m.2 b, m.2 + 1)) (m, a)).1).get 0xFF x
      = if a ≤ x ∧ x < a + d.length then (d[x - a]?).getD 0xFF else m.get 0xFF x := by
  induction d generalizing a m with
  | nil => simp <;> omega
  | cons b d ih =>
    simp only [List.foldl_cons, ih, List.length_cons]
    by_cases h1 : x = a
    · subst h1
      rw [if_neg (by omega), if_pos (by omega)]
      simp
    · rw [SMap.get_put_other _ _ _ h1]
      by_cases h2 : a + 1 ≤ x ∧ x < a + 1 + d.length
      · rw [if_pos h2, if_pos (by omega)]
        have : x - a = (x - (a + 1)) + 1 := by omega
        rw [this]; simp
      · rw [if_neg h2, if_neg (by omega)]

/-- One byte of the flash after bytes are put into it. -/
theorem flashByte_setFlash (a : Nat) (d : List Byte) (s : State) (x : Nat) :
    flashByte (setFlash a d s) x = if a ≤ x ∧ x < a + d.length then (d[x - a]?).getD 0xFF else flashByte s x := get_flashBytes ..

/-- A change of the flash keeps its canonical form. -/
theorem wf_setFlash (a : Nat) (d : List Byte) (s : State) (h : Flash.wf s.boot.flash = true) : Flash.wf (setFlash a d s).boot.flash = true := by
  suffices ∀ (d : List Byte) (a : Nat) (m : SMap Byte), Flash.wf m = true →
      Flash.wf (d.foldl (fun (m : SMap Byte × Nat) b => (m.1.put 0xFF m.2 b, m.2 + 1)) (m, a)).1 = true from this d a _ h
  intro d
  induction d with
  | nil => exact fun _ _ h => h
  | cons b d ih =>
    intro a m h
    refine ih _ _ ?_
    simp only [Flash.wf, Bool.and_eq_true, List.all_eq_true, bne_iff_ne, ne_eq] at h ⊢
    exact ⟨SMap.put_wf _ h.1 _ _, SMap.put_no_default _ h.2 _ _⟩

end Sys2Proof.Machine
end

