-- ==== Sys2Proof/Tests/Slice0.lean ====
section
/-! SUPPORT. Tests: the check of well-formed commands refuses each kind of ill-formed term, single steps on small states with results worked out from the
spec, and for every statement with hypotheses a concrete state and operands that meet them (the theorems named met_). -/
namespace Sys2Proof.Tests
set_option Elab.async false
open Sys2Proof Sys2Proof.Machine

/-! ### Small states -/

/-- The part out of reset, its pages as reset leaves them. -/
def powered : State := { State.reset with boot := { State.reset.boot with inReset := false } }

/-- Pages put into given states. -/
def inSt (l : List (Nat × BlkState)) (s : State) : State := l.foldl (fun s x => s.updPage x.1 (fun h => { h with state := x.2 })) s

/-- Every page READY, and every page in RUN. -/
def ready : State := inSt (allPages.map (fun p => (p, .ready))) powered
def running_ : State := inSt (allPages.map (fun p => (p, .run))) powered
/-- A page's header changed. -/
def withPage (p : Nat) (f : Page → Page) (s : State) : State := s.updPage p f
/-- A block's long command in progress. -/
def busyWith (p : Nat) (c : RunCmd) (s : State) : State := s.updPage p (fun h => { h with cmd := some c })

/-! ### Registers (R52 to R72) -/

theorem met_ViewsWriteSetClearToggle : (5 < 2 ^ 3 ∧ 6 < 2 ^ 3 ∧ 2 < 3) ∧ viewOutcome .set 5 6 3 = 7 ∧ viewOutcome .clear 5 6 3 = 1 ∧ viewOutcome .toggle 5 6 3 = 3 := by
  decide

theorem met_PorstLeavesOnlyTheFlash : running_.boot.flashOp = none := by decide

/-- A walk that resynchronises the peer, over a table of one learned group. -/
def resyncing (n : Nat) : State :=
  { running_ with mate := { running_.mate with walk := some n }, tab := { running_.tab with groups := ⟨[(6, ⟨7, 0, learnedAction 5, 9, false, false⟩)]⟩ } }

theorem met_EmptyQueueOnlyAdvancesTime :
    (running_.pending = [] ∧ running_.mate.walk = none)
    ∧ (∀ s, s = resyncing 6 → s.pending = [] ∧ s.mate.walk = some 6 ∧ (s.tab.groups.entries.find? (fun e => 6 ≤ e.1 && isLearned e.2.action && !e.2.mate)).isSome = true
        ∧ s.rd pMATE F.MATE_STATUS_LINK_STATE ≠ lUP ∧ (s.wr pMATE F.MATE_STATUS_LINK_STATE lUP).rd pMATE F.MATE_STATUS_LINK_STATE = lUP
        ∧ s.inState pLDG .reset = false)
    ∧ (∀ s, s = resyncing 7 → s.mate.walk = some 7 ∧ s.tab.groups.entries.find? (fun e => 7 ≤ e.1 && isLearned e.2.action && !e.2.mate) = none) := by
  refine ⟨?_, ?_, ?_⟩ <;> (try rintro s rfl) <;> decide +kernel

theorem met_RefusedWritesChangeOnlyTheHeader :
    (pageBlk pTIME ≠ none ∧ gateCode powered pTIME 0x048 .normal 0 0 noCheck noCheck noBusy ≠ rDONE) ∧ cmdCode powered pTIME 0 true false ≠ rDONE := by
  decide +kernel

/-- A state with the three copies of a field unequal. -/
def torn : State := { running_ with reg := { running_.reg with copies := running_.reg.copies.insert (fkey (pBUF 0) F.BUF_SHARED_LIMIT_LIMIT 0 0) (6, 5, 3) } }

theorem met_TripledFieldsReadTheMajority :
    torn.reg.copies.find? (fkey (pBUF 0) F.BUF_SHARED_LIMIT_LIMIT 0 0) = some (6, 5, 3) ∧ torn.rd (pBUF 0) F.BUF_SHARED_LIMIT_LIMIT = 7 := by
  decide +kernel

theorem met_WrittenFieldsReadBack : fkey pTIME F.TIME_SEL_PREF 0 0 ≠ fkey pTIME F.TIME_SEL_AUTO_SEL 0 0 := by decide

theorem met_LeaseExpiryFreesTheLock : ∃ (s : State) (l : Lock), s = withPage pTIME (fun h => { h with lock := some ⟨3, 5⟩ }) running_ ∧
    (s.page pTIME).lock = some l ∧ l.owner ≠ 12 ∧ (s.page pTIME).commitPending = false := ⟨_, ⟨3, 5⟩, rfl, by decide +kernel⟩

theorem met_CommonCommandsComplete :
    cmdCode ready pTIME 1 (0 = 0) (!ready.inState pTIME .reset) = rDONE
    ∧ cmdCode running_ pTIME 1 (0 = 0) (servable running_ pTIME) = rDONE
    ∧ cmdCode running_ pTIME 1 (0 = 0) (stateIn running_ pTIME [.ready, .run]) = rDONE
    ∧ (∀ s, s = inSt [(pTIME, .fenced)] running_ → cmdCode s pTIME 1 (0 = 0) (s.inState pTIME .fenced) = rDONE)
    ∧ (∀ s, s = [(⟨fkey pTIME F.TIME_SEL_PREF 0 0, 1, 1⟩ : Upset)].foldl (fun s u => strike u s) running_ → cmdCode s pTIME 1 (0 = 0) (servable s pTIME) = rDONE)
    ∧ (running_.page pTIME).commitPending = false
    ∧ (pageBlk pTIME = some .time ∧ runOp .time = some 0x40 ∧ cmdCode ready pTIME 1 (0 = 0) (ready.inState pTIME .ready) = rDONE)
    ∧ (∀ s, s = (List.range 14).foldl (fun (s : State) k => s.wr pPEAT F.PEAT_TIM_VALUE 9 k) ready → (∀ k < 14, s.rd pPEAT F.PEAT_TIM_VALUE k ≠ 0)
        ∧ pageBlk pPEAT = some .peat ∧ runOp .peat = some 0x40 ∧ cmdCode s pPEAT 1 (0 = 0) (s.inState pPEAT .ready) = rDONE)
    ∧ (stopsAtOnce .time = true ∧ cmdCode running_ pTIME 1 (0 = 0) (running_.inState pTIME .run && mayStop running_ pTIME) = rDONE)
    ∧ (pageBlk (pQSC 0) = some .qsc ∧ (runOp .qsc).isSome = true ∧ stopsAtOnce .qsc = false
        ∧ cmdCode running_ (pQSC 0) 1 (0 = 0) (running_.inState (pQSC 0) .run && mayStop running_ (pQSC 0)) = rDONE)
    ∧ (∀ s, s = busyWith (pQSC 0) ⟨0x41, 0, 1, []⟩ running_ → pQSC 0 ≠ pBOOT ∧ s.inState (pQSC 0) .run = true ∧ (s.page (pQSC 0)).cmd = some ⟨0x41, 0, 1, []⟩
        ∧ workEnded s (pQSC 0) = true) := by
  refine ⟨?_, ?_, ?_, ?_, ?_, ?_, ?_, ?_, ?_, ?_, ?_⟩ <;> (try rintro s rfl) <;> decide +kernel

/-- A page with a shadow of one of its fields by an agent. -/
def shadowOf (p : Nat) (f : Field) (v ag : Nat) (s : State) : State :=
  { s with reg := { s.reg with shadow := s.reg.shadow.insert (fkey p f 0 0) (v, ag) } }

/-- A commit of a page that waits for its boundary, a round having passed since its commit point. -/
def committing (p : Nat) : State := withPage p (fun h => { h with commitPending := true, rounds := 1 }) running_

theorem met_CommitsLocksAndFencesComplete_commits :
    (∀ s, s = shadowOf pINT F.INT_HOLDOFF_HOLDOFF 4 2 running_ → lockedBy s pINT 2 = false ∧ 1 % 65536 = 1 ∧ goRange s pINT 2 = true ∧ (s.page pINT).lapsed ≠ some 2
        ∧ (s.page pINT).commitPending = false ∧ goState s pINT = true ∧ (gatesOf s pINT).isEmpty = true ∧ anyShadow s pINT = true)
    ∧ (∀ e ∈ [(pPORT 0, Blk.port), (pBUF 0, .buf), (pXBAR, .xbar), (pSFAB, .sfab), (pPRS 0, .prs), (pLKP 0, .lkp), (pRPL 0, .rpl), (pQSC 0, .qsc), (pPEAT, .peat),
          (pENG 0, .eng)], pageBlk e.1 = some e.2 ∧ ((committing e.1).page e.1).commitPending = true ∧ (committing e.1).inState e.1 .halted = false
        ∧ secondRound (committing e.1) e.1 = true ∧ ((committing e.1).page e.1).substate = 0)
    ∧ (∀ s, s = committing (pQSC 0) → shaperCommitted s (pQSC 0) = false ∧ shaperCommitted (shadowOf (pQSC 0) F.QSC_SHP_CFG_EN 1 2 s) (pQSC 0) = true
        ∧ shaperBusy (shadowOf (pQSC 0) F.QSC_SHP_CFG_EN 1 2 s) (2048 * pageRegion (pQSC 0) + (shadowOf (pQSC 0) F.QSC_SHP_CFG_EN 1 2 s).rd (pQSC 0) F.QSC_SHP_SEL_SEL) = false)
    ∧ (agOk 15 = true ∧ 0 < 1000000 ∧ (running_.page pTIME).lock = none)
    ∧ (∀ s, s = withPage pTIME (fun h => { h with lock := some ⟨2, 9⟩ }) running_ → agOk 2 = true ∧ (s.page pTIME).lock = some ⟨2, 9⟩)
    ∧ (∀ s : State, s = { running_ with mate := { running_.mate with plock := some ⟨0, 1, 5⟩ } } → s.mate.plock = some ⟨0, 1, 5⟩)
    ∧ (∀ p ∈ [pLDG, pPEAT, pMATE, pTIME, pPORT 3, pHIF], ((withPage p (fun h => { h with posted := [(p * 32768, 4)] }) running_).page p).posted = [(p * 32768, 4)])
    ∧ ((0x100 / 4 ≤ pHIF * 32768 / 32 - pHIF * 1024) = false) := by
  refine ⟨?_, ?_, ?_, ?_, ?_, ?_, ?_, ?_⟩ <;> (try rintro s rfl) <;> decide +kernel

/-- A long command at its end. -/
def ending (p op : Nat) (ops : List Nat) : State := busyWith p ⟨op, 0, 1, ops⟩ (if op = 0x01 || op = 0x03 then inSt [(p, .reinit)] running_ else running_)

theorem met_CommitsLocksAndFencesComplete_ends :
    (∀ e ∈ [(pTIME, 0x01, []), (pTIME, 0x03, []), (pLKP 0, 0x48, []), (pENG 3, 0x44, []), (pBUF 1, 0x44, [0x81]), (pPEAT, 0x43, [4, 9]), (pLDG, 0x43, [7]), (pBOOT, 0x41, [3]),
          (pBOOT, 0x42, [6, 5]), (pBOOT, 0x44, [0, 16]), (pBOOT, 0x45, []), (pBOOT, 0x46, [])],
        ((ending e.1 e.2.1 e.2.2).page e.1).cmd = some ⟨e.2.1, 0, 1, e.2.2⟩ ∧ (pageBlk e.1).isSome = true ∧ (ending e.1 e.2.1 e.2.2).boot.flashOp = none
          ∧ (e.2.1 ≤ 3 → (ending e.1 e.2.1 e.2.2).inState e.1 .reinit = true))
    ∧ (scrubWords (pageRegion (pENG 3)) (badWords (ending (pENG 3) 0x44 []) (pageRegion (pENG 3))) (ending (pENG 3) 0x44 [])).1 = true
    ∧ (∀ s : State, s = { ending pBOOT 0x46 [] with boot := { running_.boot with opCode := some rDONE } } → s.boot.opCode = some rDONE ∧ s.boot.flashOp = none
        ∧ (s.page pBOOT).cmd = some ⟨0x46, 0, 1, []⟩)
    ∧ (stateIn running_ (pBUF 0) [.reset, .fenced, .halted] = false ∧ 1 < 2 ∧ stateIn running_ (pBUF 0) [.ready, .run] = true ∧ 2 ≤ 2 ∧ pBUF 0 ≠ 0x00F ∧ 0x010 ≤ pBUF 0)
    ∧ (inSt [(pXBAR, .reinit)] running_).inState pXBAR .reinit = true
    ∧ (∀ s : State, s = { running_ with buf := { running_.buf with pools := [{ Pool.unbuilt with sweeps := [(0x81, [5])] }] } } →
        (s.pool 0).sweeps = (0x81, [5]) :: []) := by
  refine ⟨?_, ?_, ?_, ?_, ?_, ?_⟩ <;> (try rintro s rfl) <;> decide +kernel

theorem met_WritesByAddressComplete :
    running_.boot.inReset = false
    ∧ (0x050 % 4 = 0 ∧ 0x040 ≤ 0x050 ∧ pageBlk (pBUF 0) = some .buf ∧ ownRow .buf 0x050 = false ∧ gateCode running_ (pBUF 0) 0x050 .normal 1 5
        (fun l => ownRange running_ (pBUF 0) .buf 0x050 l && !(chipWide .buf 0x050 && pageRegion (pBUF 0) != 0)) (fun _ => ownState running_ (pBUF 0) .buf 0x050) noBusy = rDONE)
    ∧ (pageBlk pTIME = some .time ∧ 0x048 ∉ [0x118, 0x158, 0x200, 0x204] ∧ gateCode running_ pTIME 0x048 .normal 1 0 (timeRange running_) (timeState running_) noBusy = rDONE)
    ∧ (∀ op ∈ [0, 1, 255], op < 256 ∧ 65535 < 65536) ∧ (commandOf .time 0x40).isSome = true
    ∧ (2 ^ 20 - 1 < 2 ^ 20 ∧ lockedBy running_ pTIME 1 = false ∧ 0x7000000 &&& 0xFCF0FFFF ≠ 0x7000000 ∧ 0xFCF00000 &&& 0xFCF0FFFF = 0xFCF00000
        ∧ 0xFFFFFFF8 &&& 0xFFFFFFF8 = 0xFFFFFFF8)
    ∧ (0x048 % 8 = 0 ∧ ¬ (2 = 4 ∧ 0x048 % 4 = 0) ∧ ¬ (2 = 8 ∧ 0x048 % 8 = 0) ∧ ¬ (8 = 4 ∧ 0x04C % 4 = 0) ∧ ¬ (8 = 8 ∧ 0x04C % 8 = 0) ∧ 0x020 / 4 = 8)
    ∧ pageBlk 0x00F = none ∧ (3 < 4 ∧ 2 < 3 ∧ 63 < 64 ∧ 1 < 2 ∧ 7 < 8 ∧ 11 < 12 ∧ 257 < 258)
    ∧ (2047 < 2048 ∧ 47 < 48 ∧ 255 < 256 ∧ 4095 < 4096 ∧ 4607 < 4608 ∧ 65535 < 65536 ∧ 524287 < 524288)
    ∧ (lockedBy running_ pLDG 1 = false ∧ windowState running_ pLDG = true)
    ∧ (7 < 8 ∧ lockedBy running_ pHIF 0 = false ∧ fnPresent running_ 0 = true ∧ 255 < running_.rd pHIF F.HIF_MSIX_VEC_COUNT 0 ∧ 2 ^ 32 - 1 < 2 ^ 32 ∧ windowState running_ pHIF = true)
    ∧ (0x800000 ≤ 0x8A0008 ∧ 0x8A0008 % 8 = 0 ∧ (windowPage running_ 0x8A0008).isSome = true)
    ∧ (0x400000 ≤ 0xFFFFFC ∧ (∃ a ∈ [0x86F000, 0xB00000, 0x9FFFFC, 0xFFFFFC, 0x8F0000], windowPage running_ a = none))
    ∧ (windowPage running_ 0x8A0002 = some (recPage 0) ∧ isBlk (recPage 0) .eng = false ∧ lockedBy running_ (recPage 0) 1 = false ∧ ¬ (4 = 4 ∧ 0x8A0002 % 4 = 0) ∧ ¬ (4 = 8 ∧ 0x8A0002 % 8 = 0))
    ∧ (windowPage running_ 0x960002 = some (pENG 3) ∧ lockedBy running_ (pENG 3) 1 = false ∧ ¬ (4 = 4 ∧ 0x960002 % 4 = 0) ∧ ¬ (4 = 8 ∧ 0x960002 % 8 = 0)) := by
  refine ⟨?_, ?_, ?_, ?_, ?_, ?_, ?_, ?_, ?_, ?_, ?_, ?_, ?_, ?_, ?_⟩ <;> decide +kernel

/-! ### The supply and the ports (R30 to R34, R74 to R101) -/

theorem met_SupplyCommandsComplete :
    (running_.inState pSNS .reset = false ∧ (0 : Int) ≤ 127 ∧ 3 < 4)
    ∧ (∀ s, s = { (running_.wr pSNS F.SNS_AVS_CTRL_AVS_EN 1).wr pSNS F.SNS_AVS_CTRL_HYST 2 with sns := { running_.sns with lowest := some 9 } } →
        s.rdB pSNS F.SNS_AVS_CTRL_AVS_EN = true ∧ s.emb.avsHeld = false ∧ (s.rd pSNS F.SNS_AVS_CTRL_TARGET : Int) ≤ 9
          ∧ (9 : Int) ≤ (s.rd pSNS F.SNS_AVS_CTRL_TARGET : Int) + s.rd pSNS F.SNS_AVS_CTRL_HYST)
    ∧ (∀ m, m = -1 ∨ m = 127 → ∀ s, s = { (running_.wr pSNS F.SNS_AVS_CTRL_AVS_EN 1).wr pSNS F.SNS_AVS_CTRL_HYST 2 with sns := { running_.sns with lowest := some m, vreq := some 800 } } →
        (m = -1 → m < (s.rd pSNS F.SNS_AVS_CTRL_TARGET : Int) ∧ min (coreMv s + 5) (s.rd pSNS F.SNS_AVS_LIMITS_VMAX_MV) ≠ coreMv s)
          ∧ (m = 127 → (s.rd pSNS F.SNS_AVS_CTRL_TARGET : Int) + s.rd pSNS F.SNS_AVS_CTRL_HYST < m ∧ max (coreMv s - 5) (s.rd pSNS F.SNS_AVS_LIMITS_VMIN_MV) ≠ coreMv s))
    ∧ gateCode running_ pSNS 0x044 .normal 1 0x040821 (avsRange running_) noCheck noBusy = rDONE
    ∧ (∀ n < 3, ∀ s, s = { (running_.wr pSNS F.SNS_AVS_CTRL_AVS_EN 1).wr pSNS F.SNS_AVS_STATUS_VREQ_MV 700 with sns := { running_.sns with nacks := n } } →
        s.rd pSNS F.SNS_AVS_STATUS_VREQ_MV ≠ 0 ∧ s.rdB pSNS F.SNS_AVS_CTRL_AVS_EN = true ∧ (s.sns.nacks < 2 ∨ 2 ≤ s.sns.nacks)) := by
  refine ⟨?_, ?_, ?_, ?_, ?_⟩
  · decide +kernel
  · rintro s rfl; decide +kernel
  · rintro m (rfl | rfl) s rfl <;> decide +kernel
  · decide +kernel
  · rintro n hn s rfl; interval_cases n <;> decide +kernel

/-- A port's link put into a state. -/
def linkIs (p st : Nat) (s : State) : State := setLink_ p st s

/-- Port 0 formed of one lane. -/
def formed0 : State := (running_.wr (pPORT 0) F.QUAD_MODE_MODE 1 0).wr (pPORT 0) (laneSpeedF 0) 1 0

theorem met_PortCommandsComplete :
    (pageBlk (pPORT 0) ≠ none ∧ gateCode running_ (pPORT 0) 0x380 .normal 1 0 (quadModeRange running_ 0 0) (fun _ => quadIdle running_ 0 0) noBusy = rDONE)
    ∧ gateCode running_ (pPORT 0) 0x384 .normal 1 0 (quadLaneRange running_ 0 0) (quadLaneState running_ 0 0) noBusy = rDONE
    ∧ (∀ s, s = linkIs 5 lUP_FILTER running_ → portFrozen s 5 = false ∧ s.link_ 5 = lUP_FILTER)
    ∧ (∀ s, s = linkIs 5 lUP running_ → portFrozen s 5 = false ∧ s.link_ 5 = lUP ∧ (s.wr (pPORT (portRegion 5)) F.PORT_LINK_FILT_DOWN_FILT 7 (portCell 5)).downFilt 5 ≠ 0)
    ∧ (∀ s, s = inSt [(pPORT 0, .fenced)] (linkIs 5 lUP running_) → portFrozen s 5 = true ∧ s.link_ 5 ≠ lDISABLED)
    ∧ (∀ s, s = linkIs 5 lDOWN running_ → portFrozen s 5 = false ∧ s.link_ 5 = lDOWN)
    ∧ (∀ s, s = linkIs 5 lTRAINING running_ → portFrozen s 5 = false ∧ 5 < 48 ∧ s.link_ 5 = lTRAINING)
    ∧ (∀ s, s = linkIs 5 lDOWN_FILTER running_ → portFrozen s 5 = false ∧ s.link_ 5 = lDOWN_FILTER)
    ∧ (∀ s, s = linkIs 49 lTRAINING running_ → 48 ≤ 49 ∧ s.link_ 49 = lTRAINING ∧ portFrozen s 49 = false)
    ∧ (∀ s, s = (linkIs 4 lTRAINING running_).wr (pPORT 0) (laneAnF 0) 1 1 → 4 < 48 ∧ s.link_ 4 = lTRAINING
        ∧ s.rdB (pPORT (portRegion 4)) (laneAnF (4 % 4)) (portCell 4 / 4) = true)
    ∧ gateCode running_ (pPORT (portRegion 4)) (0x088 + 0x40 * portCell 4) .normal 1 0 noCheck noCheck noBusy = rDONE
    ∧ (∀ s : State, s = running_.wr (pPORT 0) F.PORT_STATUS_VERIFY_STATUS 2 4 → s.rd (pPORT (portRegion 4)) F.PORT_STATUS_VERIFY_STATUS (portCell 4) = 2
        ∧ (s.port 4).verSent < 3 ∧ 3 ≤ ((s.updPort 4 (fun x => { x with verSent := 3 })).port 4).verSent)
    ∧ (∀ s, s = linkIs 4 lUP running_ → s.link_ 4 ≠ lDISABLED ∧ preemptOn s 4 = false ∧ preemptOn (s.wr (pPORT 0) F.PORT_PREEMPT_PREEMPT_EN 1 4) 4 = true)
    ∧ (∀ s, s = (linkIs 4 lUP running_).wr (pPORT 0) F.PORT_STATUS_VERIFY_STATUS 2 4 → s.rd (pPORT (portRegion 4)) F.PORT_STATUS_VERIFY_STATUS (portCell 4) = 2
        ∧ preemptOn (s.wr (pPORT 0) F.PORT_PREEMPT_PREEMPT_EN 1 4) 4 = true)
    ∧ gateCode running_ pTIME 0x204 .normal 1 16 (rclkRange running_ 1) noCheck noBusy = rDONE
    ∧ cmdCode formed0 (pPORT 0) 1 (portArg formed0 (pPORT 0) 0) (stateIn formed0 (pPORT 0) [.run] && formed0.link_ (12 * pageRegion (pPORT 0) + 0) = lDISABLED) = rDONE
    ∧ (∀ s, s = linkIs 0 lUP formed0 → cmdCode s (pPORT 0) 1 (portArg s (pPORT 0) 0) (stateIn s (pPORT 0) [.run] && s.link_ (12 * pageRegion (pPORT 0) + 0) != lDISABLED) = rDONE)
    ∧ (∀ s : State, s = running_.updPort 4 (fun x => { x with disabling := true }) → (s.port 4).disabling = true ∧ (s.port 4).cur = none) := by
  refine ⟨?_, ?_, ?_, ?_, ?_, ?_, ?_, ?_, ?_, ?_, ?_, ?_, ?_, ?_, ?_, ?_, ?_, ?_⟩ <;> (try rintro s rfl) <;> decide +kernel

/-! ### Frames (R37 to R40, R82 to R115) -/

/-- A whole frame of port 0: a UDP datagram over IPv4. -/
def udp : List Byte :=
  beBytes 6 0x020000000002 ++ beBytes 6 0x020000000001 ++ beBytes 2 0x0800 ++ beBytes 20 0x4500002E00000000401166BD0A0000010A000002
    ++ beBytes 8 0x04D2162E001A0000 ++ List.replicate 18 0 ++ beBytes 4 0
def frame0 : Frame :=
  { port := 0, src := .front, region := 0, bytes := udp, complete := true, bad := false, tc := 0, stamp := {}, handle := none, seq := none, prec := 0
    stage := .received, verdict := {}, edits := [], fixups := 0, head := none, deferred := [], lateAct := none, rtag := none, edit := none
    colour := .green, metered := none, ring := none, oneStep := false, tsReq := false, why := (0, 0) }
/-- One frame in the part. -/
def holding (x : Frame) (s : State) : State := { s with frames := s.frames.insert 0 x, nextFrame := 1 }
/-- A dispatch entry that holds a micro-PC. -/
def dispatchTo (k pc : Nat) (s : State) : State := (s.wr (pENG 0) F.ENG_DISPATCH_VALID 1 k).wr (pENG 0) F.ENG_DISPATCH_PC pc k

theorem met_FrameIntakeCompletes :
    (∀ st, st = lDOWN ∨ st = lUP → ∀ s, s = linkIs 0 st running_ → pinsTested s = false ∧ (fecCount 0 (1, 0) s).inState (pPORT (portRegion 0)) .run = true
        ∧ (fecCount 0 (1, 0) s).link_ 0 = st ∧ ((fecCount 0 (1, 0) s).port 0).rx = none)
    ∧ (∀ s x, s = holding frame0 running_ → x = parseFrame (parserIn s 0 frame0) → s.frames.find? 0 = some frame0 ∧ frame0.stage = .received
        ∧ s.inState (pPRS 0) .run = true ∧ parserHolds s frame0 = false ∧ parsedBefore s 0 frame0 = true ∧ x.more = false ∧ x.mal = none ∧ x.slow = none)
    ∧ (∀ s x, x = { frame0 with stage := .crossing, src := .twin } → s = holding x running_ → s.frames.find? 0 = some x ∧ x.stage = .crossing
        ∧ stateIn s pXBAR [.ready, .run] = true ∧ twinTaken s x.region = true)
    ∧ (∀ s x, x = { frame0 with stage := .retired, verdict := { kind := .queue 5 } } → s = holding x running_ → s.frames.find? 0 = some x ∧ x.stage = .retired
        ∧ admitTurn s 0 x = true ∧ blocksTake s x = true ∧ headStored s x = true)
    ∧ (∀ s, s = linkIs 49 lUP running_ → pinsTested s = false ∧ s.link_ (48 + 1) ≠ lDISABLED ∧ s.portUp (48 + 1) = true)
    ∧ (∀ s, s = linkIs 48 lDOWN running_ → s.link_ (48 + 0) = lDOWN)
    ∧ (∀ s x, x = { frame0 with stage := .parsed } → s = dispatchTo (dispatchIdx x) 40 (holding x running_) → dispatching s 0 = true ∧ s.eng.due.entries = []
        ∧ pickEngine s 0 = some (0, 0) ∧ pickFrame s 0 = some (0, 0, x) ∧ s.rdB (pENG 0) F.ENG_DISPATCH_VALID (dispatchIdx x) = true ∧ 0 < 8)
    ∧ (∀ s : State, s = { dispatchTo 12 40 running_ with eng := { (dispatchTo 12 40 running_).eng with due := ⟨[(3, 1, 7)]⟩ } } → dispatching s 0 = true
        ∧ s.eng.due.entries.find? (fun (e : Nat × Nat × Nat) => e.1 / 8 = 0) = some (3, 1, 7) ∧ pickEngine s 0 = some (0, 0)
        ∧ s.rdB (pENG 0) F.ENG_DISPATCH_VALID 12 = true) := by
  refine ⟨?_, ?_, ?_, ?_, ?_, ?_, ?_, ?_⟩
  · rintro st (rfl | rfl) s rfl <;> decide +kernel
  all_goals (first | (rintro s x rfl rfl; decide +kernel) | (rintro s rfl; decide +kernel))

/-! ### Tables (R117 to R156) -/

/-- A context with a lookup of a kind in flight under tag 3. -/
def looking (k : LookKind) : State :=
  { running_ with eng := { running_.eng with ctx := ⟨[(0, { busy := true, tags := List.replicate 3 {} ++ [{ st := .busy, kind := k, key := 7 }] })]⟩ } }
/-- A request of the insert sequencer. -/
def seq0 (ins : Bool) : SeqReq := ⟨ins, 7, 0, 9, false, false, none, 0, 0, false, false⟩

theorem met_TableCommandsComplete :
    cmdCode ready (pPRS 0) 1 (isBlk (pPRS 0) .prs && 0 = 0 && nodeOk (stagedNode ready (pPRS 0))) (stateIn ready (pPRS 0) [.ready, .run]) = rDONE
    ∧ (running_.inState (pPRS 0) .run = true ∧ cmdCode running_ (pPRS 0) 1 (isBlk (pPRS 0) .prs && 63 < 64) true = rDONE)
    ∧ (ready.inState (pPRS 0) .run = false ∧ cmdCode ready (pPRS 0) 1 (isBlk (pPRS 0) .prs && 63 < 64) (stateIn ready (pPRS 0) [.ready]) = rDONE)
    ∧ (∀ s k, k = (⟨0x42, 5, 1, [9, 1, 0, 0]⟩ : RunCmd) → s = busyWith (pPRS 0) k running_ → (s.page (pPRS 0)).cmd = some k ∧ k.op = 0x42 ∧ (k.ops[2]?).getD 0 = 0
        ∧ maskedRoutines s 0 0 = [])
    ∧ (∀ k ∈ [LookKind.em 3 2, .lpm, .tree 63], ((outstanding (looking k) 0 0 3).map (·.kind)) = some k)
    ∧ (∀ b, ∀ s : State, s = { running_ with tab := { running_.tab with seqQ := [seq0 b] } } → s.tab.seqQ = seq0 b :: [] ∧ (seq0 b).insert = b)
    ∧ (∀ s : State, s = running_.wr (pLKP 0) F.LKP_AGE_CFG_AGER_EN 1 → s.tab.agerReads = [] ∧ s.rdB (pLKP 0) F.LKP_AGE_CFG_AGER_EN = true)
    ∧ (∀ s : State, s = { running_ with tab := { running_.tab with agerReads := [⟨5, 9⟩] } } → s.tab.agerReads = [⟨5, 9⟩]
        ∧ (agerCompare ⟨5, 9⟩ { s with tab := { s.tab with agerReads := [] } }).rdB (pLKP 0) F.LKP_AGE_CFG_AGER_EN = false)
    ∧ (cmdCode ready (pLKP 0) 1 (isBlk (pLKP 0) .lkp && 0 = 0 && !mateBlocks (seqDrain ready) (pLKP 0) true) (stateIn ready (pLKP 0) [.ready, .run]) = rDONE
        ∧ (emInsert (stagedWidth ready (pLKP 0)) (stagedKey ready (pLKP 0)) (stagedAction ready (pLKP 0)) (ready.rdB (pLKP 0) F.LKP_ACT_HI_STATIC)
            (ready.rdB (pLKP 0) F.LKP_ACT_HI_MATE) (searched (pLKP 0) [] ready)).1.isSome = true)
    ∧ (∀ s, s = (emInsert 0 0 9 false false ready).2 → cmdCode s (pLKP 0) 1 (isBlk (pLKP 0) .lkp && 0 = 0 && !mateBlocks (seqDrain s) (pLKP 0) false)
          (stateIn s (pLKP 0) [.ready, .run]) = rDONE
        ∧ (emDelete (stagedWidth s (pLKP 0)) (stagedKey s (pLKP 0)) (searched (pLKP 0) [] s)).1.isSome = true)
    ∧ (∀ s, s = (emInsert 0 0 9 false false ready).2 → ∀ l ∈ (s.tab.groups.entries.map (·.1)),
        cmdCode (s.wr (pLKP 0) F.LKP_CMD_ARG_LOCATION l) (pLKP 0) 1 (isBlk (pLKP 0) .lkp && 0 = 0
          && (s.wr (pLKP 0) F.LKP_CMD_ARG_LOCATION l).tab.groups.has ((s.wr (pLKP 0) F.LKP_CMD_ARG_LOCATION l).rd (pLKP 0) F.LKP_CMD_ARG_LOCATION))
          (stateIn (s.wr (pLKP 0) F.LKP_CMD_ARG_LOCATION l) (pLKP 0) [.ready, .run]) = rDONE)
    ∧ cmdCode ready (pLKP 0) 1 (isBlk (pLKP 0) .lkp && 0 = 0) (stateIn ready (pLKP 0) [.ready, .run]) = rDONE
    ∧ (∀ s : State, s = ready.wr (pLKP 0) F.LKP_LPM_META_PLEN 32 → cmdCode s (pLKP 0) 1 (isBlk (pLKP 0) .lkp && 0 = 0 && lpmOk s (s.rd (pLKP 0) F.LKP_LPM_IDX_INDEX)
          (stagedPrefix s (pLKP 0)).plen (stagedPrefix s (pLKP 0)).fam (stagedPrefix s (pLKP 0)).key) (stateIn s (pLKP 0) [.ready, .run]) = rDONE
        ∧ (stagedPrefix s (pLKP 0)).plen ≠ 0xFF)
    ∧ (3 < 4 ∧ isStandby ready = false ∧ cmdCode ready (pLKP 0) 1 true (stateIn ready (pLKP 0) [.ready, .run]) = rDONE) := by
  refine ⟨?_, ?_, ?_, ?_, ?_, ?_, ?_, ?_, ?_, ?_, ?_, ?_, ?_, ?_⟩
  all_goals (first | decide +kernel | (rintro s x rfl rfl; decide +kernel) | (rintro s rfl; decide +kernel) | (rintro b s rfl; cases b <;> decide +kernel))

/-! ### Micro-instructions (R159 to R192) -/

/-- The plainest micro-instruction of an operation; BSWAP takes two bytes. -/
def plain (op : Nat) : MI :=
  { cls := BitVec.ofNat 4 (op / 16), func := BitVec.ofNat 4 op, dst := 0, srcA := 0, srcB := 0, mod := if op = 0x22 then 1 else 0, imm := 0, cond := 0, setf := 0
    rsvHi := 0, target := 0, fofs := 0, fwid := 0, rsvLo := 0 }
/-- The operations of R185 to R192. -/
def operations : List Nat := (List.range 256).filter (fun op => (opUse op).isSome)
/-- Context 0 of engine 0 about to run a micro-instruction, with a frame. -/
def about (mi : MI) (x : Ctx) : State :=
  { holding { frame0 with stage := .running } running_ with
    eng := { running_.eng with store := ⟨[(0, (miEncode mi).toNat)]⟩, ctx := ⟨[(0, { x with busy := true, frame := some 0 })]⟩ } }
/-- Whether a context may issue its micro-instruction, and it is of an operation. -/
def mayIssue (s : State) (e c op : Nat) : Bool :=
  let x := s.ctx e c
  let mi := miDecode (csWord s (engRegion e) x.pc)
  x.busy && !x.halted && s.inState (pENG (engRegion e)) .run && x.pc ≤ maxPc && csGood s (engRegion e) x.pc && mi.opcode = op && mi.legal
    && x.slots + opSlots op ≤ s.rd (pENG (engRegion e)) F.ENG_CTRL_MAX_STEPS && (!needsFrame op || x.frame.isSome)
    && (match operands s e c x mi with | .ok _ => true | .error _ => false)
    && nextTurn s e = some c && (stalls s e x mi c).isNone && !captureDue s e

/-- `mayIssue` is what `Issues` asks for. -/
theorem issues_of {s : State} {e c op : Nat} (h : mayIssue s e c op = true) : ∃ mi a b x, Issues s e c op mi a b x := by
  simp only [mayIssue, Bool.and_eq_true, decide_eq_true_eq, Bool.not_eq_true', Bool.or_eq_true] at h
  obtain ⟨⟨⟨⟨⟨⟨⟨⟨⟨⟨⟨⟨h1, h2⟩, h3⟩, h4⟩, h5⟩, h6⟩, h7⟩, h8⟩, h9⟩, h10⟩, h11⟩, h12⟩, h13⟩ := h
  cases hb : operands s e c (s.ctx e c) (miDecode (csWord s (engRegion e) (s.ctx e c).pc)) with
  | error q => rw [hb] at h10; cases h10
  | ok p =>
    obtain ⟨a, b, x⟩ := p
    refine ⟨_, a, b, x, h1, h2, h3, h4, h5, rfl, h6, h7, h8, fun hn => ?_, hb, h11, Option.isNone_iff_eq_none.mp h12, h13⟩
    rcases h9 with h | h
    · rw [hn] at h; cases h
    · exact h

/-- Every operation can issue (the hypotheses of the statements on operations). -/
theorem met_operations_issue : ∀ op ∈ operations, mayIssue (about (plain op) {}) 0 0 op = true := by decide +kernel

theorem met_AluOperationsRetire : ∀ op ∈ List.range' 0x10 16, ∃ mi a b x, Issues (about (plain op) {}) 0 0 op mi a b x :=
  fun op h => issues_of (met_operations_issue op (by revert h op; decide +kernel))

theorem met_FieldOperationsRetire : ∀ op ∈ List.range' 0x20 6, ∃ mi a b x, Issues (about (plain op) {}) 0 0 op mi a b x :=
  fun op h => issues_of (met_operations_issue op (by revert h op; decide +kernel))

theorem met_AluResultsAreWordArithmetic : 2 ^ 64 - 1 < 2 ^ 64 ∧ (aluAdd (2 ^ 64 - 1) 1).c = true ∧ (aluSub 0 1).c = false ∧ (aluAdd (2 ^ 63 - 1) 1).v = true := by
  decide

theorem met_StagingOperationsRetire :
    (windowRead frame0 0 ((plain 0x30).mod.toNat % 8 + 1)).isOk = true
    ∧ (∀ e ∈ [Edit.write 0 (beBytes 1 0), .insert 0 (beBytes 1 0), .delete 0 1], (stageEdit frame0 0 (match e with | .insert _ _ => 0 | _ => 1) e {}).isOk = true)
    ∧ (windowRead frame0 (0 / 8) 1).isOk = true
    ∧ (∀ m < 8, (setVerdict m 0 {}).isSome = true)
    ∧ (0 + (plain 0x61).imm.toNat ≤ 524287 ∧ ({} : Ctx).incs.length < 8 ∧ ({} : Ctx).scr.length < 8)
    ∧ (about (plain 0x30) {}).frames.find? 0 = some { frame0 with stage := .running } := by
  decide +kernel

/-- A context whose tag 0 holds an answer. -/
def answered : Ctx := { tags := { st := .done, result := 9, hit := true } :: List.replicate 7 {} }

theorem met_LookupOperationsRetire :
    (∀ op ∈ [0x50, 0x51, 0x52], ∀ s, s = about (plain op) {} → ((s.ctx 0 0).tag 0).st = .free ∧ poolUsed s 0 < 16 ∧ mayIssue s 0 0 op = true)
    ∧ (∀ s, s = about (plain 0x53) answered → ((s.ctx 0 0).tag 0).st = .done ∧ mayIssue s 0 0 0x53 = true)
    ∧ (∀ s, s = about { plain 0x54 with imm := 1 } answered → mayIssue s 0 0 0x54 = true ∧ maskTags 1 = [0]
        ∧ ((s.ctx 0 0).tag 0).st ≠ .busy ∧ ((s.ctx 0 0).tag 0).st ≠ .fault) := by
  refine ⟨?_, ?_, ?_⟩
  · intro op h s hs
    subst hs
    revert op
    decide +kernel
  all_goals (rintro s rfl; decide +kernel)

theorem met_ControlOperationsRetire :
    (∀ s, s = dispatchTo (16 + 3) 77 (about (plain 0x03) {}) → mayIssue s 0 0 0x03 = true ∧ (s.ctx 0 0).inTrap = false ∧ trapVec s 0 3 = some 77)
    ∧ (about (plain 0x04) {}).rdB (pENG (engRegion 0)) F.ENG_CTRL_BRK_EN = false
    ∧ (∀ s, s = about { plain 0x05 with cond := 1 } { stack := [1, 2, 3] } → mayIssue s 0 0 0x05 = true ∧ condHolds 1 (s.ctx 0 0) = true ∧ (s.ctx 0 0).stack.length < 4)
    ∧ (∀ s, s = about { plain 0x05 with cond := 2 } {} → mayIssue s 0 0 0x05 = true ∧ condHolds 2 (s.ctx 0 0) = false)
    ∧ (∀ s, s = about (plain 0x06) { stack := [8] } → mayIssue s 0 0 0x06 = true ∧ (s.ctx 0 0).inTrap = false ∧ (s.ctx 0 0).stack = 8 :: [])
    ∧ (∀ s q, q = (⟨1, 0, 0, 3, 4, 0, 0, List.replicate 16 0, [5]⟩ : TrapFrame) → s = about (plain 0x06) { stack := [8], inTrap := true, trap := some q } →
        mayIssue s 0 0 0x06 = true ∧ (s.ctx 0 0).inTrap = true ∧ (s.ctx 0 0).stack = [8] ∧ (s.ctx 0 0).trap = some q)
    ∧ (mayIssue (about (plain 0x07) {}) 0 0 0x07 = true ∧ 0 % 2 ^ 13 ≤ maxPc) := by
  refine ⟨?_, ?_, ?_, ?_, ?_, ?_, ?_⟩
  all_goals (first | decide +kernel | (rintro s x rfl rfl; decide +kernel) | (rintro s rfl; decide +kernel))

/-! ### The engines (R194 to R223) -/

theorem met_EngineCommandsComplete :
    (∀ s, s = about (plain 0x00) { slots := 256 } → (s.ctx 0 0).busy = true ∧ (s.ctx 0 0).halted = false ∧ s.inState (pENG (engRegion 0)) .run = true ∧ (s.ctx 0 0).pc ≤ maxPc
        ∧ s.rd (pENG (engRegion 0)) F.ENG_CTRL_MAX_STEPS < (s.ctx 0 0).slots + opSlots (miDecode (csWord s (engRegion 0) (s.ctx 0 0).pc)).opcode)
    ∧ (∀ t s : State, t = about (plain 0x00) {} → s = { t with eng := { t.eng with badPar := ⟨[(0, 1)]⟩ } } → csGood s (engRegion 0) (s.ctx 0 0).pc = false
        ∧ (csPeer (pcnt 0 0x0E s) (engRegion 0) (s.ctx 0 0).pc).isSome = true ∧ (s.ctx 0 0).checks < 2)
    ∧ (∀ s : State, s = { running_ with eng := { running_.eng with pcnt := ⟨[(3, 2 ^ 32)]⟩ } } → 3 < 8 ∧ 2 ^ 32 ≤ s.eng.pcnt.get 0 (8 * 0 + 3)
        ∧ ∀ a < 4, (s.wr (pENG (engRegion 0)) F.ENG_PCFG_OVF_ACT a 3).rd (pENG (engRegion 0)) F.ENG_PCFG_OVF_ACT 3 = a)
    ∧ (∀ t s : State, t = about (plain 0x00) {} → s = { t with eng := { t.eng with captures := [⟨0, 3, true, 0⟩], lastRet := ⟨[(0, 0, 40, false)]⟩ } } →
        s.eng.captures.find? (fun k => k.engine = 0) = some ⟨0, 3, true, 0⟩ ∧ s.eng.lastRet.find? 0 = some (0, 40, false) ∧ (s.ctx 0 0).busy = true
          ∧ (s.ctx 0 0).inTrap = false ∧ (s.ctx 0 0).halted = false ∧ (trapVec (dispatchTo (16 + 2) 77 s) 0 2).isSome = true)
    ∧ cmdCode running_ (pENG 0) 1 (isBlk (pENG 0) .eng && 0 = 0) (stateIn running_ (pENG 0) [.ready, .run, .fenced]) = rDONE
    ∧ (∀ s q, q = (⟨1, 0, 0, 3, 4, 0, 0, List.replicate 16 0, [5]⟩ : TrapFrame) → s = about (plain 0x00) { halted := true, trap := some q } →
        cmdCode s (pENG 0) 1 (isBlk (pENG 0) .eng && 0 < 128) (stateIn s (pENG 0) [.run] && (s.ctx (16 * pageRegion (pENG 0) + 0 % 16) (0 / 16)).halted) = rDONE
        ∧ (s.ctx (16 * pageRegion (pENG 0) + 0 % 16) (0 / 16)).trap = some q)
    ∧ (csWriteCode ready 0 4607 1 (2 ^ 32 - 1) = rDONE ∧ csWriteCode running_ 0 4096 1 5 = rDONE)
    ∧ (pageBlk (pENG 0) ≠ none ∧ gateCode ready (pENG 0) 0x040 .set 1 0 (injParRange ready 0) noCheck noBusy = rDONE)
    ∧ (∀ s : State, s = { running_ with eng := { running_.eng with samples := ⟨[(0, [6, 7])]⟩ } } → s.eng.samples.get [] 0 = 6 :: [7])
    ∧ (∀ s : State, s = (about (plain 0x00) { halted := true }).wr (pENG 0) F.ENG_DBG_SEL_WORD 16 → gateCode s (pENG 0) 0x068 .normal 1 5 noCheck (fun _ => dbgWritable s 0) noBusy = rDONE)
    ∧ cmdCode running_ (pENG 0) 1 (isBlk (pENG 0) .eng && 0 = 0) (stateIn running_ (pENG 0) [.ready, .run]) = rDONE
    ∧ (∀ w ∈ [View.normal, .set, .clear, .toggle], gateCode running_ (pENG 0) 0x200 w 1 5 noCheck noCheck noBusy = rDONE)
    ∧ (∀ w ∈ [View.normal, .set, .clear, .toggle], gateCode running_ (pENG 0) 0x3FC w 1 5 noCheck noCheck noBusy = rDONE) := by
  refine ⟨?_, ?_, ?_, ?_, ?_, ?_, ?_, ?_, ?_, ?_, ?_, ?_, ?_⟩
  all_goals (first | decide +kernel | (rintro s x rfl rfl; decide +kernel) | (rintro s rfl; decide +kernel))

/-! ### Buffers and queues (R225 to R305) -/

/-- The cord of frame 0 on billet 70,000 of region 1. -/
def corded (refs : Nat) : State :=
  { holding { frame0 with stage := .admitted, head := some 70000, region := 1 } running_ with
    buf := { running_.buf with link := ⟨[(70000, { alloc := true, head := true, last := true, owner := 0xFE })]⟩, head := ⟨[(70000, { refcnt := refs, complete := true })]⟩ } }

theorem met_BufferCommandsComplete :
    (∀ n ∈ [1, 2, 254, 255], ∀ x : Frame, x = { frame0 with stage := .admitted, head := some 70000, region := 1 } → 70000 / 65536 = 1 ∧ ((corded n).link 70000).alloc = true
        ∧ ((corded n).link 70000).owner = 0xFE ∧ ((corded n).headW 70000).dead = false ∧ ((corded n).headW 70000).refcnt = n
        ∧ (corded n).frames.entries.find? (fun (e : Nat × Frame) => e.2.head = some 70000) = some (0, x) ∧ (corded n).frames.find? 0 = some x ∧ x.head = some 70000
        ∧ billetRegion 70000 = 1)
    ∧ (70000 / 65536 = 1 ∧ billetRegion 70000 = 1 ∧ (running_.link 70000).alloc = false
        ∧ running_.frames.entries.find? (fun (e : Nat × Frame) => e.2.head = some 70000) = none)
    ∧ stateIn running_ (pBUF 1) [.ready, .run] = true
    ∧ (∀ s : State, s = running_.wr (pBUF 1) F.BUF_CMD_PTR_PTR (256 * 70000) → isBlk (pBUF 1) .buf = true
        ∧ cmdCode s (pBUF 1) 1 (isBlk (pBUF 1) .buf && 0 = 0) (stateIn s (pBUF 1) [.ready, .run, .fenced]) = rDONE
        ∧ s.rd (pBUF (pageRegion (pBUF 1))) F.BUF_CMD_PTR_PTR = 256 * 70000 ∧ 70000 / 65536 = pageRegion (pBUF 1) ∧ (s.link 70000).head = false)
    ∧ (∀ s : State, s = { (corded 1).wr (pBUF 1) F.BUF_CMD_PTR_PTR (256 * 70000) with
          buf := { (corded 1).buf with link := ⟨[(70000, { alloc := true, head := true, last := true, owner := 0x91 })]⟩ } } → 1 < 8
        ∧ cmdCode s (pBUF 1) 1 (isBlk (pBUF 1) .buf && 0 = 0) (s.inState (pBUF 1) .run) = rDONE
        ∧ (freeCord (pageRegion (pBUF 1)) (s.rd (pBUF 1) F.BUF_CMD_PTR_PTR) (0x90 + 1) [] s).1 = rDONE)
    ∧ (∀ s : State, s = running_.wr (pBUF 1) F.BUF_CMD_TAG_TAG 0xFD → s.rd (pBUF 1) F.BUF_CMD_TAG_TAG = 0xFD ∧ 0xFD < 0xFE
        ∧ cmdCode s (pBUF 1) 1 (isBlk (pBUF 1) .buf && 0 = 0) (stateIn s (pBUF 1) [.ready, .run, .fenced]) = rDONE) := by
  refine ⟨?_, ?_, ?_, ?_, ?_, ?_⟩
  · rintro n hn x rfl
    revert n
    decide +kernel
  all_goals (first | decide +kernel | (rintro s rfl; decide +kernel))

theorem met_QueueCommandsComplete :
    (∀ s0, s0 = listQueue 5 running_ → ∀ s1, s1 = refreshOf 5 s0 →
        entryCode s1 (pQSC (s0.qRegion 5)) (wQUEUE 5) .queue (4 * 0) 1 (2 ^ 31) (queueRange s0 5 0) (queueFree s0 5) = rDONE)
    ∧ (refreshOf 5 running_).queue 5 = {} ∧ (({} : Queue).dstate ≠ .holding)
    ∧ (∀ s : State, s = running_.updQueue 5 (fun x => { x with dstate := .holding }) → ((refreshOf 5 s).queue 5).dstate = .holding ∧ wayUp (refreshOf 5 s) 5 = false)
    ∧ cmdCode running_ (pQSC 0) 1 (isBlk (pQSC 0) .qsc && running_.qRegion 5 = pageRegion (pQSC 0)) (stateIn running_ (pQSC 0) [.ready, .run, .fenced]) = rDONE
    ∧ (∀ s : State, s = running_.wr (pRPL 1) F.RPL_HMP_HDR_COUNT 64 → s.rd (pRPL 1) F.RPL_HMP_HDR_COUNT ≤ 64 ∧ 16383 < 16384
        ∧ cmdCode s (pRPL 1) 1 (isBlk (pRPL 1) .rpl) (stateIn s (pRPL 1) [.ready, .run]) = rDONE)
    ∧ cmdCode running_ (pRPL 1) 1 (isBlk (pRPL 1) .rpl && 16383 < 16384) (stateIn running_ (pRPL 1) [.ready, .run]) = rDONE
    ∧ cmdCode running_ (pRPL 0) 1 true (stateIn running_ (pRPL 0) [.ready, .run]) = rDONE
    ∧ (∀ s : State, s = running_.wr (pQSC 2) F.QSC_SAMPLE_CFG_SAMPLE_EN 1 → s.rdB (pQSC 2) F.QSC_SAMPLE_CFG_SAMPLE_EN = true ∧ stateIn s (pQSC 2) [.ready, .run] = true
        ∧ s.qscWin.get (0, 0) 2 = (0, 0) ∧ 0 ≠ 999 ∧ ({ s with qscWin := ⟨[(2, (999, 255))]⟩ } : State).qscWin.get (0, 0) 2 = (999, 255))
    ∧ (∀ s : State, s = running_.wr (pQSC 1) F.QSC_POL_IDX_IDX 8191 → s.rd (pQSC 1) F.QSC_POL_IDX_IDX = 8191 ∧ 8191 / 4096 = pageRegion (pQSC 1) ∧ (stagedPolicer s (pQSC 1)).mode < 2
        ∧ cmdCode s (pQSC 1) 1 (isBlk (pQSC 1) .qsc && 0 = 0) (stateIn s (pQSC 1) [.ready, .run, .fenced]) = rDONE)
    ∧ (∀ s : State, s = ((running_.wr (pQSC 1) F.QSC_POL_IDX_IDX 4096).wr (pQSC 1) F.QSC_POL_MODE_MODE 2).wr (pQSC 1) F.QSC_POL_PIR_PIR 5 → (stagedPolicer s (pQSC 1)).mode = 2
        ∧ (stagedPolicer s (pQSC 1)).cir ≤ (stagedPolicer s (pQSC 1)).pir ∧ (stagedPolicer s (pQSC 1)).cbs ≤ (stagedPolicer s (pQSC 1)).pbs)
    ∧ (∀ s : State, s = (running_.wr (pQSC 1) F.QSC_POL_MODE_MODE 2).wr (pQSC 1) F.QSC_POL_CIR_CIR 5 → (stagedPolicer s (pQSC 1)).mode = 2
        ∧ (stagedPolicer s (pQSC 1)).pir < (stagedPolicer s (pQSC 1)).cir)
    ∧ (∀ s : State, s = running_.wr (pQSC 1) F.QSC_SF_IDX_IDX 2047 → s.rd (pQSC 1) F.QSC_SF_IDX_IDX = 2047 ∧ 2047 / 1024 = pageRegion (pQSC 1)
        ∧ cmdCode s (pQSC 1) 1 (isBlk (pQSC 1) .qsc && 0 = 0) (stateIn s (pQSC 1) [.ready, .run, .fenced]) = rDONE) := by
  refine ⟨?_, ?_, ?_, ?_, ?_, ?_, ?_, ?_, ?_, ?_, ?_, ?_, ?_⟩
  all_goals (first | decide +kernel | (rintro s rfl; decide +kernel) | (rintro s rfl s1 rfl; decide +kernel))

/-! ### Scheduling and gates (R282 to R345) -/

/-- A copy of frame 0. -/
def copy0 : Copy := { frame := 0, gen := 0, at_ := 0, billets := 1, cut := false, mirror := none, marked := false, recov := none, late := false }
/-- Queue 5 of port 0 holds a copy of frame 0, and the port's link is UP. -/
def queued : State :=
  (linkIs 0 lUP (holding { frame0 with stage := .admitted, head := some 70 } formed0)).updQueue 5 (fun x => { x with front := [copy0] })
/-- A transmission of queue 5's copy on port 0. -/
def tx0 (b : Option (List Byte)) (cut : Option Nat) : Tx :=
  { queue := some 5, cls := 0, copy := copy0, bytes := b, ptp := [], sent := 0, frags := 0, startL := 0, startT := 0, cutAt := cut, stomp := false }

/-- Port 0 with preemption active and class 0 preemptable, sending a frame that still comes in, which is to be cut at 64 B. -/
def cutting : State :=
  ((((holding { frame0 with complete := false } queued).wr (pPORT 0) F.PORT_PREEMPT_PREEMPT_EN 1 0).wr (pPORT 0) F.PORT_PREEMPT_VERIFY_DIS 1 0).wr
    (pPORT 0) F.PORT_PREEMPT_EXPRESS_MASK 0xFE 0).updPort 0 (fun x => { x with cur := some (tx0 none (some 64)) })

theorem met_SchedulingCommandsComplete :
    (47 < 48 ∧ 80 ≤ 83 ∧ 83 < 84 ∧ 0 ≠ 3 ∧ stateIn running_ (pBUF (83 - 80)) [.ready, .run] = true ∧ 64 ≤ 71 ∧ 71 < 72)
    ∧ (∀ s : State, s = running_.wr (wQUEUE 5) F.Q_STARVE_WAIT_ROUNDS (running_.rd (pQSC 0) F.QSC_STARVE_CFG_STARVE_ROUNDS) → s.qPort 5 = 0
        ∧ s.rd (pQSC (portRegion 0)) F.QSC_STARVE_CFG_STARVE_ROUNDS ≤ s.rd (wQUEUE 5) F.Q_STARVE_WAIT_ROUNDS)
    ∧ (∀ a ∈ [64, 71], ∀ k < 2, ∀ s : State, s = { running_ with arbs := running_.arbs.put {} a { waits := ⟨[(k, running_.rd pXBAR F.XBAR_STARVE_STARVE_ROUNDS)]⟩ } } →
        64 ≤ a ∧ a < 72 ∧ s.rd pXBAR F.XBAR_STARVE_STARVE_ROUNDS ≤ (s.arb a).waits.get 0 k)
    ∧ (∀ (g : Want) (s : State), g = ⟨0, 0, 5⟩ → s = queued.updPort 0 (fun x => { x with arb := { x.arb with granted := some g } }) → (s.port 0).cur = none
        ∧ (s.port 0).arb.granted = some g ∧ standing s 0 g = true ∧ startFits s 0 g.req g.queue = true ∧ g.queue ≠ 65536 ∧ (s.queue g.queue).front = copy0 :: [])
    ∧ (∀ (g : Want) (s : State), g = ⟨0, 0, 65536⟩ → s = queued.updPort 0 (fun x => { x with held := some (tx0 (some (udp.take 60)) none), arb := { x.arb with granted := some g } }) →
        (s.port 0).cur = none ∧ (s.port 0).arb.granted = some g ∧ standing s 0 g = true ∧ startFits s 0 g.req g.queue = true ∧ g.queue = 65536
          ∧ (s.port 0).held = some (tx0 (some (udp.take 60)) none))
    ∧ (∀ (t : Tx) (s : State), t = tx0 (some (udp.take 60)) none → s = queued.updPort 0 (fun x => { x with cur := some t }) → (s.port 0).cur = some t
        ∧ endPoint s 0 t = some none)
    ∧ (∀ (t : Tx) (s : State), t = tx0 none (some 64) → s = cutting → (s.port 0).cur = some t ∧ endPoint s 0 t = some (some 64))
    ∧ shaperBusy running_ 3 = false
    ∧ (∀ s : State, s = (queued.updPort 0 (fun x => { x with cur := some (tx0 none none) })).wr (wQUEUE 5) F.Q_SCHED_SHAPED 1 → shaperBusy s 0 = true)
    ∧ (pageBlk (pQSC 0) ≠ none ∧ gateCode running_ (pQSC 0) 0x200 .normal 1 2047 noCheck noCheck (fun _ => (running_.page (pQSC 0)).commitPending) = rDONE)
    ∧ (∀ t, t = syncGate 47 (refreshPort 47 running_) → (t.port 47).cur = none)
    ∧ (∀ t s : State, s = queued.updPort 0 (fun x => { x with cur := some (tx0 (some (udp.take 60)) (some 64)) }) → t = syncGate 0 (refreshPort 0 s) →
        (t.port 0).cur = some (tx0 (some (udp.take 60)) (some 64)) ∧ gateOpen t 0 0 = true)
    ∧ (∀ t s : State, s = ((cutting.wr (pPORT 0) F.GATE_CTRL_GATE_EN 1 0).wr (pPORT 0) F.GATE_CTRL_LIST_LEN 1 0).updGate 0 (fun x => { x with bank0 := ⟨[(0, 1000)]⟩ }) →
        t = syncGate 0 (refreshPort 0 s) → (t.port 0).cur = some (tx0 none (some 64)) ∧ gateOpen t 0 0 = false ∧ endPoint t 0 (tx0 none (some 64)) = some (some 64))
    ∧ (∀ s : State, s = running_.updGate 9 (fun x => { x with takeover := some (some 0) }) → (s.gate 9).takeover = some (some 0) ∧ 0 ≤ s.sNow)
    ∧ gateListCode ready 9 1 1 0xFF000001 = rDONE := by
  refine ⟨?_, ?_, ?_, ?_, ?_, ?_, ?_, ?_, ?_, ?_, ?_, ?_, ?_, ?_, ?_⟩
  · decide +kernel
  · rintro s rfl; decide +kernel
  · rintro a ha k hk s rfl
    revert a
    match k, hk with
    | 0, _ => decide +kernel
    | 1, _ => decide +kernel
  all_goals (first | decide +kernel | (rintro s x rfl rfl; decide +kernel) | (rintro s rfl; decide +kernel))

/-! ### Peat and the streams (R340 to R391) -/

/-- The memory awake with channel 0 up. -/
def chUp : State := running_.wr pPEAT F.PEAT_CH_STAT_UP 1 0
/-- Queue 5 spilling with a copy of frame 0 in its BACK part, and with a record in its Peat part. -/
def spilling : State := (holding { frame0 with stage := .admitted, head := some 70 } (linkIs 0 lUP formed0)).updQueue 5 (fun x => { x with spill := true, back := [copy0] })
def record0 : PeatRec := ⟨0, udp, 0, none, false⟩
def inPeat : State := (linkIs 0 lUP formed0).updQueue 5 (fun x => { x with spill := true, peat := [record0], turves := [9] })
/-- A committed decoder over a window of 1 GiB that is ready. -/
def windowed : State :=
  (fun (s : State) => { s with hif := { s.hif with hdmSize := 0x50000000 } })
    (((running_.wr pHIF F.HIF_LINK_HDM_COMMITTED 1).wr pPEAT F.PEAT_CTRL_WIN_GIB 1).wr pPEAT F.PEAT_STATUS_WIN_READY 1)
def cap0 : CapCopy := ⟨copy0, false, 0, 0, 0⟩

theorem met_PeatCommandsComplete :
    (0 < 16 ∧ dramAwake chUp = true ∧ chUp.rdB pPEAT F.PEAT_CH_STAT_UP 0 = true ∧ (chUp.page pPEAT).commitPending = false)
    ∧ (∀ s : State, s = { running_ with peat := { running_.peat with acts := ⟨[(bankIdx 3 2, [(9, 100000)])]⟩ } } → (9, 100000) ∈ s.peat.acts.get [] (bankIdx 3 2)
        ∧ s.rd pPEAT F.PEAT_RH_CFG_RH_TH ≤ 100000)
    ∧ (∀ x : Frame, x = { frame0 with stage := .admitted, head := some 70 } → spilling.inState pPEAT .run = true
        ∧ stateIn spilling (pQSC (spilling.qRegion 5)) [.ready, .run] = true ∧ fabricOpen spilling = true ∧ (spilling.queue 5).spill = true ∧ (spilling.queue 5).back = copy0 :: []
        ∧ spilling.frames.find? copy0.frame = some x ∧ oldGen spilling copy0 = false ∧ x.complete = true ∧ x.bad = false
        ∧ copy0.late = false ∧ readBad 0 = false ∧ readBad 2 = true)
    ∧ (inPeat.inState pPEAT .run = true ∧ stateIn inPeat (pQSC 0) [.ready, .run] = true ∧ fabricOpen inPeat = true ∧ startedRec inPeat 0 = none
        ∧ (inPeat.arb (88 + 0)).order (((knownQueues inPeat).filter (fun q => inPeat.qRegion q = 0 && mayDrain inPeat q)).map (fun q => (⟨inPeat.qClass q / 2, q, q⟩ : Want)))
            = ⟨0, 5, 5⟩ :: [] ∧ (inPeat.queue 5).peat = record0 :: [])
    ∧ (∀ s : State, s = { inPeat with peat := { inPeat.peat with started := ⟨[(0, 5, 0)]⟩ } } → s.inState pPEAT .run = true ∧ fabricOpen s = true
        ∧ startedRec s 0 = some (5, record0) ∧ drainUp s 5 = true)
    ∧ (∀ s : State, s = running_.wr pPEAT F.PEAT_CTRL_PATROL_EN 1 → s.rdB pPEAT F.PEAT_CTRL_PATROL_EN = true ∧ dramAwake s = true)
    ∧ gateCode ready pPEAT 0x040 .normal 1 0x180001 (winGibRange ready) (winGibState ready) noBusy = rDONE
    ∧ (∀ s : State, s = { running_ with peat := { running_.peat with zeroing := true } } → s.peat.zeroing = true ∧ s.rd pPEAT F.PEAT_CTRL_WIN_GIB = 0)
    ∧ (0x3FFFFFC0 = 0x3FFFFFFF / 64 * 64 ∧ windowed.rdB pHIF F.HIF_LINK_HDM_COMMITTED = true ∧ 0x3FFFFFC0 + 4096 + 64 ≤ windowed.hif.hdmSize ∧ winServed windowed = true ∧ fabricOpen windowed = true
        ∧ 0x3FFFFFC0 < windowBytes (windowed.rd pPEAT F.PEAT_CTRL_WIN_GIB) ∧ windowed.peat.poison.contains (0x3FFFFFC0 / 64) = false)
    ∧ (∀ s : State, s = running_.wr pPEAT F.PEAT_CMD_TURF_TURF (turfCount - 1) → s.rd pPEAT F.PEAT_CMD_TURF_TURF < turfCount
        ∧ cmdCode s pPEAT 1 (decide (0 = 0)) (stateIn s pPEAT [.ready, .run, .fenced]) = rDONE)
    ∧ cmdCode running_ pPEAT 1 (1 < 2 && (1 = 1 || running_.rd pPEAT F.PEAT_CMD_SEL_TAG != 0xFF)) (stateIn running_ pPEAT [.ready, .run, .fenced]) = rDONE
    ∧ (∀ t s : State, t = holding { frame0 with stage := .admitted, head := some 70 } (windowed.wr (pRPL 0) F.RPL_CAP_CTRL_EN 1) →
        s = { t with peat := { t.peat with captures := [cap0] } } → s.peat.captures = cap0 :: [] ∧ (s.frames.find? cap0.copy.frame).isSome = true ∧ oldGen s cap0.copy = false
        ∧ fabricOpen s = true ∧ winServed s = true ∧ s.rdB (pRPL 0) F.RPL_CAP_CTRL_EN = true ∧ s.rd (pRPL 0) F.RPL_MIR_B_TRUNC cap0.session = 0
        ∧ s.rd (pRPL 0) F.RPL_CAP_WPTR_WPTR + (16 + (captureBytes cap0 frame0).length + 63) / 64 ≤ 64 * s.rd (pRPL 0) F.RPL_CAP_SIZE_TURVES) := by
  refine ⟨?_, ?_, ?_, ?_, ?_, ?_, ?_, ?_, ?_, ?_, ?_, ?_⟩
  all_goals (first | decide +kernel | (rintro s x rfl rfl; decide +kernel) | (rintro s rfl; decide +kernel))

/-- Recovery entry 3 of stream 9 over queues 5 and 6, with an early copy of number 2 at the head of queue 5. -/
def entry3 : State :=
  (((running_.wr (wRECOV 3) F.REC_VALID 1).wr (wRECOV 3) F.REC_STREAM 9).wr (wRECOV 3) F.REC_QUEUE 5).wr (wRECOV 3) F.REC_TWIN_Q 6
def early3 : State :=
  (fun (s : State) => { s with recov := s.recov.put {} 3 { holdAt := some 0 } })
    ((holding { frame0 with stage := .admitted, handle := some 9, seq := some 2 } (entry3.wr (wRECOV 3) F.REC_TAKE_ANY 0)).updQueue 5 (fun x => { x with front := [copy0] }))

theorem met_StreamCommandsComplete :
    ((early3.rec_ 3).holdAt = some 0 ∧ early3.rdB (wRECOV 3) F.REC_VALID = true ∧ stateIn early3 (recPage 3) [.fenced, .reinit] = false
        ∧ releasedHead early3 3 = some (5, 2, 2))
    ∧ (∀ s : State, s = { entry3 with recov := entry3.recov.put {} 3 { passed := 101 } } → s.rd (wRECOV 3) F.REC_LATENT_DIFF + (s.rec_ 3).discarded
        < (s.rec_ 3).passed * (s.rd (wRECOV 3) F.REC_PATHS - 1))
    ∧ (entry3.rec_ 3).passed * (entry3.rd (wRECOV 3) F.REC_PATHS - 1) ≤ entry3.rd (wRECOV 3) F.REC_LATENT_DIFF + (entry3.rec_ 3).discarded
    ∧ entryCode running_ (recPage 4095) (wRECOV 4095) .recov (4 * 1) 1 0x60005 (recRange running_ 4095 1) (recState running_ 4095 1) = rDONE
    ∧ entryCode running_ (pPORT (4095 / 1024)) (wIDENT 4095) .ident (4 * 1) 1 0x240000 (idRange running_ 4095) (idState running_ 4095 1) = rDONE
    ∧ entryCode running_ (pPORT (0 / 1024)) (wIDENT 0) .ident (4 * 0) 1 (4 * 2 ^ 28) (idRange running_ 0) (idState running_ 0 0) ≠ rDONE := by
  refine ⟨?_, ?_, ?_, ?_, ?_, ?_⟩
  all_goals (first | decide +kernel | (rintro s rfl; decide +kernel))

/-! ### Time (R392 to R434) -/

/-- Domain 0 in a state. -/
def domAt (st : Nat) (s : State) : State := s.wr pTIME F.TIME_STATUS_DOM_A_STATE st
/-- A PTP message of a type, one step or two, of domain 0 of the state, with sequence number 7. -/
def ptp (s : State) (ty flags : Nat) : List Byte :=
  ([s.rd pTIME F.DOM_CFG_SDO_ID 0 * 16 + ty, 2, 0, 44, s.rd pTIME F.DOM_CFG_DOMAIN_NUM 0, 0, flags, 0, 0, 0, 0, 0, 0, 0, 0, 0, 0, 0, 0, 0,
    0, 0, 0, 0, 0, 0, 0, 0, 0, 0, 0, 7, 0, 0, 0, 0, 0, 0, 0, 1, 0, 0, 0, 0] : List Nat).map (BitVec.ofNat 8)
def waiting7 : State := (domAt dLOCKED running_).updDom 0 (fun x => { x with wait := [⟨7, 0, 0, 0⟩] })

theorem met_TimeCommandsComplete :
    (∀ flags ∈ [0, 2], ∀ (m : List Byte) (s : State), s = domAt dFREERUN running_ → m = ptp s 0 flags → 0 ≤ s.now ∧ s.domState 0 ≠ dOFF ∧ domTakes s 0 0 0 m = true
      ∧ ((byteAt m 6).testBit 1 = false ∨ (byteAt m 6).testBit 1 = true))
    ∧ (∀ m, m = ptp waiting7 8 0 → domTakes waiting7 0 0 8 m = true ∧ (waiting7.dom 0).wait.find? (fun y => y.seqId = beAt m 30 2) = some ⟨7, 0, 0, 0⟩)
    ∧ (waiting7.dom 0).wait.find? (fun y => y.seqId = 7) = some ⟨7, 0, 0, 0⟩
    ∧ gateCode ready pTIME (0x118 + 0x40 * 1) .normal 1 9 noCheck noCheck noBusy = rDONE
    ∧ gateCode ready pTIME (0x130 + 0x40 * 1) .normal 1 9 (timeRange ready) (timeState ready) noBusy = rDONE
    ∧ gateCode ready pTIME (0x100 + 0x40 * 0) .set 1 0 (timeRange ready) (timeState ready) noBusy = rDONE
    ∧ gateCode ready pTIME (0xB00 + 0x20 * 7 + 4) .normal 1 9 (timeRange ready) (timeState ready) noBusy = rDONE
    ∧ (domAt dACQUIRING running_).domState 0 = dACQUIRING ∧ (domAt dLOCKED running_).domState 0 = dLOCKED
    ∧ (∀ s : State, s = (((domAt dLOCKED running_).wr pTIME F.TIME_SEL_AUTO_SEL 1).wr pTIME F.TIME_SEL_REVERT_EN 1).wr pTIME F.TIME_STATUS_SEL_DOM 1 →
        s.rd pTIME F.TIME_SEL_PREF = 0 ∧ s.rdB pTIME F.TIME_SEL_AUTO_SEL = true ∧ s.rdB pTIME F.TIME_SEL_REVERT_EN = true ∧ s.selDom ≠ 0 ∧ s.domState 0 = dLOCKED ∧ s.banked = false)
    ∧ (running_.phase running_.now = 0 ∧ running_.banked = false)
    ∧ (running_.time.onSerdes = false ∧ running_.inState pTIME .reset = false)
    ∧ (∀ s : State, s = running_.wr (pPORT 3) F.PORT_STATUS_RAW_LINK 1 11 → 47 < 48 ∧ s.raw 47 = true)
    ∧ (1 < 2 ∧ cmdCode running_ pTIME 1 true (stateIn running_ pTIME [.ready, .run]) = rDONE)
    ∧ cmdCode running_ pTIME 1 ((stagedAdj running_).natAbs ≤ 1000000000 * nsU) (stateIn running_ pTIME [.ready, .run]) = rDONE
    ∧ cmdCode running_ pTIME 1 (1 < 2) (stateIn running_ pTIME [.ready, .run]) = rDONE
    ∧ cmdCode running_ pTIME 1 (0 = 0) (!running_.inState pTIME .reset) = rDONE
    ∧ (domAt dLOCKED running_).domState 0 ≠ dOFF ∧ cmdCode (domAt dLOCKED running_) pTIME 1 true (stateIn (domAt dLOCKED running_) pTIME [.ready, .run]) = rDONE := by
  refine ⟨?_, ?_, ?_, ?_, ?_, ?_, ?_, ?_, ?_, ?_, ?_, ?_, ?_, ?_, ?_, ?_, ?_, ?_⟩
  · rintro f hf m s rfl rfl
    revert f
    decide +kernel
  all_goals (first | decide +kernel | (rintro s rfl; decide +kernel))

/-- Output 0 and trigger 0 enabled, to fire once. -/
def timed : State :=
  (((running_.wr pTIME F.TOUT_CFG_EN 1 0).wr pTIME F.TOUT_CFG_MODE 0 0).wr pTIME F.TRIG_CFG_EN 1 0).wr pTIME F.TRIG_CFG_MODE 0 0
/-- The pulse input enabled on rising edges without a filter. -/
def ppsIn : State := ((running_.wr pTIME F.PPS_IN_CFG_EN 1).wr pTIME F.PPS_IN_CFG_FILT 0).wr pTIME F.PPS_IN_CFG_EDGE 0

theorem met_ModelAndPulseCommandsComplete :
    (running_.inState pTIME .reset = false ∧ running_.banked = false)
    ∧ learning running_ = false
    ∧ learning (domAt dLOCKED running_) = true
    ∧ (running_.wr pTIME F.BANK_CFG_TEMP_SRC 1).rdB pTIME F.BANK_CFG_TEMP_SRC = true
    ∧ (∀ k < 2, ∀ s s1 : State, s = (running_.wr pTIME F.TIME_STATUS_BANKED 1).wr pTIME F.BANK_LIMIT_PPS_SQ_EXP k →
        s1 = withLine 326 (fun s => s.setF pTIME F.BANK_STATUS_EXPIRED) (syncElapsed s) →
        s.banked = true ∧ (s1.rdB pTIME F.BANK_LIMIT_PPS_SQ_EXP = true ∨ s1.rdB pTIME F.BANK_LIMIT_PPS_SQ_EXP = false))
    ∧ cmdCode running_ pTIME 1 (0 = 0) (!running_.inState pTIME .reset) = rDONE ∧ -(2 ^ 31) ≤ running_.time.model.c0 ∧ running_.time.model.c0 < 2 ^ 31
    ∧ cmdCode running_ pTIME 1 (0 = 0) (stateIn running_ pTIME [.ready, .run] && !running_.banked) = rDONE
    ∧ cmdCode running_ pTIME 1 (0 = 0) (stateIn running_ pTIME [.ready, .run]) = rDONE
    ∧ (0 + ppsIn.rd pTIME F.PPS_IN_CFG_FILT * 4 * nsU ≤ ppsIn.now ∧ ppsIn.rdB pTIME F.PPS_IN_CFG_EN = true ∧ true ≠ ppsIn.rdB pTIME F.PPS_IN_CFG_EDGE
        ∧ ppsIn.time.ppsInAt = none ∧ ppsIn.rd pTIME F.DOM_CFG_SRC 0 ≠ 1 ∧ ppsIn.rd pTIME F.DOM_CFG_SRC 1 ≠ 1)
    ∧ (∀ s : State, s = { ppsIn with time := { ppsIn.time with ppsInAt := some 0 } } → 0 + s.rd pTIME F.PPS_IN_CFG_FILT * 4 * nsU ≤ s.now ∧ s.rdB pTIME F.PPS_IN_CFG_EN = true
        ∧ true ≠ s.rdB pTIME F.PPS_IN_CFG_EDGE ∧ s.time.ppsInAt = some 0 ∧ 0 < 0 + 900000000 * nsU)
    ∧ (∀ s : State, s = (running_.wr pTIME F.PPS_OUT_CFG_EN 1).wr pTIME F.PPS_OUT_CFG_SQ_NOLOCK 0 → s.rdB pTIME F.PPS_OUT_CFG_EN = true
        ∧ s.rdB pTIME F.PPS_OUT_CFG_SQ_NOLOCK = false ∧ s.time.ppsHeld = false ∧ sharedDriven s = true ∧ ppsDue s = true)
    ∧ (toutPlan timed 0 = some ⟨0, none⟩ ∧ instantDue timed ⟨0, none⟩ (timed.toutS 0) = true)
    ∧ (∀ s : State, s = ((running_.wr pTIME F.TIN_CFG_EN 1 3).wr pTIME F.TIN_CFG_EDGE 2 3).wr pTIME F.TIN_CFG_FILT 0 3 → 0 + s.rd pTIME F.TIN_CFG_FILT 3 * 4 * nsU ≤ s.now
        ∧ s.rdB pTIME F.TIN_CFG_EN 3 = true ∧ s.rd pTIME F.TIN_CFG_EDGE 3 = 2 ∧ (s.time.tin.get [] 3).length < 16)
    ∧ (∀ s : State, s = { running_ with time := { running_.time with tin := ⟨[(3, [⟨true, 8⟩])]⟩ } } → s.time.tin.get [] 3 = ⟨true, 8⟩ :: [])
    ∧ running_.time.tin.get [] 3 = []
    ∧ (trigPlan timed 0 = some ⟨0, none⟩ ∧ instantDue timed ⟨0, none⟩ (timed.trigS 0) = true) := by
  refine ⟨?_, ?_, ?_, ?_, ?_, ?_, ?_, ?_, ?_, ?_, ?_, ?_, ?_, ?_, ?_, ?_, ?_, ?_⟩
  all_goals (first | decide +kernel | (rintro s rfl; decide +kernel) | (rintro k hk s s1 rfl rfl; interval_cases k <;> decide +kernel))

/-! ### The mate interface (R443 to R469) -/

/-- Direct mode, and arbitrated mode. -/
def mated : State := running_.wr pMATE F.MATE_CFG_MODE 1
def arbitrated : State := running_.wr pMATE F.MATE_CFG_MODE 2
/-- The mate link UP. -/
def linked : State := mated.wr pMATE F.MATE_STATUS_LINK_STATE lUP
/-- A claim at a stage. -/
def claimAt (c : ClaimStage) (s : State) : State := { s with mate := { s.mate with claim := c } }
/-- The single owner of direct mode. -/
def owner (s : State) : State := (s.wr pMATE F.MATE_STATUS_ROLE 3).wr pMATE F.MATE_STATUS_CLAIM_OUT 1
/-- A heartbeat word of SEQ 3 with its CRC. -/
def beat : Nat := 0xA5 * 2 ^ 56 + 3 * 2 ^ 48 + crc16 (0xA5 * 2 ^ 56 + 3 * 2 ^ 48)

theorem met_MateCommandsComplete :
    gateCode ready pMATE 0x040 .set 1 0 (fun l => nv ready pMATE l F.MATE_CFG_MODE != 3) (fun l => !changes ready pMATE l F.MATE_CFG_MODE || ready.inState pMATE .ready) noBusy = rDONE
    ∧ gateCode running_ pMATE (0x800 + 8 * 255 + 4 * 0) .set 1 0 (fwdRange running_ 255 0) (fwdState running_ 255 0) noBusy = rDONE
    ∧ (beating mated = true ∧ mateUp mated = false)
    ∧ (1 ≠ 0 ∧ watching mated = true ∧ bitsOf beat 63 56 = 0xA5 ∧ crc16 beat = beat % 65536 ∧ (mated.path 1).seq ≠ some (bitsOf beat 55 48))
    ∧ (beating linked = true ∧ mateUp linked = true ∧ watching linked = true ∧ (linked.path 0).seq ≠ some (bitsOf beat 55 48))
    ∧ crc16 (beat + 1) ≠ (beat + 1) % 65536
    ∧ (watching (mated.wr pMATE (pathF 1) 1) = true ∧ (mated.wr pMATE (pathF 1) 1).rdB pMATE (pathF 1) = true)
    ∧ (∀ s : State, s = { mated with mate := { mated.mate with failing := true } } → s.mate.failing = true)
    ∧ (mated.role ≠ 3 ∧ mated.mate.claim = .idle ∧ cmdCode mated pMATE 1 (0 = 0) (mated.inState pMATE .run && mated.mateMode = 1 && !mated.rdB pMATE F.MATE_EVENT_ID_CONFLICT) = rDONE)
    ∧ (∀ s, s = claimAt .waiting mated → s.mate.claim = .waiting ∧ s.inState pMATE .run = true ∧ s.rdB pMATE F.MATE_STATUS_CLAIM_IN = false
        ∧ peerClaims s = false ∧ s.mate.taking = false)
    ∧ (∀ s, s = claimAt .guard mated → s.mate.claim = .guard ∧ s.rdB pMATE F.MATE_STATUS_CLAIM_IN = false ∧ s.mate.taking = false)
    ∧ (∀ k < 2, ∀ s, s = ((claimAt .guard mated).wr pMATE F.MATE_STATUS_CLAIM_IN 1).wr pMATE F.MATE_STATUS_MATE_ID k → s.mate.claim = .guard
        ∧ s.rdB pMATE F.MATE_STATUS_CLAIM_IN = true ∧ (s.mateId = 0 ∨ s.mateId = 1) ∧ s.mate.taking = false)
    ∧ (mated.mate.taking = false ∧ cmdCode mated pMATE 1 (0 = 0) (mated.inState pMATE .run && mated.mateMode = 1) = rDONE)
    ∧ (∀ s1 : State, s1 = arbitrated.wr pMATE F.MATE_STATUS_ARB_GRANT 1 → arbitrated.rdB pMATE F.MATE_STATUS_ARB_GRANT = false ∧ s1.mateMode = 2 ∧ s1.inState pMATE .run = true)
    ∧ (∀ s s1 : State, s = arbitrated.wr pMATE F.MATE_STATUS_ARB_GRANT 1 → s1 = { s.wr pMATE F.MATE_STATUS_ARB_GRANT 0 with mate := { s.mate with barred := false } } →
        s.rdB pMATE F.MATE_STATUS_ARB_GRANT = true ∧ s1.mateMode = 2 ∧ s1.inState pMATE .run = true)
    ∧ (∀ s : State, s = mated.wr pMATE F.MATE_STATUS_PEER_STATE 1 → cmdCode s pMATE 1 (0 = 0) (s.inState pMATE .run && matePresent s) = rDONE)
    ∧ cmdCode mated pMATE 1 (0 = 0) (mated.inState pMATE .run) = rDONE
    ∧ (∀ k < 2, ∀ s s1 : State, s = ((mated.wr pMATE F.MATE_CFG_LINK_EN 1).wr pMATE F.MATE_STATUS_LINK_STATE lTRAINING).wr pMATE F.MATE_STATUS_PEER_STATE k →
        s1 = withFwd (fun s => s.wr pMATE F.MATE_STATUS_LINK_STATE lUP) s → s.rdB pMATE F.MATE_CFG_LINK_EN = true ∧ s.rd pMATE F.MATE_STATUS_LINK_STATE = lTRAINING
        ∧ stateIn s pMATE [.ready, .run] = true ∧ (s1.peerState ≠ 1 ∨ (s1.peerState = 1 ∧ s1.inState pMATE .run = true))) := by
  refine ⟨?_, ?_, ?_, ?_, ?_, ?_, ?_, ?_, ?_, ?_, ?_, ?_, ?_, ?_, ?_, ?_, ?_, ?_⟩
  all_goals first
    | decide +kernel
    | (rintro s rfl; decide +kernel)
    | (rintro s s1 rfl rfl; decide +kernel)
    | (rintro k hk s rfl; interval_cases k <;> decide +kernel) | (rintro k hk s s1 rfl rfl; interval_cases k <;> decide +kernel)

/-- Key 77 stands learned at its own bucket of way 0. -/
def learned77 : State :=
  { linked with tab := { linked.tab with groups := ⟨[(4 * bucketOf linked 0 0 77, ⟨77, 0, learnedAction 0, 0, false, false⟩)]⟩ } }

/-- A gate commit of port 0 with the values the registers hold and one list word. -/
def gates0 : List Byte := beBytes 4 0 ++ gateFields.flatMap (fun f => beBytes 4 (running_.rd (pPORT 0) f 0)) ++ beBytes 4 0xFF001000

theorem met_MateFramesComplete :
    (mateUp linked = true ∧ pinsTested linked = false ∧ linked.inState pMATE .run = true)
    ∧ (recKind (2 * 2 ^ 56) = 2 ∧ recKind (3 * 2 ^ 56) = 3 ∧ recKind (2 ^ 56) = 1)
    ∧ (singleOwner (owner linked) = true ∧ emFind (owner linked) 0 (recKey (2 * 2 ^ 56)) = none ∧ recPort (47 * 2 ^ 48) < 48)
    ∧ (∀ w, w = 77 * 2 ^ 64 + 5 * 2 ^ 48 → singleOwner (owner learned77) = true ∧ recPort w < 48
        ∧ (emFind (owner learned77) 0 (recKey w)).map (fun e => moves e.2.2 (recPort w)) = some true
        ∧ (emFind (owner learned77) 0 (recKey (77 * 2 ^ 64))).map (fun e => moves e.2.2 (recPort (77 * 2 ^ 64))) = some false)
    ∧ (emFind learned77 0 (ofBe (beBytes 8 77))).isSome = true ∧ (beBytes 8 77).length = 8
    ∧ (List.replicate 24 (0 : Byte)).length = 24
    ∧ (∀ (s : State) (d : List Byte), s = { linked with mate := { linked.mate with plReq := some (2, 5) } } → d = [1, BitVec.ofNat 8 (16 * linked.mateId + 2), 0, 0, 0, 0, 0, 0] →
        s.mate.plReq = some (2, 5) ∧ byteAt d 0 = 1 ∧ byteAt d 1 = 16 * s.mateId + 2 ∧ plSpeaks 1 (byteAt d 1) (ofBe (slice d 4 4)) = true)
    ∧ plSpeaks 1 0x12 10 = false
    ∧ (∀ d : List Byte, d = [0, 0x12, 0, 0, 0x40, 0, 0, 100] → byteAt d 0 = 0 ∧ plSpeaks 0 (byteAt d 1) (ofBe (slice d 4 4)) = true ∧ singleOwner (owner linked) = true)
    ∧ (gateCommit gates0 linked).1 = true ∧ (gateCommit [] linked).1 = false
    ∧ (beating mated = true ∧ mated.tab.touched = [])
    ∧ (∀ s : State, s = { mated with tab := { mated.tab with touched := [77] } } → 0 < s.tab.touched.length ∧ s.tab.touched.length ≤ 2000)
    ∧ mated.rd pMATE F.MATE_POL_MIR_POL_COUNT = 0
    ∧ (∀ l, l = newVals (owner mated) pMATE .mate 0x054 .normal (2 ^ 30 + 1000000) → plockCode (owner mated) 2 .normal (2 ^ 30 + 1000000) = rDONE
        ∧ plAcq l = true ∧ plRel l = false ∧ (2 ^ 30 + 1000000) % 2 ^ 20 ≠ 0 ∧ (2 ^ 30 + 1000000) % 2 ^ 20 ≤ 1000000)
    ∧ (∀ l, l = newVals (owner mated) pMATE .mate 0x054 .normal (2 ^ 29) → plockCode (owner mated) 2 .normal (2 ^ 29) = rDONE ∧ plAcq l = false ∧ plRel l = true) := by
  refine ⟨?_, ?_, ?_, ?_, ?_, ?_, ?_, ?_, ?_, ?_, ?_, ?_, ?_, ?_, ?_, ?_, ?_⟩
  all_goals (first | decide +kernel | (rintro s rfl; decide +kernel) | (rintro s s1 rfl rfl; decide +kernel))

/-! ### The host interface (R488 to R522) -/

/-- Ring 3 of a kind, enabled, with two slots posted. -/
def ringed (kind : Nat) : State := ((running_.wr (wRING 3) F.RING_EN 1).wr (wRING 3) F.RING_KIND kind).wr (wRING 3) F.RING_HOST_IDX 2
/-- The host link up in a mode, with every function present. -/
def hostUp (mode : Nat) : State :=
  (fun (s : State) => { s with hif := { s.hif with present := 255 } }) (running_.wr pHIF F.HIF_LINK_LINK_MODE mode)
/-- Frame 0, complete, waits in slot 0 of ring 3. -/
def slotted : State := (fun (s : State) => { s with hif := { s.hif with slots := [⟨3, 0, copy0, 0, 0⟩] } }) (holding { frame0 with stage := .admitted } (ringed 0))

theorem met_HostCommandsComplete :
    ringCode (ringed 0) 3 3 0 3 = rDONE
    ∧ ringCode running_ 4095 1 0 64 = rDONE
    ∧ (rLOCKED ≠ rDONE ∧ ringCode (withPage pHIF (fun h => { h with lock := some ⟨3, 50⟩ }) running_) 4095 1 0 64 = rLOCKED)
    ∧ (∀ k < 2, ∀ s s1 : State, s = (fun (u : State) => { u with hif := { u.hif with waiting := [⟨3, copy0, 0, 0⟩] } }) (holding { frame0 with stage := .admitted } (ringed k)) →
        s1 = { s with hif := { s.hif with waiting := [] } } → s.hif.waiting.find? (fun c => crosses s c.copy.frame) = some ⟨3, copy0, 0, 0⟩ ∧ (ringOpen s1 3 0 = true ∨ ringOpen s1 3 0 = false))
    ∧ (slotted.hif.slots.find? (fun y => y.ring = 3) = some ⟨3, 0, copy0, 0, 0⟩ ∧ slotted.frames.find? copy0.frame = some { frame0 with stage := .admitted }
        ∧ frame0.complete = true ∧ crosses slotted copy0.frame = true ∧ frame0.bad = false ∧ readBad 0 = false ∧ readBad 2 = true ∧ frame0.served = false ∧ 64 ≤ 64 ∧ 63 < 64)
    ∧ (nextTx (ringed 1) = some 3 ∧ fabricOpen (ringed 1) = true ∧ 0 = (ringed 1).ringRd 3 F.RING_DEV_IDX ∧ descOk 9724 16383 1 7 0 = true ∧ descOk 9725 16383 1 7 0 = false)
    ∧ (∀ (s : State) (y : TxDone), y = ⟨3, 0, 0, 0, none⟩ → s = { running_ with hif := { running_.hif with dones := [y] } } →
        s.hif.dones.find? (fun y => y.ring = 3) = some y ∧ y.rec_ = none)
    ∧ (∀ (s s1 : State) (r : List Byte), r = List.replicate 16 7 → s = (fun (u : State) => { u with tab := { u.tab with notices := [(3, r)] } }) (ringed 2) →
        s1 = { s with tab := { s.tab with notices := [] } } → s.tab.notices = (3, r) :: [] ∧ ringOpen s1 3 2 = true ∧ r.length = 16)
    ∧ ringOpen (ringed 1) 3 1 = true
    ∧ (∀ (s : State) (x : HeldLine), x = ⟨3, 0, [(0, [5])]⟩ → s = { running_ with hif := { running_.hif with lines := [x] } } →
        s.hif.lines.find? (fun x => x.ring = 3 && x.idx = 0) = some x ∧ x.data ≠ [])
    ∧ cmdCode running_ pHIF 1 (0 = 0) (stateIn running_ pHIF [.ready, .run, .fenced]) = rDONE
    ∧ ((hostUp 1).rd pHIF F.HIF_LINK_LINK_MODE = 1 ∧ 0x10000000 % 2 ^ 28 = 0 ∧ windowBytes ((hostUp 1).rd pPEAT F.PEAT_CTRL_WIN_GIB) + 2 ^ 28 ≤ 0x10000000
        ∧ 0x10000001 % 2 ^ 28 ≠ 0)
    ∧ (∀ s : State, s = (hostUp 1).wr pHIF F.HIF_LINK_HDM_COMMITTED 1 → s.rdB pHIF F.HIF_LINK_HDM_COMMITTED = true ∧ s.inState pTIME .reset = false ∧ 0 < 63)
    ∧ ((hostUp 2).rd pHIF F.HIF_LINK_LINK_MODE = 2 ∧ fnPresent (hostUp 2) 7 = true ∧ (hostUp 2).inState pTIME .reset = false)
    ∧ gateCode ready pHIF (0x060 + 4 * 7) .set 1 0 (partitionRange ready 7) (fun _ => !ready.hif.msixEn.get false 7) noBusy = rDONE
    ∧ gateCode ready pHIF (0x100 + 0x20 * 1) .set 1 0 (fun l => nv ready pHIF l F.HIF_MGMT_CFG_MODE 1 != 3) (mgmtState ready 1) noBusy = rDONE
    ∧ ((hostUp 1).rd pHIF F.HIF_LINK_LINK_MODE ≠ 0 ∧ fnPresent (hostUp 1) 0 = true)
    ∧ running_.rd pHIF F.HIF_LINK_LINK_MODE = 0 := by
  refine ⟨?_, ?_, ?_, ?_, ?_, ?_, ?_, ?_, ?_, ?_, ?_, ?_, ?_, ?_, ?_, ?_, ?_, ?_⟩
  all_goals first
    | decide +kernel
    | (rintro s rfl; decide +kernel)
    | (rintro s y rfl rfl; decide +kernel)
    | (rintro s s1 y rfl rfl rfl; decide +kernel)
    | (rintro k hk s s1 rfl rfl; interval_cases k <;> decide +kernel)

/-! ### Interrupts (R523 to R537) -/

/-- Source 5 enabled to pin target 256 at priority 3, in a state. -/
def src5 (x : Src) : State :=
  (((running_.wr (wISRC 5) F.SRC_EN 1).wr (wISRC 5) F.SRC_TARGET 256).wr (wISRC 5) F.SRC_PRIO 3).wr pINT F.INT_PIN_CFG_PIN_MASK 0 |>.updSrc 5 (fun _ => x)
/-- Source 5 on the stack of target 256. -/
def stacked (x : Src) : State := setStack 256 [⟨5, 3⟩] (src5 x)
/-- The line of source 338 went from 1 to 0. -/
def fallen : State := running_.updSrc 338 (fun x => { x with line := true, pending := true })

theorem met_InterruptCommandsComplete :
    (srcLevel 5 = false ∧ srcConnected 5 = true ∧ (src5 {}).rdB (wISRC 5) F.SRC_EN = true ∧ (src5 {}).inState pINT .reset = false)
    ∧ ((fallen.src 338).line = true ∧ lineOf fallen 338 = false)
    ∧ nextSource (src5 { pending := true, count := 1 }) 256 = some 5
    ∧ (∀ s, s = stacked { active := true } → s.stack 256 = ⟨5, 3⟩ :: [] ∧ mayClaim s 256 7 = true ∧ (s.src 5).claimed = false)
    ∧ (∀ v ∈ [5, 6], ∀ s, s = stacked { active := true, claimed := true } → lockedBy s pINT 7 = false ∧ rangeOk s pINT .int (0x400 + 4 * 256) .normal v = true
        ∧ stateOk s pINT 7 .int (0x400 + 4 * 256) = true ∧ mayClaim s 256 7 = true ∧ s.stack 256 = ⟨5, 3⟩ :: [] ∧ (s.src 5).claimed = true
        ∧ v = nv s pINT (newVals s pINT .int (0x400 + 4 * 256) .normal v) F.INT_CLAIM_SOURCE 256)
    ∧ (running_.int.holdEnd.find? 5 = none
        ∧ ∀ e ∈ [0, 1], ({ running_ with int := { running_.int with holdEnd := ⟨[(5, e)]⟩ } } : State).int.holdEnd.find? 5 = some e ∧ (e = 0 → e ≤ running_.now) ∧ (e = 1 → running_.now < e))
    ∧ cmdCode running_ pINT 1 (257 ≤ 257) (stateIn running_ pINT [.ready, .run]) = rDONE
    ∧ (∀ l, l = sourceRange running_ 5 0 0x80030005 → entryCode running_ pINT (wISRC 5) .isrc (4 * 0) 1 0x80030005 l (sourceState running_ 5 0) = rDONE)
    ∧ entryCode running_ pINT (wISRC 5) .isrc 8 1 1 (sourceRange running_ 5 2 1) (sourceState running_ 5 2) = rDONE := by
  refine ⟨?_, ?_, ?_, ?_, ?_, ?_, ?_, ?_, ?_⟩
  all_goals first
    | decide +kernel
    | (rintro s rfl; decide +kernel)
    | (rintro v hv s rfl; revert v; decide +kernel)

theorem met_PriorityStacksRiseStrictly :
    nextSource (src5 { pending := true, count := 1 }) 256 = some 5
    ∧ running_.stack 256 = []
    ∧ (stacked { active := true }).stack 256 = ⟨5, 3⟩ :: []
    ∧ (∀ i ∈ [Instr.interruptDelivery 256, .interruptEvent 5, .levelDeassert 5, .intClaimRead 256 7 .normal, .intComplete 256 7 .normal 5, .holdoffExpiry 5, .stackClear pINT 7 256,
        .porstNAssert], (match step { stacked { active := true } with pending := [i] } with | .next _ => true | _ => false) = true)
    ∧ (∀ e ∈ (stacked { active := true }).stack 256, e.prio ≤ 15) := by
  decide +kernel

theorem met_stacksOk : (stacked { active := true }).stacksOk := by
  intro t
  by_cases h : t = 256
  · subst h; decide +kernel
  · have : (stacked { active := true }).stack t = [] := by
      show SMap.get [] (SMap.put [] (src5 { active := true }).int.prioStacks 256 [⟨5, 3⟩]) t = []
      rw [SMap.get_put_other _ _ _ h]; rfl
    rw [this]; decide

theorem met_EventsSetPending :
    running_.rdB (wISRC 5) F.SRC_EN = false
    ∧ ((src5 {}).rdB (wISRC 5) F.SRC_EN = true ∧ srcConnected 5 = true ∧ (src5 {}).inState pINT .reset = false)
    ∧ (running_.wr (wISRC 5) F.SRC_MASK 1).rdB (wISRC 5) F.SRC_MASK = true
    ∧ ((fallen.src 338).line = true ∧ lineOf fallen 338 = false ∧ (fallen.src 338).pending = true ∧ (fallen.src 338).active = false) := by
  decide +kernel

/-- The premise of the statement is met by its own right-hand side, and in a state where the source is ready. -/
theorem met_HighestPriorityIsDeliveredFirst :
    ∃ (s : State) (t : Nat) (r : Nat → Prop), (∀ m, r m ↔ s.rdB (wISRC m) F.SRC_EN = true ∧ s.rdB (wISRC m) F.SRC_MASK = false ∧ (s.src m).pending = true ∧ (s.src m).active = false
      ∧ s.rd (wISRC m) F.SRC_TARGET = t ∧ running s t < s.rd (wISRC m) F.SRC_PRIO + 1
      ∧ (∀ e, s.int.holdEnd.find? (m / 32) = some e → e ≤ s.now)
      ∧ s.rdB pINT F.INT_GLOBAL_HOLD_HOLD = false ∧ s.inState pINT .run = true
      ∧ (t < 256 → ∃ f, vecOwner s t = some f ∧ (s.hif.msix.get {} t).mask = false ∧ s.hif.fnMask.get false f = false ∧ s.hif.msixEn.get false f = true)
      ∧ (256 ≤ t → (s.rd pINT F.INT_PIN_CFG_PIN_MASK).testBit (t - 256) = false)) ∧ nextSource s t = some 5 :=
  ⟨src5 { pending := true, count := 1 }, 256, _, fun _ => Iff.rfl, by decide +kernel⟩

theorem met_ClaimsTakeTheTopEntry :
    (∀ s, s = stacked { active := true, count := 255 } → s.stack 256 = ⟨5, 3⟩ :: [] ∧ (s.src 5).claimed = false ∧ mayClaim s 256 7 = true ∧ 5 < 2048 ∧ 3 < 16 ∧ (s.src 5).count < 256)
    ∧ View.set ≠ .normal ∧ mayClaim running_ 256 8 = false ∧ running_.stack 256 = []
    ∧ (∀ s, s = stacked { active := true, claimed := true } → s.stack 256 = ⟨5, 3⟩ :: [] ∧ (s.src 5).claimed = true) := by
  refine ⟨?_, ?_, ?_, ?_, ?_⟩ <;> first | decide +kernel | (rintro s rfl; decide +kernel)

/-! ### The Ember domain, the ledger, SMBus and boot (R538 to R602) -/

/-- The smoulder state machine in a state, with the core voltage at 780 mV. -/
def smAt (st : Nat) (s : State) : State :=
  (fun (u : State) => { u with sns := { u.sns with vreq := some 780 } }) (s.wr pEMB F.EMB_STATUS_SM_STATE st)
def withPf (l : Bool) (s : State) : State := { s with emb := { s.emb with pfLevel := l } }

theorem met_EmberCommandsComplete :
    (withPf true running_).emb.pfLevel = true
    ∧ (∀ s s1 : State, s = running_.wr pEMB F.EMB_CTRL_PF_EN 1 → s1 = (withLine 338 (fun s => { s with emb := { s.emb with pfLevel := true } }) s).wr pEMB F.EMB_STATUS_PF_LEVEL 1 →
        s.emb.pfLevel = false ∧ s1.rdB pEMB F.EMB_CTRL_PF_EN = true ∧ s1.inState pEMB .run = true ∧ smState s1 = 0)
    ∧ (∀ s : State, s = { running_ with emb := { running_.emb with deferred := some .power } } → s.emb.deferred = some .power)
    ∧ (∀ s s1 : State, s = withPf true running_ → s1 = ({ s with emb := { s.emb with pfLevel := false, deferred := none } }.wr pEMB F.EMB_STATUS_PF_LEVEL 0).wr pEMB
        F.EMB_STATUS_WAKE_DEFERRED 0 → s.emb.deferred = none ∧ s.emb.pfLevel = true ∧ s1.rdB pEMB F.EMB_CTRL_WAKE_ON_PWR = true)
    ∧ (running_.emb.deferred = none ∧ running_.emb.pfLevel = false)
    ∧ (∀ l ∈ [true, false], ∀ s, s = withPf l (smAt 2 (running_.wr pEMB F.EMB_WATCH_EN 1 63)) → s.rdB pEMB F.EMB_WATCH_EN 63 = true ∧ smState s = 2 ∧ s.emb.pfLevel = l
        ∧ s.rdB pEMB F.EMB_CTRL_PF_OVERRIDE = false ∧ s.emb.deferred = none)
    ∧ (smState running_ = 0 ∧ cmdCode running_ pEMB 1 (0 = 0) (running_.inState pEMB .run) = rDONE)
    ∧ (∀ s, s = smAt 2 running_ → smState s = 2 ∧ s.emb.pfLevel = false ∧ cmdCode s pEMB 1 (0 = 0) (s.inState pEMB .run) = rDONE)
    ∧ (∀ s s1, s = smAt 1 running_ → s1 = smoulderHalt s → smState s = 1 ∧ s1.rd pEMB F.EMB_CTRL_SM_VCORE_MV < coreMv s1 ∧ s1.sns.failed = false)
    ∧ (∀ s : State, s = (fun (u : State) => { u with emb := { u.emb with vBefore := 800 } }) (smAt 3 running_) → smState s = 3 ∧ coreMv s < s.emb.vBefore ∧ s.sns.failed = false)
    ∧ (∀ x ∈ [none, some Wake.command], ∀ s s1 s2 : State,
        s = (fun (u : State) => { u with sns := { u.sns with vreq := some 600 }, emb := { u.emb with latched := x } }) (smAt 1 running_) → s1 = smoulderHalt s →
        s2 = (((s1.wr pEMB F.EMB_STATUS_SM_STATE 2).wr pEMB F.EMB_EVENT_ENTRY_SEEN 1).addSat pEMB F.EMB_EVENT_ENTRY_CNT).wr pEMB F.EMB_TIMES_LAST_ENTRY_US
          (min 65535 ((s1.now - s1.emb.since) / usU)) →
        smState s = 1 ∧ coreMv s1 ≤ s1.rd pEMB F.EMB_CTRL_SM_VCORE_MV ∧ s2.emb.latched = x)
    ∧ (smState (smAt 3 running_) = 3 ∧ (smAt 3 running_).emb.vBefore ≤ coreMv (smAt 3 running_)) := by
  refine ⟨?_, ?_, ?_, ?_, ?_, ?_, ?_, ?_, ?_, ?_, ?_, ?_⟩
  all_goals first
    | decide +kernel
    | (rintro s rfl; decide +kernel)
    | (rintro s s1 rfl rfl; decide +kernel)
    | (rintro l hl s rfl; revert l; decide +kernel)
    | (rintro x hx s s1 s2 rfl rfl rfl; revert x; decide +kernel)

/-- A partition of four sectors, time well after the hold-up was found good, and energy in it. -/
def ledgered (ok : Nat) : State :=
  (fun (u : State) => { u with time := { u.time with local_ := 100 * usU } })
    (((running_.wr pLDG F.LDG_PART_SECTORS 4).wr pLDG F.LDG_HU_STAT_E_MJ 65535).wr pLDG F.LDG_HU_STAT_HOLDUP_OK ok)
def rec0 : LdgRec := ⟨1, 0, [], false⟩
/-- The record of SEQ 1 in slot 0 of the partition. -/
def written : State :=
  (fun (u : State) => { u with ldg := { u.ldg with lastSeq := 1 } }) (flashApply ⟨false, recAddr (ledgered 1) 0, recordBytes (ledgered 1) rec0, true⟩ (ledgered 1))
def op0 (lg : Bool) : FlashOp := ⟨true, 0, [], lg⟩
def flashing (lg : Bool) (s : State) : State := setFlashOp (some (op0 lg)) s

theorem met_LedgerCommandsComplete :
    (running_.inState pLDG .run = true ∧ running_.ldg.queue.length < 16)
    ∧ (∀ k < 2, ∀ s : State, s = (fun (u : State) => { u with ldg := { u.ldg with queue := [rec0] } }) (ledgered k) → s.inState pLDG .run = true ∧ slotCount s ≠ 0
        ∧ s.ldg.wstate = .idle ∧ s.boot.flashOp = none ∧ s.boot.warm = none ∧ s.ldg.queue = rec0 :: []
        ∧ (mayStartOp s (recordNeeds s) = true ∨ mayStartOp s (recordNeeds s) = false))
    ∧ running_.inState pLDG .reset = false
    ∧ (∀ s : State, s = ledgered 0 → s.rdB pLDG F.LDG_HU_STAT_HOLDUP_OK = false)
    ∧ (∀ s1, s1 = flashFree (ledgerFail (setFlashOp none (flashTear (op0 true) running_))) → s1.boot.warm = none ∧ (flashing true running_).boot.flashOp = some (op0 true)
        ∧ (op0 true).ldg = true)
    ∧ (∀ s : State, s = (running_.wr pLDG F.LDG_CLR_BASE_BASE 524287).wr pLDG F.LDG_CLR_COUNT_COUNT 1 → s.rd pLDG F.LDG_CLR_BASE_BASE + s.rd pLDG F.LDG_CLR_COUNT_COUNT ≤ 524288
        ∧ cmdCode s pLDG 1 (0 = 0) (stateIn s pLDG [.ready, .run, .fenced]) = rDONE)
    ∧ (written.boot.flashOp = none ∧ cmdCode written pLDG 1 (0 = 0) (stateIn written pLDG [.ready, .run]) = rDONE
        ∧ (findRec written (written.rd pLDG F.LDG_RD_SEL_BACK)).isSome = true)
    ∧ ((flashing true running_).boot.flashOp.isSome = true ∧ cmdCode (flashing true running_) pLDG 1 (0 = 0) (stateIn (flashing true running_) pLDG [.ready, .run]) = rDONE)
    ∧ (∀ s : State, s = { running_ with ldg := { running_.ldg with wstate := .stopped } } → s.ldg.wstate = .stopped
        ∧ cmdCode s pLDG 1 (0 = 0) (s.inState pLDG .run) = rDONE)
    ∧ (lockedBy running_ pLDG 1 = false ∧ windowState running_ pLDG = true)
    ∧ (∀ s : State, s = { running_ with cnt := { running_.cnt with half := ⟨[(1, (7, 5))]⟩ } } → lockedBy s pLDG 1 = false ∧ windowState s pLDG = true
        ∧ s.cnt.half.find? 1 = some (7, 5)) := by
  refine ⟨?_, ?_, ?_, ?_, ?_, ?_, ?_, ?_, ?_, ?_, ?_⟩
  all_goals first
    | decide +kernel
    | (rintro s rfl; decide +kernel)
    | (rintro k hk s rfl; interval_cases k <;> decide +kernel)

theorem met_SmbusCommandsComplete :
    (0x7FFF : Nat).testBit 15 = false ∧ (0x8000 : Nat).testBit 15 = true ∧ running_.boot.flashOp = none ∧ (flashing true running_).boot.flashOp.isSome = true
    ∧ (∀ s : State, s = { running_ with ldg := { running_.ldg with smbSel := some (0, 7), smbRec := some [1] } } → s.ldg.smbSel = some (0, 7) ∧ s.ldg.smbRec = some [1])
    ∧ running_.ldg.smbRec = none ∧ singleOwner running_ = true ∧ singleOwner mated = false
    ∧ smbAlert { running_ with sns := { running_.sns with hot := true } } = true := by
  refine ⟨?_, ?_, ?_, ?_, ?_, ?_, ?_, ?_, ?_⟩ <;> first | decide +kernel | (rintro s rfl; decide +kernel)

/-- Boot's page READY, and every other page in RUN. -/
def bootReady : State := inSt [(pBOOT, .ready)] running_
/-- Loading from the host (R594) has begun: the length is given and the link up. -/
def loading : State :=
  (fun (u : State) => { u with hif := { u.hif with busMaster := ⟨[(0, true)]⟩, imgLen := 1024 } }) ((hostUp 1).wr pBOOT F.BOOT_STATUS_PHASE 9)

theorem met_BootCommandsComplete :
    (∃ b : Board, b.bootMode = 2) ∧ running_.boot.flashOp = none
    ∧ (7 < 8 ∧ 2 < 3 ∧ smState (flashing false bootReady) = 0 ∧ (flashing false bootReady).boot.flashOp.isSome = true
        ∧ cmdCode (flashing false bootReady) pBOOT 7 true ((flashing false bootReady).inState pBOOT .ready) = rDONE)
    ∧ (loading.rd pBOOT F.BOOT_STATUS_PHASE = 9 ∧ loading.rd pHIF F.HIF_LINK_LINK_MODE ≠ 0 ∧ loading.hif.busMaster.get false 0 = true ∧ 1024 ≤ loading.hif.imgLen
        ∧ loading.hif.imgLen ≤ 4194304)
    ∧ (bootReady.rdB pBOOT F.BOOT_STATUS_SAFE = false ∧ cmdCode bootReady pBOOT 7 (0 = 0) (bootReady.inState pBOOT .ready) = rDONE)
    ∧ (∀ s : State, s = bootReady.wr pBOOT F.BOOT_OTP_SEL_WORD 20 → s.rd pBOOT F.BOOT_OTP_SEL_WORD < 21 ∧ s.rd pBOOT F.BOOT_OTP_SEL_WORD ≠ 12
        ∧ s.rdB pBOOT F.BOOT_OTP_LOCK = false ∧ cmdCode s pBOOT 7 (0 = 0) (s.inState pBOOT .ready) = rDONE)
    ∧ bootReady.rd pBOOT F.BOOT_JTAG_FAIL_CNT < 8
    ∧ (∀ s : State, s = (fun (u : State) => { u with boot := { u.boot with flashSize := 2 ^ 24 } }) ((bootReady.wr pBOOT F.BOOT_FL_ADDR_FL_ADDR (2 ^ 24 - 4096)).wr
        pBOOT F.BOOT_FL_LEN_LEN 256) → ∀ a n, a = s.rd pBOOT F.BOOT_FL_ADDR_FL_ADDR → n = s.rd pBOOT F.BOOT_FL_LEN_LEN →
        cmdCode s pBOOT 7 (0 = 0) (s.inState pBOOT .ready) = rDONE ∧ a + n ≤ s.boot.flashSize ∧ a + 4096 ≤ s.boot.flashSize ∧ s.boot.flashOp = none ∧ s.boot.warm = none
        ∧ a % 4096 = 0 ∧ a % 256 + n ≤ 256 ∧ inPartition s a n = false ∧ inPartition s a 4096 = false)
    ∧ (∀ s, s = flashing false running_ → s.boot.flashOp = some (op0 false) ∧ (op0 false).ldg = false ∧ (op0 false).erase = true ∧ s.boot.warm = none
        ∧ (s.page pBOOT).cmd = none ∧ s.ldg.smbSel = none)
    ∧ (∀ k < 2, ∀ s : State, s = running_.wr pBOOT F.BOOT_JTAG_LOCKED k → s.rdB pBOOT F.BOOT_JTAG_LOCKED = (k = 1) ∧ s.rdB pBOOT F.BOOT_JTAG_DBG_OPEN = false) := by
  refine ⟨⟨⟨2, false, 0, 0, false, 0⟩, rfl⟩, ?_, ?_, ?_, ?_, ?_, ?_, ?_, ?_, ?_⟩
  all_goals first
    | decide +kernel
    | (rintro s rfl; decide +kernel)
    | (rintro s rfl a n rfl rfl; decide +kernel)
    | (rintro k hk s rfl; interval_cases k <;> decide +kernel)

/-- An image header that selects the owner's key. -/
def header0 : List Byte :=
  [0x53, 0x48, 0x49, 0x4D, 0, 1, 1, 0, 0, 0, 0, 0, 0, 0, 4, 0, 1] ++ List.replicate 1007 0
/-- The owner's key is enabled, and word 0 of its hash holds `k`. -/
def owned (k : Nat) : State := { loading with boot := { loading.boot with otpRead := ⟨[(0, k), (12, 1)]⟩ } }

/-- A header whose key's hash is not the one in the OTP (R591): whatever the hash function gives, it is not two different numbers. -/
theorem met_headers_refused : ∃ (s : State) (d : List Byte), s.rd pBOOT F.BOOT_STATUS_PHASE = 9 ∧ headerCode s ((d.take s.hif.imgLen).take 1024) = 3 := by
  have key : ∀ k < 2, Config.sha384 (slice header0 0x20 97) ≠ beBytes 48 (otpNum (owned k) 0 12) → headerCode (owned k) ((header0.take (owned k).hif.imgLen).take 1024) = 3 := by
    intro k hk h
    have e : (header0.take (owned k).hif.imgLen).take 1024 = header0 := by interval_cases k <;> decide +kernel
    rw [e]
    unfold headerCode
    rw [if_neg, if_neg, if_pos]
    · have : beAt header0 6 1 = 1 := by decide
      simp [this, h]
    · interval_cases k <;> decide +kernel
    · decide +kernel
  by_cases h : Config.sha384 (slice header0 0x20 97) = beBytes 48 (otpNum (owned 0) 0 12)
  · exact ⟨owned 1, header0, by decide +kernel, key 1 (by decide) (by rw [h]; decide +kernel)⟩
  · exact ⟨owned 0, header0, by decide +kernel, key 0 (by decide) h⟩

/-! ### The premises of the rules (R183 to R203, R285 to R306, R380, R400, R526 to R564) -/

theorem met_CountersAddModulo64 :
    (running_.counter 0 < 2 ^ 64 ∧ running_.inState pLDG .reset = false ∧ powered.inState pLDG .reset = true)
    ∧ (∀ s : State, s = (running_.wr pLDG F.LDG_CLR_BASE_BASE 524287).wr pLDG F.LDG_CLR_COUNT_COUNT 2 → 524288 < s.rd pLDG F.LDG_CLR_BASE_BASE + s.rd pLDG F.LDG_CLR_COUNT_COUNT
        ∧ lockedBy s pLDG 1 = false) := by
  refine ⟨?_, ?_⟩ <;> first | decide +kernel | (rintro s rfl; decide +kernel)

theorem met_ArbitersGrantInOrder : ∀ x ∈ [(⟨7, 0, 0⟩ : Want), ⟨0, 47, 5⟩], x.cls < 8 := by decide

theorem met_HashEqualsItsClosedForm : 0xFFFFFFFF < 2 ^ 32 := by decide

theorem met_WindowBytesReadBack : Memory.wf ⟨[(0, 5), (9, 7)]⟩ = true ∧ (5 ≤ 6 ∧ 6 < 5 + [(1 : Byte), 2].length) := by decide

theorem met_FlashProgramsClearBits : Flash.wf State.reset.boot.flash = true ∧ Flash.wf ⟨[(3, 0x7F)]⟩ = true := by decide

theorem met_DomainTimeIsContinuous : -(timeDen : Int) ≤ (running_.dom 0).rho ∧ (0 : Nat) ≤ 5 ∧ 0 < 2 ∧ 1 < 2 ∧ 1 ≠ 0 := by decide +kernel

/-- A policer of 100 units a tick, full at 1,500 bytes, that meters one frame of 1,000 bytes. -/
def policer0 : Policer := { mode := 1, cir := 100, cbs := 1500, pbs := 1500, tc := 1500 * 1024, tp := 1500 * 1024 }

theorem met_PolicersBoundGreenTraffic :
    (policer0.mode = 1 ∨ policer0.mode = 2) ∧ policer0.tc ≤ policer0.cbs * 1024 ∧ policer0.tp ≤ policer0.pbs * 1024
    ∧ (([(5, 1000), (9, 1000)] : List (Nat × Nat)).map (·.1)).Pairwise (· ≤ ·) ∧ (∀ a ∈ ([(5, 1000), (9, 1000)] : List (Nat × Nat)), policer0.at_ ≤ a.1)
    ∧ ([(5, 1000), (9, 1000)].foldl (fun (z : Policer × Nat) (a : Nat × Nat) =>
        let r := (z.1.fill a.1).meter a.2
        (r.2.2, if r.1 = .green then z.2 + a.2 else z.2)) (policer0, 0)).2 = 1000 := by
  decide

theorem met_ChargesRespectTheGuarantee : 103 < 104 ∧ useOf running_ 0 103 + 5 < 65536
    ∧ 0 < (useOf running_ 0 103 + 500 - gminOf running_ 0 103) - (useOf running_ 0 103 - gminOf running_ 0 103) := by decide +kernel

theorem met_EliminatorDeliversOnce :
    (∀ d : Int, d = toSigned 16 ((65535 + 65536 - 0) % 65536) → -64 ≤ d ∧ d ≤ -1) ∧ decide380 false 0 1 65535 = .duplicate
    ∧ (∀ d : Int, d = toSigned 16 ((63 + 65536 - 0) % 65536) → 1 ≤ d ∧ d ≤ 63) ∧ (∀ d : Int, d = toSigned 16 ((64 + 65536 - 0) % 65536) → 63 < d)
    ∧ (running_.rd (wRECOV 9) F.REC_NEXT = 0 ∧ recHist running_ 9 = 0) := by
  refine ⟨?_, ?_, ?_, ?_, ?_⟩ <;> first | decide +kernel | (rintro s rfl; decide +kernel)

theorem met_ControlStoreWordsAreWrittenWhole :
    csWriteCode running_ 3 4607 1 0xFFFFFFFF = rDONE
    ∧ (pageBlk (pENG 3) ≠ none ∧ lockedBy running_ (pENG 3) 1 = false
      ∧ 4 < nv running_ (pENG 3) (newVals running_ (pENG 3) .eng 0x040 .normal (7 * 2 ^ F.ENG_CTRL_INJ_PAR.lo)) F.ENG_CTRL_INJ_PAR) := by decide +kernel

theorem met_GatesOffAreOpen : running_.rdB (pPORT (portRegion 47)) F.GATE_CTRL_GATE_EN (portCell 47) = false ∧ running_.takeoverAt 47 = none := by decide +kernel

theorem met_CommandsChangeOnlyTheirUnit :
    ∀ i ∈ [Instr.polWrite (pQSC 0) 1 0, .sfWrite (pRPL 0) 1 0, .hamperRead (pRPL 0) 1 0, .interruptDelivery 256, .intClaimRead 256 1 .normal, .statLowRead 5 1, .smbAlarm (0 = 1),
      .tapReset, .samplePop 0, .activateTableClear 0 0], (match exec i running_ with | .next _ => true | _ => false) = true := by
  decide +kernel

/-! ### Well-formed commands -/

/-- Each check of the operands accepts the first of its pair and refuses the second. -/
theorem test_wf_refuses_0 : ∀ x ∈ ([
   (.registerWrite 0 0 .normal 0 4 0, .registerWrite 11 0 .normal 0 4 0), (.registerWrite 0 0 .normal 0 4 0, .registerWrite 0 4096 .normal 0 4 0),
   (.registerWrite 0 0 .normal 0 4 0, .registerWrite 0 0 .normal 16 4 0), (.registerWrite 0 0 .normal 0 4 0, .registerWrite 0 0 .normal 0 3 0),
   (.registerWrite 0 0 .normal 0 4 0, .registerWrite 0 0 .normal 0 4 (2 ^ 32)), (.reservedPageWrite 0 0, .reservedPageWrite 4096 0),
   (.windowWrite 0 0 4 0, .windowWrite 0x4000000 0 4 0), (.cmdNop 0 0 0, .cmdNop 0 0 65536), (.commitGo 0 0 0, .commitGo 0 0 (2 ^ 32)),
   (.commitApply 0 1, .commitApply 0 2), (.lockAcquire 0 0 0, .lockAcquire 0 0 (2 ^ 20)), (.handshakeTimeout 0 0 0, .handshakeTimeout 0 3 0),
   (.handshakeTimeout 0 0 0, .handshakeTimeout 0 0 3), (.fenceSweep 0, .fenceSweep 4), (.avsEnable 0 0 1 0 0, .avsEnable 0 0 256 0 0),
   (.avsEnable 0 0 1 0 0, .avsEnable 0 0 1 65536 0), (.avsEnable 0 0 1 0 0, .avsEnable 0 0 1 0 4),
   (.quadModeWrite 0 0 .normal 0 0, .quadModeWrite 0 3 .normal 0 0), (.rawLinkFail 0 0, .rawLinkFail 50 0), (.rawLinkFail 0 3, .rawLinkFail 0 4),
   (.frameReceive 0 [] false 0 false false (0, 0), .frameReceive 48 [] false 0 false false (0, 0)), (.rclkCtrlWrite 0 .normal 0 0, .rclkCtrlWrite 2 .normal 0 0),
   (.treeWalkComplete 0 0 0 [], .treeWalkComplete 64 0 0 []), (.treeWalkComplete 0 0 0 [], .treeWalkComplete 0 8 0 []),
   (.pcntOverflow 0 0, .pcntOverflow 0 8), (.csWindowWrite 0 0 0 0 0, .csWindowWrite 0 4608 0 0 0),
   (.csWindowWrite 0 0 0 0 0, .csWindowWrite 0 0 4 0 0), (.scratchLoRead 0 0 0, .scratchLoRead 0 64 0),
   (.arbitrationRound 121 [] 0, .arbitrationRound 122 [] 0), (.arbitrationRound 0 [] 80, .arbitrationRound 0 [] 81), (.refcntInc 0 0 0, .refcntInc 0 0 5), (.cordFreeWalk 0 0 0 [], .cordFreeWalk 0 0 256 []),
   (.queueEntryWrite 0 0 0 0, .queueEntryWrite 65536 0 0 0), (.queueEntryWrite 0 0 0 0, .queueEntryWrite 0 16 0 0),
   (.captureRecordWrite 0 none, .captureRecordWrite 0 (some ⟨0, 3, 0, 0⟩)), (.captureRecordWrite 80 none, .captureRecordWrite 81 none), (.transmitStart 0 0, .transmitStart 0 81),
   (.shaperUpdate 0, .shaperUpdate 8192)] : List (Instr × Instr)), x.1.wf = true ∧ x.2.wf = false := by decide +kernel

/-- Each check of the operands accepts the first of its pair and refuses the second. -/
theorem test_wf_refuses_1 : ∀ x ∈ ([
   (.starvationFlag 0 0, .starvationFlag 120 0), (.starvationFlag 0 0, .starvationFlag 0 65536), (.gateListWrite 0 0 0 0 0, .gateListWrite 0 2 0 0 0),
   (.gateListWrite 0 0 0 0 0, .gateListWrite 0 0 256 0 0), (.spillWrite 0 0 none, .spillWrite 0 81 none), (.perBankRefresh 0, .perBankRefresh 16),
   (.refreshRatePoll 0 0, .refreshRatePoll 0 8), (.activateTableClear 0 0, .activateTableClear 0 32),
   (.neighbourRefresh 0 0 0, .neighbourRefresh 0 0 262144), (.windowAccess 0 none false none, .windowAccess (2 ^ 40) none false none),
   (.recoveryHoldExpiry 0, .recoveryHoldExpiry 4096), (.recoveryEntryWrite 0 0 0 0, .recoveryEntryWrite 0 8 0 0),
   (.idEntryWrite 0 0 0 0, .idEntryWrite 4096 0 0 0), (.syncSample 0 0 [] 0, .syncSample 2 0 [] 0), (.followUpTimeout 0 0, .followUpTimeout 0 65536),
   (.modelEvaluate 0, .modelEvaluate (-32769)), (.modelEvaluate 0, .modelEvaluate 32768), (.tinEdge 0 false 0, .tinEdge 4 false 0),
   (.trigWrite 0 0 .normal 0 0, .trigWrite 0 0x14 .normal 0 0), (.trigWrite 0 0 .normal 0 0, .trigWrite 0 2 .normal 0 0),
   (.heartbeatRx 0 0 false, .heartbeatRx 2 0 false), (.heartbeatRx 0 0 false, .heartbeatRx 0 (2 ^ 64) false),
   (.mateDataFrameRx 0 0 (List.replicate 60 0) false, .mateDataFrameRx 8 0 (List.replicate 60 0) false),
   (.mateDataFrameRx 0 0 (List.replicate 60 0) false, .mateDataFrameRx 0 65536 (List.replicate 60 0) false),
   (.mateDataFrameRx 0 0 (List.replicate 60 0) false, .mateDataFrameRx 0 0 (List.replicate 59 0) false),
   (.mateDataFrameRx 0 0 (List.replicate 60 0) false, .mateDataFrameRx 0 0 (List.replicate 9725 0) false),
   (.mateMirrorRecordRx 0 false, .mateMirrorRecordRx (2 ^ 128) false), (.plockFrameRx (List.replicate 8 0) false, .plockFrameRx [] false),
   (.mateFwdWrite 0 0 .normal 0 0, .mateFwdWrite 0 2 .normal 0 0), (.ringDoorbell 0 0 0, .ringDoorbell 4096 0 0),
   (.rxSlotWrite 0 0 0 0, .rxSlotWrite 0 (2 ^ 64) 0 0), (.rxSlotWrite 0 0 0 0, .rxSlotWrite 0 0 16384 0), (.rxSlotWrite 0 0 0 80, .rxSlotWrite 0 0 0 81),
   (.txDescriptorFetch 0 1 0 0 0 0 (List.replicate 1 0), .txDescriptorFetch 0 65536 0 0 0 0 (List.replicate 1 0)),
   (.txDescriptorFetch 0 1 0 0 0 0 (List.replicate 1 0), .txDescriptorFetch 0 1 65536 0 0 0 (List.replicate 1 0)),
   (.txDescriptorFetch 0 1 0 0 0 0 (List.replicate 1 0), .txDescriptorFetch 0 1 0 256 0 0 (List.replicate 1 0))] : List (Instr × Instr)), x.1.wf = true ∧ x.2.wf = false := by decide +kernel

/-- Each check of the operands accepts the first of its pair and refuses the second. -/
theorem test_wf_refuses_2 : ∀ x ∈ ([
   (.txDescriptorFetch 0 1 0 0 0 0 (List.replicate 1 0), .txDescriptorFetch 0 1 0 0 256 0 (List.replicate 1 0)),
   (.txDescriptorFetch 0 1 0 0 0 0 (List.replicate 1 0), .txDescriptorFetch 0 1 0 0 0 0 []), (.ringEntryWrite 0 0 0 0, .ringEntryWrite 0 16 0 0),
   (.dmaError 0 1 false, .dmaError 0 0 false), (.dmaError 0 1 false, .dmaError 0 6 false), (.hostSnoop 0 0, .hostSnoop 0 65536),
   (.hdmCommit 0, .hdmCommit (2 ^ 52)), (.bar2TimeRead 0 0 0, .bar2TimeRead 8 0 0), (.bar2TimeRead 0 0 0, .bar2TimeRead 0 0 65),
   (.mgmtFrameRx 0 [] false, .mgmtFrameRx 2 [] false), (.interruptEvent 0, .interruptEvent 2048), (.interruptDelivery 0, .interruptDelivery 258),
   (.holdoffExpiry 0, .holdoffExpiry 64), (.intSourceWrite 0 0 0 0, .intSourceWrite 0 8 0 0), (.ledgerSample 0, .ledgerSample (-2049)),
   (.ledgerSample 0, .ledgerSample 4096), (.statLowRead 0 0, .statLowRead 524288 0), (.smbRecordSelect 0, .smbRecordSelect 65536),
   (.coldReset {} [], .coldReset { bootMode := 4 } []), (.coldReset {} [], .coldReset {} [(0, 0)]), (.hostLinkUp 1 4 1, .hostLinkUp 3 4 1),
   (.hostLinkUp 1 4 1, .hostLinkUp 1 3 1), (.hostLinkUp 1 4 1, .hostLinkUp 1 4 0), (.hostLinkUp 1 4 1, .hostLinkUp 1 4 6)] : List (Instr × Instr)), x.1.wf = true ∧ x.2.wf = false := by decide +kernel

theorem test_wf_refuses_long_data (d : List Byte) : (4194304 < d.length → (Instr.imageLoadGo (some d)).wf = false)
    ∧ (16384 ≤ d.length → (Instr.gateCommitRx d true).wf = false) := by
  refine ⟨fun h => ?_, fun h => ?_⟩ <;> simp only [Instr.wf, Option.all_some, decide_eq_false_iff_not] <;> omega

/-! ### Single steps -/

/-- The state after a step with one command waiting. -/
def after (i : Instr) (s : State) : State :=
  match step { s with pending := [i] } with
  | .next t => t
  | _ => s

/-- R60, R58: NOP answers DONE, and BLK_RESULT names its opcode and agent. -/
theorem test_nop_records_done : ((after (.cmdNop pTIME 5 0) running_).page pTIME).resCode = 0 ∧ ((after (.cmdNop pTIME 5 0) running_).page pTIME).resAgent = 5
    ∧ ((after (.cmdNop pTIME 5 0) running_).page pTIME).seq = 1 := by decide +kernel

/-- R56: another agent's lock answers LOCKED (1) before the range is looked at, and the register keeps its value. -/
theorem test_locked_write_refused :
    (fun t => ((t.page (pBUF 0)).resCode, t.rd (pBUF 0) F.BUF_SHARED_LIMIT_LIMIT))
      (after (.registerWrite (pBUF 0) 0x050 .normal 5 4 0xFFFFFFFF) (withPage (pBUF 0) (fun h => { h with lock := some ⟨3, 50⟩ }) running_))
      = (rLOCKED, running_.rd (pBUF 0) F.BUF_SHARED_LIMIT_LIMIT) := by decide +kernel

/-- R70: a lock is taken for its lease in microseconds, and its lapse frees it. -/
theorem test_lock_and_lapse : ((after (.lockAcquire pTIME 2 1000) running_).page pTIME).lock.isSome = true
    ∧ ((after (.leaseExpiry pTIME false) (withPage pTIME (fun h => { h with lock := some ⟨2, 9⟩ }) running_)).page pTIME).lock = none := by decide +kernel

/-- R60: FENCE puts the block in FENCED with cause 2. -/
theorem test_fence_sets_cause : ((after (.fence pINT 1 0) running_).page pINT).state = .fenced ∧ ((after (.fence pINT 1 0) running_).page pINT).fenceCause = 2 := by decide +kernel

/-- R67: a strike on one copy is outvoted. -/
theorem test_vote_outvotes_one_copy : torn.rd (pBUF 0) F.BUF_SHARED_LIMIT_LIMIT = 7 := by decide +kernel

/-- Reset values the chapters' tables give: the second domain and the second function differ from the first. -/
theorem test_reset_values : State.reset.rd pTIME F.DOM_CFG_DOMAIN_NUM 0 = 24 ∧ State.reset.rd pTIME F.DOM_CFG_DOMAIN_NUM 1 = 25
    ∧ State.reset.rd pHIF F.HIF_MSIX_VEC_COUNT 0 = 256 ∧ State.reset.rd pHIF F.HIF_MSIX_VEC_COUNT 1 = 0
    ∧ State.reset.rd (pQSC 2) F.QSC_SHP_CFG_PORT = 24 ∧ State.reset.rd pINT F.INT_FAULT_CFG_FAULT_TARGET = 255 := by decide +kernel

/-- R530: a claim returns VALID, the priority, the count and the source, and clears the count. -/
theorem test_claim_word : (after (.intClaimRead 256 7 .normal) (stacked { active := true, count := 9 })).out = [.claim 256 0x83090005]
    ∧ ((after (.intClaimRead 256 7 .normal) (stacked { active := true, count := 9 })).src 5).count = 0 := by decide +kernel

/-- R527: the count stops at 255. -/
theorem test_events_saturate : ((after (.interruptEvent 5) (src5 { count := 255 })).src 5).count = 255 := by decide +kernel

/-- R526: a source of the same priority waits, one above it is delivered on top. -/
theorem test_same_priority_waits : nextSource (setStack 256 [⟨9, 3⟩] (src5 { pending := true })) 256 = none
    ∧ nextSource (setStack 256 [⟨9, 2⟩] (src5 { pending := true })) 256 = some 5 := by decide +kernel

/-- R550: the low half is returned and the high half of the same instant is kept. -/
theorem test_counter_halves : (after (.statLowRead 7 1) { running_ with cnt := { running_.cnt with val := ⟨[(7, 2 ^ 40 + 6)]⟩ } }).out = [.read 1 6] := by decide +kernel

/-- R186: an addition wraps with carry; a subtraction below zero wraps, and one of equal words leaves no borrow. -/
theorem test_alu_corners : (aluAdd (2 ^ 64 - 1) 1).r = 0 ∧ (aluAdd (2 ^ 64 - 1) 1).c = true ∧ (aluSub 3 5).r = 2 ^ 64 - 2 ∧ (aluSub 5 5).c = true := by decide +kernel

/-- R179: the opcode's class stands above its function, in the top byte of the word. -/
theorem test_micro_words : (miDecode 0x12000000000000000000000000000000).opcode = 0x12 ∧ (miDecode 0x61000000000000000000000000000000).opcode = 0x61
    ∧ miEncode (miDecode 0x11085400000000082809180000000000) = 0x11085400000000082809180000000000 := by decide +kernel

/-- R456 gives the heartbeat's CRC its polynomial and start: the bytes 31 to 36 (hex) give 0x2EF4, as worked by hand. -/
theorem test_heartbeat_crc : crc16 0x3132333435360000 = 0x2EF4 := by decide +kernel

/-- The frame check sequence of nine ASCII digits. -/
theorem test_fcs : crc32 ([0x31, 0x32, 0x33, 0x34, 0x35, 0x36, 0x37, 0x38, 0x39] : List Byte) = 0xCBF43926 := by decide +kernel

/-- R380: the expected number, the last one, one 64 back that was not seen, 63 ahead, 64 ahead. -/
theorem test_recovery_window : decide380 false 100 1 100 = .expected ∧ decide380 false 100 1 99 = .duplicate ∧ decide380 false 100 1 36 = .late
    ∧ decide380 false 100 1 163 = .early 63 ∧ decide380 false 100 1 164 = .rogue ∧ decide380 false 100 1 35 = .rogue := by decide +kernel

/-- R600: a program clears bits and never sets them. -/
theorem test_program_ands : flashByte (flashApply ⟨false, 3, [0xF0, 0x0F], false⟩ (flashApply ⟨false, 3, [0x3C], false⟩ running_)) 3 = 0x30 := by decide +kernel

/-- R512: what the host writes into the window reads back, and the next byte still reads 0. -/
theorem test_window_bytes : (setWin 64 [1, 2] running_).winByte 65 = 2 ∧ (setWin 64 [1, 2] running_).winByte 66 = 0 := by decide +kernel

/-- R59: BLOCK_STOP of a block with nothing outstanding answers at once. -/
theorem test_stop_at_once : ((after (.blockStop pTIME 1 0) running_).page pTIME).state = .ready := by decide +kernel

/-- R51: a write to a reserved page leaves every page as it was. -/
theorem test_reserved_page : (after (.reservedPageWrite 0x00F 1) running_).pages = running_.pages := by decide +kernel

/-- The idle step advances the local counter by 1,024 units once the PLL has locked (log entry 2). -/
theorem test_idle_step : (match step (running_.wr pTIME F.TIME_STATUS_PLL_LOCK 1) with | .next t => t.now | _ => 0) = running_.now + 1024 := by decide +kernel

end Sys2Proof.Tests
end

section
/-! SUPPORT. The supply (R30 to R34): what a margin stores, what an evaluation of the loop requests, and what follows a PMBus transaction that is
not acknowledged. -/
namespace Sys2Proof.Machine

/-! ### Signed fields -/

theorem toSigned_ofSigned_eight {x : Int} (h0 : -128 ≤ x) (h1 : x ≤ 127) : toSigned 8 (ofSigned 8 x) = x := by
  unfold toSigned ofSigned
  norm_num
  omega

@[simp] theorem rdS_wrS_same (s : State) (p : Nat) (f : Field) (v : Int) (i j : Nat) :
    (s.wrS p f v i j).rdS p f i j = toSigned (f.hi - f.lo + 1) (ofSigned (f.hi - f.lo + 1) v) := by
  simp [State.rdS, State.wrS, toSigned]

theorem rdS_wrS_other {p q : Nat} {f g : Field} {i j k l : Nat} (s : State) (v : Int) (h : fkey q g k l ≠ fkey p f i j) :
    (s.wrS p f v i j).rdS q g k l = s.rdS q g k l := by
  unfold State.rdS State.wrS
  rw [rd_wr_other _ _ h]

/-! ### Margins (R30, R34) -/

/-- The registers after a margin within the sensor's range: MARGIN, and MARGIN_MIN where the margin is a region's lowest so far. -/
def storeMargin (r : Nat) (m : Int) (s : State) : State :=
  let s1 := s.wrS pSNS F.SNS_SPEED_REGION_MARGIN m r
  let old := s.rd pSNS F.SNS_SPEED_REGION_MARGIN_MIN r
  if old = 0x80 || m < toSigned 8 old then s1.wrS pSNS F.SNS_SPEED_REGION_MARGIN_MIN m r else s1

theorem storeMargin_frame (r : Nat) (m : Int) (s : State) : storeMargin r m s = { s with reg := (storeMargin r m s).reg } := by
  unfold storeMargin
  dsimp only
  split <;> rfl

theorem rdS_storeMargin (r : Nat) {m : Int} (h0 : -128 ≤ m) (h1 : m ≤ 127) (s : State) :
    (storeMargin r m s).rdS pSNS F.SNS_SPEED_REGION_MARGIN r = m := by
  have hm : (s.wrS pSNS F.SNS_SPEED_REGION_MARGIN m r).rdS pSNS F.SNS_SPEED_REGION_MARGIN r = m := by
    rw [rdS_wrS_same]
    exact toSigned_ofSigned_eight h0 h1
  have hk : fkey pSNS F.SNS_SPEED_REGION_MARGIN r 0 ≠ fkey pSNS F.SNS_SPEED_REGION_MARGIN_MIN r 0 := by
    simp only [fkey, Field.at, F.SNS_SPEED_REGION_MARGIN, F.SNS_SPEED_REGION_MARGIN_MIN]
    omega
  unfold storeMargin
  dsimp only
  split
  · rw [rdS_wrS_other _ _ hk, hm]
  · exact hm

/-- A margin that is not negative raises no SPEED_LOW: it is stored, and joins the lowest since the last evaluation. -/
theorem speedSample_of_nonneg {r : Nat} {m : Int} {s : State} (hs : s.inState pSNS .reset = false) (h0 : 0 ≤ m) (h1 : m ≤ 127) :
    speedSample r m s = { storeMargin r m s with sns := { s.sns with lowest := some (s.sns.lowest.elim m (min · m)) } } := by
  have hc : clampInt (-127) 127 m = m := by
    unfold clampInt
    omega
  have hsns : (storeMargin r m s).sns = s.sns := by rw [storeMargin_frame]
  have hl : (match s.sns.lowest with | some x => min x m | none => m) = s.sns.lowest.elim m (min · m) := by
    cases s.sns.lowest <;> rfl
  calc speedSample r m s
      = { storeMargin r m s with sns := { (storeMargin r m s).sns with
            lowest := some (match (storeMargin r m s).sns.lowest with | some x => min x m | none => m) } } := by
        simp only [speedSample, hs, hc, Int.not_lt.mpr h0, if_false, Bool.false_eq_true]
        rfl
    _ = _ := by rw [hsns, hl]

/-! ### The evaluation (R31) -/

/-- The voltage an evaluation sets for a lowest margin: 5 mV up below TARGET, 5 mV down above the hysteresis, within the limits, else as it stands. -/
def nextMv (m : Int) (s : State) : Nat :=
  if m < (s.rd pSNS F.SNS_AVS_CTRL_TARGET : Int) then min (coreMv s + 5) (s.rd pSNS F.SNS_AVS_LIMITS_VMAX_MV)
  else if (s.rd pSNS F.SNS_AVS_CTRL_TARGET : Int) + s.rd pSNS F.SNS_AVS_CTRL_HYST < m then max (coreMv s - 5) (s.rd pSNS F.SNS_AVS_LIMITS_VMIN_MV)
  else coreMv s

theorem nextMv_below {m : Int} {s : State} (h : m < (s.rd pSNS F.SNS_AVS_CTRL_TARGET : Int)) :
    nextMv m s = min (coreMv s + 5) (s.rd pSNS F.SNS_AVS_LIMITS_VMAX_MV) := if_pos h

theorem nextMv_above {m : Int} {s : State} (h : (s.rd pSNS F.SNS_AVS_CTRL_TARGET : Int) + s.rd pSNS F.SNS_AVS_CTRL_HYST < m) :
    nextMv m s = max (coreMv s - 5) (s.rd pSNS F.SNS_AVS_LIMITS_VMIN_MV) := by
  unfold nextMv
  rw [if_neg (by omega), if_pos h]

theorem nextMv_within {m : Int} {s : State} (h0 : (s.rd pSNS F.SNS_AVS_CTRL_TARGET : Int) ≤ m)
    (h1 : m ≤ (s.rd pSNS F.SNS_AVS_CTRL_TARGET : Int) + s.rd pSNS F.SNS_AVS_CTRL_HYST) : nextMv m s = coreMv s := by
  unfold nextMv
  rw [if_neg (by omega), if_neg (by omega)]

/-- A running loop takes the lowest margin and requests the next voltage where it is another. -/
theorem avsEval_running {m : Int} {s : State} (hen : s.rdB pSNS F.SNS_AVS_CTRL_AVS_EN = true) (hh : s.emb.avsHeld = false)
    (hl : s.sns.lowest = some m) :
    avsEval s = if nextMv m s != coreMv s then requestMv (nextMv m s) { s with sns := { s.sns with lowest := none, mMin := some m } }
      else { s with sns := { s.sns with lowest := none, mMin := some m } } := by
  simp only [avsEval, hen, hh, hl, Bool.not_true, Bool.false_eq_true, if_false]
  rfl

theorem avsEval_request {m : Int} {s : State} (hen : s.rdB pSNS F.SNS_AVS_CTRL_AVS_EN = true) (hh : s.emb.avsHeld = false)
    (hl : s.sns.lowest = some m) (hv : nextMv m s ≠ coreMv s) :
    avsEval s = requestMv (nextMv m s) { s with sns := { s.sns with lowest := none, mMin := some m } } := by
  rw [avsEval_running hen hh hl, if_pos (bne_iff_ne.mpr hv)]

theorem avsEval_keep {m : Int} {s : State} (hen : s.rdB pSNS F.SNS_AVS_CTRL_AVS_EN = true) (hh : s.emb.avsHeld = false)
    (hl : s.sns.lowest = some m) (hv : nextMv m s = coreMv s) :
    avsEval s = { s with sns := { s.sns with lowest := none, mMin := some m } } := by
  simp [avsEval_running hen hh hl, hv]

/-! ### SNS_AVS_CTRL and PMBus (R32, R33, R47) -/

theorem avsWrite_done {w : View} {ag v : Nat} {ans : Option (Nat × Nat × Nat)} {s : State}
    (h : gateCode s pSNS 0x044 w ag v (avsRange s) noCheck noBusy = rDONE) :
    avsWrite w ag v ans s = record pSNS ag 17 0xFF rDONE
      (avsTaken s ans (gateVals s pSNS 0x044 w v) ((gateVals s pSNS 0x044 w v).foldl (storeVal pSNS ag) s)) :=
  regWrite_done (by decide) h

/-- What follows an unacknowledged request of an enabled loop: it is sent again twice, then the transaction has failed. -/
theorem execPmbusNack_enabled {s : State} (hv : s.rd pSNS F.SNS_AVS_STATUS_VREQ_MV ≠ 0) (hen : s.rdB pSNS F.SNS_AVS_CTRL_AVS_EN = true) :
    execPmbusNack s = .next (if 2 ≤ s.sns.nacks then pmbusLost s
      else emit (.vout (s.rd pSNS F.SNS_AVS_STATUS_VREQ_MV) (voutWord s (s.rd pSNS F.SNS_AVS_STATUS_VREQ_MV)))
        { s with sns := { s.sns with nacks := s.sns.nacks + 1 } }) := by
  simp [execPmbusNack, hv, hen]

/-- Settles O15: a margin by what it stores, an evaluation by the voltage it sets, the writes by their gate and PMBus by the count of its retries. -/
theorem supplyCommandsComplete : Obligations.SupplyCommandsComplete := by
  intro r ag v m s
  refine ⟨?margin, ?keeps, ?raises, ?lowers, ?enable, ?rearm, ?again, ?lost⟩
  case margin =>
    intro hs h0 h1 _
    refine ⟨speedSample r m s, rfl, ?_⟩
    rw [speedSample_of_nonneg hs h0 h1]
    refine ⟨rdS_storeMargin r (by omega) h1 s, ?_, ?_⟩
    · cases s.sns.lowest <;> rfl
    · rw [storeMargin_frame]
  case keeps =>
    intro hen hh hl h0 h1
    exact congrArg _ (avsEval_keep hen hh hl (nextMv_within h0 h1))
  case raises =>
    intro hen hh hl hm hv
    rw [← nextMv_below hm] at hv ⊢
    exact congrArg _ (avsEval_request hen hh hl hv)
  case lowers =>
    intro hen hh hl hm hv
    rw [← nextMv_above hm] at hv ⊢
    exact congrArg _ (avsEval_request hen hh hl hv)
  case enable =>
    intro mode vout acks h
    exact congrArg _ (avsWrite_done h)
  case rearm =>
    intro h
    exact congrArg _ (avsWrite_done h)
  case again =>
    intro hv hen hn
    refine (execPmbusNack_enabled hv hen).trans ?_
    rw [if_neg (by omega)]
    rfl
  case lost =>
    intro hv hen hn
    refine (execPmbusNack_enabled hv hen).trans ?_
    rw [if_pos hn]

end Sys2Proof.Machine
end

section
/-! SUPPORT. The walk of a frame (R37): its receipt, its parsing, the twin copy's arrival, its admission and its dispatch, and the event routines. -/
namespace Sys2Proof.Machine

/-! ### Receipt (R82, R87, R511, R556) -/

theorem fecCount_boot (p : Nat) (fec : Nat × Nat) (s : State) : (fecCount p fec s).boot = s.boot := by
  unfold fecCount
  split
  · rfl
  · rw [countBy_frame, countBy_frame]

theorem pinsTested_fecCount (p : Nat) (fec : Nat × Nat) (s : State) : pinsTested (fecCount p fec s) = pinsTested s := by
  unfold pinsTested
  rw [fecCount_boot]

theorem stateIn_false_of_inState {s : State} {p : Nat} {b : BlkState} {l : List BlkState} (h : s.inState p b = true) (hb : b ∉ l) :
    stateIn s p l = false := by
  unfold State.inState at h
  simpa [stateIn, of_decide_eq_true h] using hb

/-- A running block of an enabled port that is not up counts and drops a frame; one that is up receives it where no earlier one is on the wire. -/
theorem execFrameReceive_run {p : Nat} {d : List Byte} {complete : Bool} {frags : Nat} {broken stopped : Bool} {fec : Nat × Nat} {s : State}
    (hpins : pinsTested s = false) (hen : (fecCount p fec s).link_ p ≠ lDISABLED) (hrun : (fecCount p fec s).inState (pPORT (portRegion p)) .run = true) :
    execFrameReceive p d complete frags broken stopped fec s = .next (
      if !(fecCount p fec s).portUp p then count (cPort p 12) (fecCount p fec s)
      else if ((fecCount p fec s).port p).rx.isSome then fecCount p fec s
      else receive p d complete frags broken stopped (fifoFull (fecCount p fec s) p d.length) (fecCount p fec s)) := by
  have hfenced : stateIn (fecCount p fec s) (pPORT (portRegion p)) [.fenced, .reinit] = false := stateIn_false_of_inState hrun (by decide)
  simp [execFrameReceive, pinsTested_fecCount, hpins, hen, hrun, hfenced]

theorem portUp_of_down {s : State} {p : Nat} (h : s.link_ p = lDOWN) : s.portUp p = false := by
  simp [State.portUp, h, lDOWN, lUP, lDOWN_FILTER]

theorem portUp_of_up {s : State} {p : Nat} (h : s.link_ p = lUP) : s.portUp p = true := by
  simp [State.portUp, h]

theorem execMgmtFrameRx_enabled {m : Nat} {d : List Byte} {stopped : Bool} {s : State} (hpins : pinsTested s = false)
    (hen : s.link_ (48 + m) ≠ lDISABLED) :
    execMgmtFrameRx m d stopped s
      = .next (if !s.portUp (48 + m) then count (cPort (48 + m) 12) s else servedReceive (48 + m) d stopped s) := by
  simp [execMgmtFrameRx, hpins, hen]

/-! ### Parsing, the twin copy, admission (R109, R115, R260, R377) -/

/-- A whole record of a frame that is neither malformed nor slow goes on to dispatch. -/
theorem parseStep_plain {f : Nat} {x : Frame} {s : State} (hf : s.frames.find? f = some x) (hstage : x.stage = .received)
    (hrun : s.inState (pPRS x.region) .run = true) (hhold : parserHolds s x = false) (hturn : parsedBefore s f x = true)
    (hmore : (parseFrame (parserIn s x.region x)).more = false) (hmal : (parseFrame (parserIn s x.region x)).mal = none)
    (hslow : (parseFrame (parserIn s x.region x)).slow = none) :
    parseStep f s = parseAction f 2 0 0 (1, 0) (s.updFrame f (fun y =>
      { y with prec := (parseFrame (parserIn s x.region x)).word, deferred := (parseFrame (parserIn s x.region x)).late })) := by
  simp [parseStep, hf, hstage, hrun, hhold, hturn, hmore, hmal, hslow]

theorem twinArrival_taken {f : Nat} {x : Frame} {s : State} (hf : s.frames.find? f = some x) (hstage : x.stage = .crossing)
    (hbar : stateIn s pXBAR [.ready, .run] = true) (htaken : twinTaken s x.region = true) :
    twinArrival f s = s.updFrame f (fun x => { x with stage := .received }) := by
  simp [twinArrival, hf, hstage, hbar, htaken]

theorem admission_ready {f : Nat} {x : Frame} {s : State} (hf : s.frames.find? f = some x) (hstage : x.stage = .retired)
    (hturn : admitTurn s f x = true) (hblk : blocksTake s x = true) (hhead : headStored s x = true) :
    admission f s = admitNow f x s := by
  simp [admission, hf, hstage, hturn, hblk, hhead]

/-! ### Dispatch (R162, R195) -/

theorem find?_updFrame_same (s : State) (f : Nat) (g : Frame → Frame) : (s.updFrame f g).frames.find? f = (s.frames.find? f).map g := by
  unfold State.updFrame
  cases h : s.frames.find? f with
  | none => exact h
  | some x => exact SMap.find?_insert_same ..

theorem pcnt_due (e ev : Nat) (s : State) : (pcnt e ev s).eng.due = s.eng.due := by
  simp only [pcnt, pcntBy]
  generalize List.range 8 = l
  induction l generalizing s with
  | nil => rfl
  | cons k l ih =>
    rw [List.foldl_cons, ih]
    split <;> rfl

theorem setCtx_due (s : State) (e c : Nat) (x : Ctx) : (s.setCtx e c x).eng.due = s.eng.due := by
  unfold State.setCtx
  dsimp only
  split <;> rfl

/-- The time of a context's last issue is forgotten. -/
def forgetTime (e c : Nat) (s : State) : State := { s with eng := { s.eng with lastTime := s.eng.lastTime.erase (ctxIdx e c) } }

@[simp] theorem forgetTime_ctx (e c e' c' : Nat) (s : State) : (forgetTime e c s).ctx e' c' = s.ctx e' c' := rfl
@[simp] theorem forgetTime_frames (e c : Nat) (s : State) : (forgetTime e c s).frames = s.frames := rfl
@[simp] theorem forgetTime_due (e c : Nat) (s : State) : (forgetTime e c s).eng.due = s.eng.due := rfl

/-- How a dispatch to a context ends: the engine counts event `ev`, and the context has issued nothing yet. -/
def startCounted (e c ev : Nat) (s : State) : State := forgetTime e c (pcnt e ev s)

theorem ctx_startCounted (e c ev e' c' : Nat) (s : State) : (startCounted e c ev s).ctx e' c' = s.ctx e' c' := by
  obtain ⟨hctx, -⟩ := countsOnly_pcnt e ev s
  rw [startCounted, forgetTime_ctx, ctx_of_eng hctx]

theorem frames_startCounted (e c ev : Nat) (s : State) : (startCounted e c ev s).frames = s.frames := by
  obtain ⟨-, hframe, -⟩ := countsOnly_pcnt e ev s
  rw [startCounted, forgetTime_frames, hframe]

theorem due_startCounted (e c ev : Nat) (s : State) : (startCounted e c ev s).eng.due = s.eng.due := by
  rw [startCounted, forgetTime_due, pcnt_due]

/-- A context as a frame's routine enters it (R164). -/
def frameEntry (s : State) (r f : Nat) (x : Frame) : Ctx :=
  .start (some f) (s.rd (pENG r) F.ENG_DISPATCH_PC (dispatchIdx x))
    [BitVec.ofNat 64 x.prec, BitVec.ofNat 64 (x.prec / 2 ^ 64), BitVec.ofNat 64 (frameWord x (dispatchIdx x)), BitVec.ofNat 64 (u3Of x.stamp.s)]
    (x.src = .twin) x.handle.isSome (x.prec.testBit 127) (entryVerdict x) 0

/-- A context as the event routine of trigger `i` enters it, after `n` events of which the last was at `u` (R195). -/
def eventEntry (s : State) (r i n u : Nat) : Ctx :=
  .start none (s.rd (pENG r) F.ENG_DISPATCH_PC 12)
    [0, 0, BitVec.ofNat 64 (12 * 2 ^ 48 + min n 65535 * 2 ^ 16 + i % 8), BitVec.ofNat 64 (u3Of u)] false false false {} 0

theorem dispatch_starts {r e c k f : Nat} {x : Frame} {s : State} (hrun : dispatching s r = true) (hdue : s.eng.due.entries = [])
    (heng : pickEngine s r = some (e, c)) (hframe : pickFrame s r = some (k, f, x))
    (hvalid : s.rdB (pENG r) F.ENG_DISPATCH_VALID (dispatchIdx x) = true) :
    dispatch r s = startCounted e c 0x09 ((({ s with eng := { s.eng with rrPort := s.eng.rrPort.put 0 r k } } : State).setCtx e c (frameEntry s r f x)).updFrame f
      (fun x => { x with stage := .running })) := by
  simp [dispatch, hrun, hdue, heng, hframe, hvalid, startCounted, forgetTime, frameEntry]

theorem eventDispatch_starts {r e c i n u : Nat} {s : State} (hrun : dispatching s r = true)
    (hdue : s.eng.due.entries.find? (fun (e : Nat × Nat × Nat) => e.1 / 8 = r) = some (i, n, u))
    (heng : pickEngine s r = some (e, c)) (hvalid : s.rdB (pENG r) F.ENG_DISPATCH_VALID 12 = true) :
    eventDispatch r s
      = startCounted e c 0x0A (({ s with eng := { s.eng with due := s.eng.due.erase i } } : State).setCtx e c (eventEntry s r i n u)) := by
  simp [eventDispatch, hrun, hdue, heng, hvalid, startCounted, forgetTime, eventEntry]

/-- Settles O17: each step of the walk by its own equation, and a dispatch by the context that its routine enters. -/
theorem frameIntakeCompletes : Obligations.FrameIntakeCompletes := by
  intro p f d s
  refine ⟨?down, ?up, ?tail, ?parse, ?twin, ?admission, ?mgmtUp, ?mgmtDown, ?dispatch, ?event⟩
  case down =>
    intro complete frags broken stopped fec hpins hdown hrun
    refine (execFrameReceive_run hpins (by rw [hdown]; decide) hrun).trans ?_
    rw [portUp_of_down hdown]
    rfl
  case up =>
    intro complete frags broken stopped fec hpins hup hrun hrx
    refine (execFrameReceive_run hpins (by rw [hup]; decide) hrun).trans ?_
    rw [portUp_of_up hup, hrx]
    rfl
  case tail => exact fun _ _ _ => rfl
  case parse =>
    intro x hf hstage hrun hhold hturn hmore hmal hslow
    exact congrArg _ (parseStep_plain hf hstage hrun hhold hturn hmore hmal hslow)
  case twin =>
    intro x hf hstage hbar htaken
    exact congrArg _ (twinArrival_taken hf hstage hbar htaken)
  case admission =>
    intro x hf hstage hturn hblk hhead
    exact congrArg _ (admission_ready hf hstage hturn hblk hhead)
  case mgmtUp =>
    intro m stopped hpins hen hup
    refine (execMgmtFrameRx_enabled hpins hen).trans ?_
    rw [hup]
    rfl
  case mgmtDown =>
    intro m stopped hpins hdown
    refine (execMgmtFrameRx_enabled hpins (by rw [hdown]; decide)).trans ?_
    rw [portUp_of_down hdown]
    rfl
  case dispatch =>
    intro r e c k x hrun hdue heng hframe hvalid _
    have hctx : (dispatch r s).ctx e c = frameEntry s r f x := by
      rw [dispatch_starts hrun hdue heng hframe hvalid, ctx_startCounted, ctx_of_eng (congrArg EngSt.ctx (updFrame_eng ..)), ctx_setCtx, if_pos rfl]
    refine ⟨dispatch r s, rfl, by rw [hctx]; rfl, by rw [hctx]; rfl, by rw [hctx]; rfl, ?_⟩
    rw [dispatch_starts hrun hdue heng hframe hvalid, frames_startCounted, find?_updFrame_same, setCtx_frames, Option.map_map]
    rfl
  case event =>
    intro r e c i n u hrun hdue heng hvalid
    have hctx : (eventDispatch r s).ctx e c = eventEntry s r i n u := by
      rw [eventDispatch_starts hrun hdue heng hvalid, ctx_startCounted, ctx_setCtx, if_pos rfl]
    refine ⟨eventDispatch r s, rfl, by rw [hctx]; rfl, by rw [hctx]; rfl, by rw [hctx]; rfl, ?_⟩
    rw [eventDispatch_starts hrun hdue heng hvalid, due_startCounted, setCtx_due]

end Sys2Proof.Machine
end

section
/-! SUPPORT. Registers (R52 to R72): what a view leaves in each bit, the order of the checks, what reset leaves, and the end of a lease. -/
namespace Sys2Proof.Machine

/-! ### Views (R54) -/

theorem testBit_viewOutcome_set (v n w k : Nat) : (viewOutcome .set v n w).testBit k = (v.testBit k || n.testBit k) := Nat.testBit_or ..

theorem testBit_viewOutcome_clear {w k : Nat} (v n : Nat) (hk : k < w) :
    (viewOutcome .clear v n w).testBit k = (v.testBit k && !n.testBit k) := by
  simp [viewOutcome, Nat.testBit_two_pow_sub_one, hk]

theorem testBit_viewOutcome_toggle (v n w k : Nat) : (viewOutcome .toggle v n w).testBit k = (v.testBit k != n.testBit k) := Nat.testBit_xor ..

/-- A view's outcome on a value and a word of the field's width keeps that width. -/
theorem viewOutcome_lt {v n w : Nat} (hv : v < 2 ^ w) (hn : n < 2 ^ w) (view : View) : viewOutcome view v n w < 2 ^ w := by
  cases view with
  | normal => exact hn
  | set => exact Nat.or_lt_two_pow hv hn
  | clear => exact Nat.lt_of_le_of_lt Nat.and_le_left hv
  | toggle => exact Nat.xor_lt_two_pow hv hn

/-- Settles O6: each view's outcome bit by bit, and its width once for all views. -/
theorem viewsWriteSetClearToggle : Obligations.ViewsWriteSetClearToggle := by
  intro w n v k hv hn hk
  exact ⟨rfl, testBit_viewOutcome_set v n w k, testBit_viewOutcome_clear v n hk, testBit_viewOutcome_toggle v n w k,
    viewOutcome_lt hv hn .set, viewOutcome_lt hv hn .clear, viewOutcome_lt hv hn .toggle⟩

/-! ### Fields (R54, R67) -/

/-- Settles O10: a read of the field written, and of any other. -/
theorem writtenFieldsReadBack : Obligations.WrittenFieldsReadBack := by
  intro s p f v i j
  exact ⟨rd_wr_same s p f v i j, fun _ _ _ _ h => rd_wr_other s v h, rfl⟩

/-! ### The checks (R56) -/

theorem firstFail_locked (range state busy : Bool) : firstFail true range state busy = rLOCKED := rfl
theorem firstFail_range (state busy : Bool) : firstFail false false state busy = rRANGE := rfl
theorem firstFail_state (busy : Bool) : firstFail false true false busy = rSTATE := rfl
theorem firstFail_busy : firstFail false true true true = rBUSY := rfl

/-- Settles O7: the first check that fails, in the order of the checks, names the code. -/
theorem checksFailInOrder : Obligations.ChecksFailInOrder := by
  intro locked range state busy
  cases locked with
  | true => rw [firstFail_locked]; decide +revert
  | false =>
    cases range with
    | false => rw [firstFail_range]; decide +revert
    | true =>
      cases state with
      | false => rw [firstFail_state]; decide +revert
      | true => cases busy <;> decide

/-! ### Reset (R59, R62, R73) -/

/-- Where no shadow and no copy is listed, a shadow reads as the operating value. -/
theorem rdShadow_of_unlisted {s : State} (h : s.reg.shadow = ⟨[]⟩) (p : Nat) (f : Field) (i j : Nat) : s.rdShadow p f i j = s.rd p f i j := by
  simp [State.rdShadow, h]

/-- Settles O3: every table of the reset state is empty, so each read answers its default. -/
theorem resetStateOfEveryPage : Obligations.ResetStateOfEveryPage :=
  ⟨fun _ => rfl, rdShadow_of_unlisted rfl, fun _ => rfl, fun _ => rfl, fun _ => rfl, fun _ => rfl, fun _ => rfl, rfl⟩

/-! ### Leases (R70, R72) -/

theorem mem_shadow_keepShadows {p : Nat} {keep : Nat → Bool} {s : State} {e : Nat × Nat × Nat}
    (he : e ∈ (keepShadows p keep s).reg.shadow.entries) (hp : keyOnPage p e.1 = true) : keep e.2.2 = true := by
  simpa [hp] using (List.mem_filter.mp he).2

theorem dropShadowsOf_frame (p ag : Nat) (s : State) :
    dropShadowsOf p ag s = { s with reg := { s.reg with shadow := (dropShadowsOf p ag s).reg.shadow }, peat := (dropShadowsOf p ag s).peat } := by
  unfold dropShadowsOf
  split <;> rfl

/-- Where no commit is pending, none of the agent's shadows of the page is left. -/
theorem shadow_dropShadowsOf {p ag : Nat} {s : State} (hc : (s.page p).commitPending = false) {e : Nat × Nat × Nat}
    (he : e ∈ (dropShadowsOf p ag s).reg.shadow.entries) (hp : keyOnPage p e.1 = true) : e.2.2 ≠ ag := by
  rw [dropShadowsOf, if_neg (by simp [hc])] at he
  simpa using mem_shadow_keepShadows he hp

theorem page_dropShadowsOf (p ag q : Nat) (s : State) : (dropShadowsOf p ag s).page q = s.page q := by
  rw [dropShadowsOf_frame]
  rfl

theorem leaseEnds_held {pg : Nat} {l : Lock} {s : State} (hl : (s.page pg).lock = some l) (ho : l.owner ≠ 12) :
    leaseEnds pg s
      = (dropShadowsOf pg l.owner s).updPage pg (fun h => { h with lock := none, leaseLapsed := true, lapsed := some l.owner }) := by
  simp [leaseEnds, hl, ho]

/-- Settles O11: the owner's shadows go, and the header forgets the lock and remembers the owner. -/
theorem leaseExpiryFreesTheLock : Obligations.LeaseExpiryFreesTheLock := by
  intro pg l s hl ho
  refine ⟨leaseEnds pg s, rfl, ?_⟩
  rw [leaseEnds_held hl ho, page_updPage_same]
  refine ⟨rfl, rfl, rfl, by rw [page_dropShadowsOf], ?_, ?_, ?_⟩
  · exact fun hc e he hp => shadow_dropShadowsOf hc he hp
  · rw [dropShadowsOf_frame]
    rfl
  · rw [dropShadowsOf_frame]
    rfl

end Sys2Proof.Machine
end

section
/-! SUPPORT. The commands every block has (R59, R60, R67): what a command does once it is accepted. -/
namespace Sys2Proof.Machine

/-! ### Acceptance (R56, R57) -/

theorem command_done {p ag op : Nat} {r st : Bool} {s : State} (h : cmdCode s p ag r st = rDONE) (body : State → State × Nat) :
    command p ag op r st body s = record p ag 4 op (body s).2 (body s).1 := (command_eq ..).1 h

theorem commandLong_done {p ag op arg : Nat} {r st : Bool} {s : State} (h : cmdCode s p ag r st = rDONE) (ops : List Nat) (body : State → State) :
    commandLong p ag op arg r st ops body s = (body s).updPage p (fun h => { h with cmd := some ⟨op, arg, ag, ops⟩ }) := (commandLong_eq ..).1 h

/-! ### BLOCK_RUN and BLOCK_STOP (R59) -/

/-- BLOCK_RUN of a block that has it: the memory also asks that its timing is set. -/
theorem execBlockRun_of_runOp {pg ag arg op : Nat} {b : Blk} {s : State} (hb : pageBlk pg = some b) (hop : runOp b = some op)
    (ht : pg = pPEAT → ∀ k < 14, s.rd pPEAT F.PEAT_TIM_VALUE k ≠ 0) :
    execBlockRun pg ag arg s = .next (command pg ag op (arg = 0) (s.inState pg .ready) (fun s => (blockRun pg s, rDONE)) s) := by
  have timed : (pg != pPEAT || (List.range 14).all (fun k => s.rd pPEAT F.PEAT_TIM_VALUE k != 0)) = true := by
    by_cases hp : pg = pPEAT
    · simpa [hp] using ht hp
    · simp [hp]
  simp only [execBlockRun, timed]
  simp [hb, hop]

theorem execBlockStop_atOnce {pg ag arg op : Nat} {b : Blk} {s : State} (hb : pageBlk pg = some b) (hop : runOp b = some op)
    (hn : stopsAtOnce b = true) :
    execBlockStop pg ag arg s
      = .next (command pg ag (op + 1) (arg = 0) (s.inState pg .run && mayStop s pg) (fun s => (stopNow pg s, rDONE)) s) := by
  simp [execBlockStop, hb, hop, hn]

theorem execBlockStop_long {pg ag arg op : Nat} {b : Blk} {s : State} (hb : pageBlk pg = some b) (hop : runOp b = some op)
    (hn : stopsAtOnce b = false) :
    execBlockStop pg ag arg s
      = .next (commandLong pg ag (op + 1) arg (arg = 0) (s.inState pg .run && mayStop s pg) [] (stopBegins pg) s) := by
  simp [execBlockStop, hb, hop, hn]

theorem execBlockStopComplete_ended {pg : Nat} {c : RunCmd} {s : State} (hp : pg ≠ pBOOT) (hr : s.inState pg .run = true)
    (hc : (s.page pg).cmd = some c) (ho : c.op = 0x41) (hw : workEnded s pg = true) :
    execBlockStopComplete pg s = .next (finishCmd pg rDONE (setState pg .ready s)) := by
  simp [execBlockStopComplete, hp, hr, hc, ho, hw]

/-- Settles O12: each command by its acceptance, BLOCK_RUN and BLOCK_STOP first by the block they are given to. -/
theorem commonCommandsComplete : Obligations.CommonCommandsComplete := by
  intro pg ag arg s
  refine ⟨?nop, ?reinit, ?fence, ?release, ?scrub, ?discard, ?run, ?stopNow, ?stop, ?stopped⟩
  case nop => exact fun h => congrArg _ (command_done h _)
  case reinit => exact fun h => congrArg _ (commandLong_done h _ _)
  case fence => exact fun h => congrArg _ (command_done h _)
  case release => exact fun h => congrArg _ (commandLong_done h _ _)
  case scrub => exact fun upsets h => congrArg _ (command_done h _)
  case discard =>
    intro h hc
    refine (congrArg _ (command_done h _)).trans ?_
    simp [hc]
  case run => exact fun b op hb hop ht h => (execBlockRun_of_runOp hb hop ht).trans (congrArg _ (command_done h _))
  case stopNow => exact fun b op hb hop hn h => (execBlockStop_atOnce hb hop hn).trans (congrArg _ (command_done h _))
  case stop => exact fun b op hb hop hn h => (execBlockStop_long hb hop hn).trans (congrArg _ (commandLong_done h _ _))
  case stopped => exact fun c hp hr hc ho hw => execBlockStopComplete_ended hp hr hc ho hw

end Sys2Proof.Machine
end

section
/-! SUPPORT. Commits and their boundaries (R62 to R64), locks (R70), posted writes (R66), the ends of long commands (R57, R629), and the faults of
handshakes with the sweep of a fence (R28, R477, R484). -/
namespace Sys2Proof.Machine

/-! ### GO (R62, R64) -/

theorem commitWrite_go {pg ag v : Nat} {s : State} (hv : v % 65536 = 1) (hl : lockedBy s pg ag = false) :
    commitWrite pg ag v s = record pg ag 7 0xFF (commitGo pg ag s).2 (commitGo pg ag s).1 := by
  have hodd : v % 2 = 1 := by omega
  simp [commitWrite, hl, hv, hodd]

/-- GO past all its checks: the commit point, or APPLIED_SEQ alone where no field differs. -/
theorem commitGo_performed {pg ag : Nat} {s : State} (hl : lockedBy s pg ag = false) (hr : goRange s pg ag = true)
    (hlapse : (s.page pg).lapsed ≠ some ag) (hp : (s.page pg).commitPending = false) (hst : goState s pg = true)
    (ho : (gatesOf s pg).isEmpty = true ∨ ag = 13 ∨ singleOwner s = true) :
    commitGo pg ag s = (if anyShadow s pg then boundaryNow pg (commitPoint pg ag s)
      else s.updPage pg (fun h => { h with appliedSeq := (h.appliedSeq + 1) % 65536 }), rDONE) := by
  have howner : (!(gatesOf s pg).isEmpty && ag != 13 && !singleOwner s) = false := by
    rcases ho with h | h | h <;> simp [h]
  simp only [commitGo, hl, hr, hlapse, hp, hst, howner, Bool.false_eq_true, Bool.not_true, Bool.or_false, if_false]
  cases anyShadow s pg <;> rfl

/-! ### Boundaries (R63) -/

section boundaries
variable {pg kind : Nat} {s : State} (hc : (s.page pg).commitPending = true) (hh : s.inState pg .halted = false)
include hc hh

theorem commitApply_port (hb : pageBlk pg = some .port) :
    commitApply pg 0 s = commitDone pg (syncGuards (preemptChanged pg s
      (applyKeys pg (fun k => decide (keyOff k < 0x800) && frameBoundary s pg k) s))) := by
  simp [commitApply, hc, hh, hb]

theorem commitApply_buf (hb : pageBlk pg = some .buf) (hr : secondRound s pg = true) :
    commitApply pg kind s = commitDone pg (syncShared (pageRegion pg) (applyKind pg 0 (applyKind pg 1 s))) := by
  simp [commitApply, hc, hh, hb, hr]

theorem commitApply_fabric (hb : pageBlk pg = some .xbar ∨ pageBlk pg = some .sfab) (hr : secondRound s pg = true) :
    commitApply pg kind s = commitDone pg (applyKind pg 0 (applyKind pg 1 s)) := by
  rcases hb with hb | hb <;> simp [commitApply, hc, hh, hb, hr]

theorem commitApply_prs (hb : pageBlk pg = some .prs) (hs : (s.page pg).substate = 0) :
    commitApply pg kind s = commitDone pg (applyKind pg 0 (applyKind pg 1 s)) := by
  simp [commitApply, hc, hh, hb, hs]

theorem commitApply_rpl (hp : pg = pRPL 0) :
    commitApply pg kind s = commitDone pg (applyKind pg 0 (applyKind pg 1 (mirrorRestart s))) := by
  subst hp
  have hb : pageBlk (pRPL 0) = some .rpl := rfl
  simp [commitApply, hc, hh, hb]

theorem commitApply_shaper (hb : pageBlk pg = some .qsc) (hs : shaperCommitted s pg = true)
    (hi : shaperBusy s (2048 * pageRegion pg + s.rd pg F.QSC_SHP_SEL_SEL) = false) :
    commitApply pg 0 s = commitDone pg (applyKind pg 0 (applyShaper (pageRegion pg) s)) := by
  simp [commitApply, hc, hh, hb, hs, hi]

theorem commitApply_qscLower (hb : pageBlk pg = some .qsc) (hs : shaperCommitted s pg = false) :
    commitApply pg 0 s = commitDone pg (applyKind pg 0 s) := by
  simp [commitApply, hc, hh, hb, hs]

theorem commitApply_qscUpper (hb : pageBlk pg = some .qsc) (hr : secondRound s pg = true) (hk : kind ≠ 0) :
    commitApply pg kind s = commitDone pg (applyKind pg 1 s) := by
  simp [commitApply, hc, hh, hb, hr, hk]

theorem commitApply_peat (hb : pageBlk pg = some .peat) : commitApply pg kind s = commitDone pg (peatBoundary s) := by
  simp [commitApply, hc, hh, hb]

theorem commitApply_eng (hb : pageBlk pg = some .eng) :
    commitApply pg kind s = commitDone pg (applyKind pg 0 (applyKind pg 1 s)) := by
  simp [commitApply, hc, hh, hb]

end boundaries

/-- The learning buckets of a region's ports are brought up to now, so that a new rate runs from here (R153). -/
def learnSettled (r : Nat) (s : State) : State :=
  { s with tab := { s.tab with tokens := (List.range 12).foldl (fun (m : SMap (Nat × Nat × Nat)) i =>
      m.insert (12 * r + i) ((learnTokens s (12 * r + i)).1, (learnTokens s (12 * r + i)).2, s.now)) s.tab.tokens } }

theorem commitApply_lkp {pg kind : Nat} {s : State} (hc : (s.page pg).commitPending = true) (hh : s.inState pg .halted = false)
    (hb : pageBlk pg = some .lkp) : commitApply pg kind s = commitDone pg (applyKind pg kind (learnSettled (pageRegion pg) s)) := by
  simp [commitApply, hc, hh, hb, learnSettled]

theorem find?_foldl_insert {α : Type} (g : Nat → α) (b : Nat) (m : SMap α) {n i : Nat} (hi : i < n) :
    ((List.range n).foldl (fun (m : SMap α) i => m.insert (b + i) (g i)) m).find? (b + i) = some (g i) := by
  induction n with
  | zero => omega
  | succ n ih =>
    rw [List.range_succ, List.foldl_append]
    by_cases h : i = n
    · subst h
      exact SMap.find?_insert_same ..
    · exact (SMap.find?_insert_other _ _ (by omega)).trans (ih (by omega))

theorem tokens_learnSettled (r : Nat) (s : State) {i : Nat} (hi : i < 12) :
    (learnSettled r s).tab.tokens.find? (12 * r + i)
      = some ((learnTokens s (12 * r + i)).1, (learnTokens s (12 * r + i)).2, s.now) :=
  find?_foldl_insert (fun i => ((learnTokens s (12 * r + i)).1, (learnTokens s (12 * r + i)).2, s.now)) (12 * r) s.tab.tokens hi

/-! ### Locks (R70, R460) -/

theorem lockCommand_acquire {pg ag lease : Nat} {s : State} (hag : agOk ag = true) (h0 : 0 < lease) (h1 : lease ≤ 1000000)
    (hown : ∀ l : Lock, (s.page pg).lock = some l → l.owner = ag) :
    lockCommand pg ag true false lease s = record pg ag 8 0xFF rDONE (s.updPage pg (fun h =>
      { h with lock := some ⟨ag, s.now + lease * usU⟩, lapsed := if h.lapsed = some ag then none else h.lapsed })) := by
  have hfree : (s.page pg).lock.any (fun x => x.owner != ag) = false := by
    cases hl : (s.page pg).lock with
    | none => rfl
    | some l => simp [hown l hl]
  have hlease : (decide (lease = 0) || decide (1000000 < lease)) = false := by
    simp only [Bool.or_eq_false_iff, decide_eq_false_iff_not]
    omega
  simp [lockCommand, hag, lockWrite, hfree, hlease]

theorem lockCommand_release {pg ag : Nat} {l : Lock} {s : State} (hag : agOk ag = true) (hl : (s.page pg).lock = some l) (ho : l.owner = ag) :
    lockCommand pg ag false true 0 s
      = record pg ag 8 0xFF rDONE (dropShadowsOf pg ag (s.updPage pg (fun h => { h with lock := none }))) := by
  simp [lockCommand, hag, lockWrite, hl, ho]

theorem plock_mateSend (kind tc q : Nat) (d : List Byte) (s : State) : (mateSend kind tc q d s).mate.plock = s.mate.plock := by
  unfold mateSend
  split
  · rfl
  · rw [count, countBy_frame]

theorem plock_plMirror (s : State) : (plMirror s).mate.plock = s.mate.plock := by
  unfold plMirror
  split
  · rfl
  · split <;> exact plock_mateSend ..

/-- The pair lock's lease ends in its freedom, whoever held it. -/
theorem plock_pairLeaseEnds {l : PairLock} {s : State} (hl : s.mate.plock = some l) : (pairLeaseEnds s).mate.plock = none := by
  have hmirror : (if singleOwner (setPlock none s) then plMirror (setPlock none s) else setPlock none s).mate.plock = none := by
    split
    · exact plock_plMirror _
    · rfl
  simp only [pairLeaseEnds, hl]
  split <;> exact hmirror

/-! ### Posted writes (R66) -/

section posted
variable {pg : Nat} {s : State} (hp : (s.page pg).posted ≠ [])
include hp

theorem postedDelivery_ldg (hb : pageBlk pg = some .ldg) : postedDelivery pg s = syncHoldup (takePosted pg s) := by
  simp [postedDelivery, hp, hb]

theorem postedDelivery_peat (hb : pageBlk pg = some .peat) :
    postedDelivery pg s = if (s.page pg).posted.any (fun e => e.1 / 32 = pg * 1024 + 0x0C8 / 4) then modeRegsWrite (takePosted pg s)
      else takePosted pg s := by
  simp only [postedDelivery, List.isEmpty_eq_false_iff.mpr hp, hb, Bool.false_eq_true, if_false]

theorem postedDelivery_mate (hb : pageBlk pg = some .mate) :
    postedDelivery pg s = if (s.page pg).posted.any (fun e => e.1 / 32 = pg * 1024 + 0x040 / 4) then linkEnabled (takePosted pg s)
      else takePosted pg s := by
  simp only [postedDelivery, List.isEmpty_eq_false_iff.mpr hp, hb, Bool.false_eq_true, if_false]

theorem postedDelivery_time (hb : pageBlk pg = some .time) :
    postedDelivery pg s = timeDelivered (fun off => (s.page pg).posted.any (fun e => e.1 / 32 = pg * 1024 + off / 4))
      (fun d => s.rdB pTIME F.DOM_CFG_EN d) (takePosted pg (rebasePhase s)) := by
  simp only [postedDelivery, List.isEmpty_eq_false_iff.mpr hp, hb, Bool.false_eq_true, if_false]

theorem postedDelivery_port (hb : pageBlk pg = some .port) :
    postedDelivery pg s = (List.range 3).foldl (fun t q =>
      if (s.page pg).posted.any (fun e => e.1 / 32 = pg * 1024 + (0x380 + 0x20 * q) / 4)
          || (s.page pg).posted.any (fun e => e.1 / 32 = pg * 1024 + (0x384 + 0x20 * q) / 4)
        then syncQuad (pageRegion pg) q t else t) (takePosted pg s) := by
  simp only [postedDelivery, List.isEmpty_eq_false_iff.mpr hp, hb, Bool.false_eq_true, if_false]

/-- The host interface's delivery where no posted value is of a management port. -/
theorem postedDelivery_hif (hb : pageBlk pg = some .hif)
    (hm : ((s.page pg).posted.any fun e => 0x100 / 4 ≤ e.1 / 32 - pg * 1024 && e.1 / 32 - pg * 1024 < 0x140 / 4) = false) :
    postedDelivery pg s = faultSync (takePosted pg s) := by
  have hit : ∀ k, 0x100 / 4 ≤ k → k < 0x140 / 4 → (s.page pg).posted.any (fun e => e.1 / 32 = pg * 1024 + k) = false := by
    intro k h0 h1
    rw [List.any_eq_false] at hm ⊢
    intro e he heq
    refine hm e he ?_
    simp [of_decide_eq_true heq, h0, h1]
  simp [postedDelivery, hp, hb, List.range_succ, hit]

end posted

/-! ### The ends of long commands (R57, R59, R629) -/

section completion
variable {pg : Nat} {c : RunCmd} {s : State} (hc : (s.page pg).cmd = some c)
include hc

/-- REINIT and RELEASE end in READY. -/
theorem commandDone_reinit (ho : c.op = 0x01 ∨ c.op = 0x03) (hr : s.inState pg .reinit = true) :
    commandDone pg s = finishCmd pg rDONE (reinitDone pg s) := by
  simp [commandDone, hc, ho, hr]

theorem commandDone_tableClear (ho : c.op = 0x48) (hb : pageBlk pg = some .lkp) :
    commandDone pg s = finishCmd pg rDONE (s.updPage pg (fun h => { h with substate := 0 })) := by
  simp [commandDone, hc, ho, hb]

theorem commandDone_csScrub (ho : c.op = 0x44) (hb : pageBlk pg = some .eng)
    (hw : (scrubWords (pageRegion pg) (badWords s (pageRegion pg)) s).1 = true) :
    commandDone pg s = finishCmd pg rDONE (scrubWords (pageRegion pg) (badWords s (pageRegion pg)) s).2 := by
  simp [commandDone, hc, ho, hb, hw]

theorem commandDone_ownerSweep {x : Nat} (ho : c.op = 0x44) (ha : c.ops = [x]) (hb : pageBlk pg = some .buf) :
    commandDone pg s = finishCmd pg rDONE (ownerSwept pg x s) := by
  simp [commandDone, hc, ho, ha, hb]

theorem commandDone_turfSweep {x y : Nat} (ho : c.op = 0x43) (ha : c.ops = [x, y]) (hb : pageBlk pg = some .peat) :
    commandDone pg s = finishCmd pg rDONE (turfSweep c.arg x y s) := by
  simp [commandDone, hc, ho, ha, hb]

theorem commandDone_readRec {x : Nat} (ho : c.op = 0x43) (ha : c.ops = [x]) (hb : pageBlk pg = some .ldg) (hf : s.boot.flashOp = none) :
    commandDone pg s = finishCmd pg (readRec x s).2 (readRec x s).1 := by
  simp [commandDone, hc, ho, ha, hb, hf]

theorem commandDone_boot (hp : pg = pBOOT) (h1 : c.op ≠ 0x01) (h3 : c.op ≠ 0x03) : commandDone pg s = bootCommandDone c s := by
  have hb : pageBlk pg = some .boot := by rw [hp]; rfl
  simp [commandDone, hc, h1, h3, hb]

end completion

theorem bootCommandDone_rbAdvance {c : RunCmd} {n : Nat} (ho : c.op = 0x41) (ha : c.ops = [n]) (s : State) :
    bootCommandDone c s = finishCmd pBOOT rDONE (blowTo n s) := by
  simp [bootCommandDone, ho, ha]

theorem bootCommandDone_otpWrite {c : RunCmd} {k v : Nat} (ho : c.op = 0x42) (ha : c.ops = [k, v]) (s : State) :
    bootCommandDone c s = finishCmd pBOOT rDONE (blow k v s) := by
  simp [bootCommandDone, ho, ha]

theorem bootCommandDone_flashRead {c : RunCmd} {k n : Nat} {s : State} (ho : c.op = 0x44) (ha : c.ops = [k, n]) (hf : s.boot.flashOp = none) :
    bootCommandDone c s = finishCmd pBOOT rDONE (flashToData k n s) := by
  simp [bootCommandDone, ho, ha, hf]

/-- A program or an erase ends with the code its operation left. -/
theorem bootCommandDone_flashWrite {c : RunCmd} {code : Nat} {s : State} (ho : c.op = 0x45 ∨ c.op = 0x46) (hf : s.boot.flashOp = none)
    (hr : s.boot.opCode = some code) :
    bootCommandDone c s = finishCmd pBOOT code { s with boot := { s.boot with opCode := none } } := by
  rcases ho with ho | ho <;> simp [bootCommandDone, ho, hf, hr]

/-! ### Handshakes and sweeps (R28, R477, R484) -/

theorem handshakeTimeout_noted {pg other fails : Nat} {s : State} (hs : stateIn s pg [.reset, .fenced, .halted] = false) (hf : fails < 3) :
    handshakeTimeout pg other fails s = (report pg .noted s).updPage pg (fun h => { h with lastCode := rTIMEOUT }) := by
  simp [handshakeTimeout, hs, hf]

theorem stateIn_false_of_stateIn {s : State} {p : Nat} {l m : List BlkState} (h : stateIn s p l = true) (hd : ∀ b ∈ l, b ∉ m) :
    stateIn s p m = false := by
  simp only [stateIn, List.contains_iff_mem] at h
  simpa [stateIn] using hd _ h

/-- The last retry of a serving block's handshake: the region is fenced where the other cell is another block's of the region, else the block, with
cause 5 where the other cell is its own. -/
theorem handshakeTimeout_fences {pg other fails : Nat} {s : State} (hs : stateIn s pg [.ready, .run] = true) (hf : 3 ≤ fails) :
    handshakeTimeout pg other fails s =
      if 0x010 ≤ pg && 0x010 ≤ other && other != pg && pageRegion pg = pageRegion other then
        regionFence pg (pageRegion pg) ((report pg .noted s).updPage pg (fun h => { h with lastCode := rTIMEOUT }))
      else blockFault pg (if other = pg then 5 else 1) ((report pg .noted s).updPage pg (fun h => { h with lastCode := rTIMEOUT })) := by
  have hdown : stateIn s pg [.reset, .fenced, .halted] = false := stateIn_false_of_stateIn hs (by decide)
  simp only [handshakeTimeout, hdown, hs, Nat.not_lt.mpr hf, Bool.false_eq_true, Bool.not_true, if_false]

theorem handshakeTimeout_escalates {pg other fails : Nat} {s : State} (hp : pg = pXBAR ∨ pg = pSFAB) (hs : s.inState pg .reinit = true)
    (hf : 3 ≤ fails) :
    handshakeTimeout pg other fails s = escalate pg ((report pg .noted s).updPage pg (fun h => { h with lastCode := rTIMEOUT })) := by
  have hdown : stateIn s pg [.reset, .fenced, .halted] = false := stateIn_false_of_inState hs (by decide)
  have hserves : stateIn s pg [.ready, .run] = false := stateIn_false_of_inState hs (by decide)
  have hpage : (decide (pg = pXBAR) || decide (pg = pSFAB)) = true := by simpa using hp
  simp only [handshakeTimeout, hdown, hserves, hs, hpage, Nat.not_lt.mpr hf, Bool.false_eq_true, Bool.not_false, Bool.and_self, if_true, if_false]

theorem execHandshakeTimeout_withinCell (pg fails : Nat) (s : State) : execHandshakeTimeout pg 0 fails s = .next (handshakeTimeout pg 0x00F (fails + 1) s) := rfl
theorem execHandshakeTimeout_betweenCells (pg fails : Nat) (s : State) : execHandshakeTimeout pg 1 fails s = .next (handshakeTimeout pg pg (fails + 1) s) := rfl

/-- The page beside a region page, the other side of a handshake between two blocks of the region. -/
def neighbourPage (pg : Nat) : Nat := if pg % 0x010 = 0 then pg + 1 else pg - 1

theorem execHandshakeTimeout_betweenBlocks (pg fails : Nat) (s : State) :
    execHandshakeTimeout pg 2 fails s = .next (handshakeTimeout pg (neighbourPage pg) (fails + 1) s) := rfl

theorem neighbourPage_sameRegion {pg : Nat} (h : 0x010 ≤ pg) :
    0x010 ≤ neighbourPage pg ∧ neighbourPage pg ≠ pg ∧ pageRegion pg = pageRegion (neighbourPage pg) := by
  unfold neighbourPage pageRegion
  split <;> omega

theorem fenceSweep_next {r tag : Nat} {l : List Nat} {rest : List (Nat × List Nat)} {s : State} (h : (s.pool r).sweeps = (tag, l) :: rest) :
    fenceSweep r s = (exchange (cordLost (l.foldl (fun s b =>
      if (s.link (65536 * r + b)).alloc && (s.link (65536 * r + b)).owner = tag then freeBillet (65536 * r + b) s else s) s))).updPool r
        (fun p => { p with sweeps := rest }) := by
  rw [fenceSweep, h]

/-! ### The commands' answers -/

section answers
variable {pg ag kind lease : Nat} {s t : State}

theorem exec_commitApply (h : commitApply pg kind s = t) : exec (.commitApply pg kind) s = .next t := congrArg Host.Outcome.next h
theorem exec_lockAcquire (h : lockCommand pg ag true false lease s = t) : exec (.lockAcquire pg ag lease) s = .next t := congrArg Host.Outcome.next h
theorem exec_lockRelease (h : lockCommand pg ag false true 0 s = t) : exec (.lockRelease pg ag) s = .next t := congrArg Host.Outcome.next h
theorem exec_postedDelivery (h : postedDelivery pg s = t) : exec (.postedDelivery pg) s = .next t := congrArg Host.Outcome.next h
theorem exec_commandCompletion (h : commandDone pg s = t) : exec (.commandCompletion pg) s = .next (settleReset t) :=
  congrArg (fun t => Host.Outcome.next (settleReset t)) h

end answers

/-- Settles O13: every part by the lemma of its operation; the hypotheses are that operation's conditions. -/
theorem commitsLocksAndFencesComplete : Obligations.CommitsLocksAndFencesComplete := by
  refine ⟨fun pg ag kind s => ⟨?go, ?boundary, ?acquire, ?release, ?pairLease, ?posted⟩,
    fun pg s => ⟨?completion, ?scrubPass, ?noted, ?fences, ?escalates, ?sweep⟩⟩
  case go =>
    intro v hv hl hr hlapse hp hst ho
    refine (congrArg Host.Outcome.next (commitWrite_go hv hl)).trans ?_
    rw [commitGo_performed hl hr hlapse hp hst ho]
  case boundary =>
    intro hc hh
    refine ⟨?port, ?buf, ?fabric, ?prs, ?lkp, ?rpl, ?shaper, ?qscLower, ?qscUpper, ?peat, ?eng⟩
    case port => exact fun hb => exec_commitApply (commitApply_port hc hh hb)
    case buf => exact fun hb hr => exec_commitApply (commitApply_buf hc hh hb hr)
    case fabric => exact fun hb hr => exec_commitApply (commitApply_fabric hc hh hb hr)
    case prs => exact fun hb hs => exec_commitApply (commitApply_prs hc hh hb hs)
    case lkp =>
      exact fun hb => ⟨learnSettled (pageRegion pg) s, exec_commitApply (commitApply_lkp hc hh hb), rfl, rfl, fun i hi => tokens_learnSettled _ s hi⟩
    case rpl => exact fun hp => exec_commitApply (commitApply_rpl hc hh hp)
    case shaper => exact fun hb hs hi => exec_commitApply (commitApply_shaper hc hh hb hs hi)
    case qscLower => exact fun hb hs => exec_commitApply (commitApply_qscLower hc hh hb hs)
    case qscUpper => exact fun hb hr hk => exec_commitApply (commitApply_qscUpper hc hh hb hr hk)
    case peat => exact fun hb => exec_commitApply (commitApply_peat hc hh hb)
    case eng => exact fun hb => exec_commitApply (commitApply_eng hc hh hb)
  case acquire => exact fun lease hag h0 h1 hown => exec_lockAcquire (lockCommand_acquire hag h0 h1 hown)
  case release => exact fun l hag hl ho => exec_lockRelease (lockCommand_release hag hl ho)
  case pairLease => exact fun l hl => ⟨rfl, plock_pairLeaseEnds hl⟩
  case posted =>
    intro hp
    refine ⟨?ldg, ?peat, ?mate, ?time, ?port, ?hif⟩
    case ldg => exact fun hb => exec_postedDelivery (postedDelivery_ldg hp hb)
    case peat => exact fun hb => exec_postedDelivery (postedDelivery_peat hp hb)
    case mate => exact fun hb => exec_postedDelivery (postedDelivery_mate hp hb)
    case time => exact fun hb => exec_postedDelivery (postedDelivery_time hp hb)
    case port => exact fun hb => exec_postedDelivery (postedDelivery_port hp hb)
    case hif => exact fun hb hm => exec_postedDelivery (postedDelivery_hif hp hb hm)
  case completion =>
    intro c hc
    refine ⟨?reinit, ?tableClear, ?csScrub, ?ownerSweep, ?turfSweep, ?readRec, ?rbAdvance, ?otpWrite, ?flashRead, ?flashWrite⟩
    case reinit => exact fun ho hr => exec_commandCompletion (commandDone_reinit hc ho hr)
    case tableClear => exact fun ho hb => exec_commandCompletion (commandDone_tableClear hc ho hb)
    case csScrub => exact fun ho hb hw => exec_commandCompletion (commandDone_csScrub hc ho hb hw)
    case ownerSweep => exact fun x ho ha hb => exec_commandCompletion (commandDone_ownerSweep hc ho ha hb)
    case turfSweep => exact fun x y ho ha hb => exec_commandCompletion (commandDone_turfSweep hc ho ha hb)
    case readRec => exact fun x ho ha hb hf => exec_commandCompletion (commandDone_readRec hc ho ha hb hf)
    case rbAdvance =>
      exact fun n ho ha hp => exec_commandCompletion
        ((commandDone_boot hc hp (by omega) (by omega)).trans (bootCommandDone_rbAdvance ho ha s))
    case otpWrite =>
      exact fun k v ho ha hp => exec_commandCompletion
        ((commandDone_boot hc hp (by omega) (by omega)).trans (bootCommandDone_otpWrite ho ha s))
    case flashRead =>
      exact fun k n ho ha hp hf => exec_commandCompletion
        ((commandDone_boot hc hp (by omega) (by omega)).trans (bootCommandDone_flashRead ho ha hf))
    case flashWrite =>
      exact fun code ho hp hf hr => exec_commandCompletion
        ((commandDone_boot hc hp (by omega) (by omega)).trans (bootCommandDone_flashWrite ho hf hr))
  case scrubPass => exact fun _ => rfl
  case noted => exact fun between fails hs hf => congrArg Host.Outcome.next (handshakeTimeout_noted hs (by omega))
  case fences =>
    intro fails hs hf
    have hlast : 3 ≤ fails + 1 := by omega
    refine ⟨?own, ?within, ?blocks⟩
    case own =>
      rw [exec, execHandshakeTimeout_betweenCells, handshakeTimeout_fences hs hlast]
      simp
    case within =>
      intro hp
      rw [exec, execHandshakeTimeout_withinCell, handshakeTimeout_fences hs hlast]
      simp [Ne.symm hp]
    case blocks =>
      intro hp
      obtain ⟨hregion, hother, hsame⟩ := neighbourPage_sameRegion hp
      rw [exec, execHandshakeTimeout_betweenBlocks, handshakeTimeout_fences hs hlast]
      simp [hp, hregion, hother, ← hsame]
  case escalates => exact fun fails hp hs hf => congrArg Host.Outcome.next (handshakeTimeout_escalates hp hs (by omega))
  case sweep => exact fun r tag l rest h => congrArg Host.Outcome.next (fenceSweep_next h)

end Sys2Proof.Machine
end

section
/-! SUPPORT. No command stops the machine (R56): every one answers a next state. -/
namespace Sys2Proof.Machine

/-- The meaning of every constructor is a next state. -/
theorem exec_answers (i : Instr) (s : State) : ∃ t, exec i s = .next t := by
  cases i <;> exact ⟨_, rfl⟩

theorem step_answers (s : State) : ∃ t, step s = .next t := by
  unfold step
  split
  · exact ⟨_, rfl⟩
  · exact exec_answers _ _

/-- Settles O60: each step answers, so a run of any length goes on. -/
theorem everyCommandAnswers : Obligations.EveryCommandAnswers := by
  refine ⟨exec_answers, fun n => ?_⟩
  induction n with
  | zero => exact fun s => ⟨s, rfl⟩
  | succ n ih =>
    intro s
    obtain ⟨t, ht⟩ := step_answers s
    obtain ⟨u, hu⟩ := ih t
    refine ⟨u, ?_⟩
    rw [runFor, ht]
    exact hu

end Sys2Proof.Machine
end

section
/-! SUPPORT. Writes by address (R49 to R54, R628): which meaning a write to a page, to a register with a row of its own and to a table window takes. -/
namespace Sys2Proof.Machine

/-! ### Pages (R49) -/

theorem pageRegion_pReg (r : Nat) {k : Nat} (hk : k < 16) : pageRegion (pReg r k) = r := by
  unfold pageRegion pReg
  omega

theorem pageRegion_pPORT (r : Nat) : pageRegion (pPORT r) = r := pageRegion_pReg r (by decide)
theorem pageRegion_pENG (r : Nat) : pageRegion (pENG r) = r := pageRegion_pReg r (by decide)
theorem pageRegion_pQSC (r : Nat) : pageRegion (pQSC r) = r := pageRegion_pReg r (by decide)

theorem pageBlk_pReg {r k : Nat} (hr : r < 4) (hk : k < 16) :
    pageBlk (pReg r k) = ([.port, .prs, .eng, .lkp, .buf, .qsc, .rpl] : List Blk)[k]? := by
  have hslot : (pReg r k - 0x010) % 0x010 = k := by
    unfold pReg
    omega
  have hlo : ¬ pReg r k < 0x010 := by
    unfold pReg
    omega
  have hhi : pReg r k < 0x050 := by
    unfold pReg
    omega
  rw [pageBlk, if_neg hlo, if_pos hhi, hslot]

theorem pageBlk_pPORT {r : Nat} (hr : r < 4) : pageBlk (pPORT r) = some .port := pageBlk_pReg hr (by decide)
theorem pageBlk_pENG {r : Nat} (hr : r < 4) : pageBlk (pENG r) = some .eng := pageBlk_pReg hr (by decide)
theorem pageBlk_pQSC {r : Nat} (hr : r < 4) : pageBlk (pQSC r) = some .qsc := pageBlk_pReg hr (by decide)

/-- The offsets from 0x400000 on are no page's. -/
theorem pageBlk_of_window {a : Nat} (h : 0x400000 ≤ a) : pageBlk (a / 0x4000) = none := by
  rw [pageBlk, if_neg (by omega), if_neg (by omega)]

/-- The time block has one page. -/
theorem eq_pTIME_of_pageBlk {pg : Nat} (h : pageBlk pg = some .time) : pg = pTIME := by
  have hpages : ∀ p < 0x050, pageBlk p = some .time → p = pTIME := by decide
  by_cases hlt : pg < 0x050
  · exact hpages pg hlt h
  · rw [pageBlk, if_neg (by omega), if_neg hlt] at h
    cases h

/-! ### Accesses (R52) -/

section access
variable {pg off ag v : Nat} {w : View} {s : State} (hr : s.boot.inReset = false)
include hr

theorem exec_registerWrite (width : Nat) :
    exec (.registerWrite pg off w ag width v) s = .next (settleReset (pageAccess pg off w ag width v s)) := by
  rw [exec, execRegisterWrite, hr]
  rfl

theorem exec_registerWrite_word (h : off % 4 = 0) :
    exec (.registerWrite pg off w ag 4 v) s = .next (settleReset (pageWrite pg off w ag v s)) := by
  rw [exec_registerWrite hr]
  simp [pageAccess, h]

theorem exec_registerWrite_double (h : off % 8 = 0) :
    exec (.registerWrite pg off w ag 8 v) s
      = .next (settleReset (pageWrite pg (off + 4) w ag (v / 2 ^ 32) (pageWrite pg off w ag (v % 2 ^ 32) s))) := by
  rw [exec_registerWrite hr]
  simp [pageAccess, h]

theorem exec_registerWrite_narrow {width : Nat} (h4 : ¬ (width = 4 ∧ off % 4 = 0)) (h8 : ¬ (width = 8 ∧ off % 8 = 0))
    (hl : lockedBy s pg ag = false ∨ off / 4 = 8) :
    exec (.registerWrite pg off w ag width v) s
      = .next (settleReset (record pg ag (off / 4) 0xFF rRANGE (s.updPage pg (fun h => { h with accErr := true })))) := by
  have hgo : (lockedBy s pg ag && off / 4 != 8) = false := by
    rcases hl with h | h <;> simp [h]
  rw [exec_registerWrite hr]
  simp [pageAccess, h4, h8, narrowWrite, hgo]

end access

theorem pageWrite_header {pg off : Nat} (hb : pageBlk pg ≠ none) (h : off < 0x040) (w : View) (ag v : Nat) (s : State) :
    pageWrite pg off w ag v s = headerWrite pg off w ag v s := by
  obtain ⟨b, hb⟩ := Option.ne_none_iff_exists'.mp hb
  simp [pageWrite, hb, h]

theorem pageWrite_register {pg off : Nat} {b : Blk} (hb : pageBlk pg = some b) (h : 0x040 ≤ off) (w : View) (ag v : Nat) (s : State) :
    pageWrite pg off w ag v s = registerWrite pg b off w ag v s := by
  simp [pageWrite, hb, Nat.not_lt.mpr h]

/-! ### The common header (R56, R58) -/

/-- A word of BLK_CMD without RSV bits is the command its opcode names. -/
theorem commandWrite_of_commandOf {pg op arg : Nat} {b : Blk} {f : Nat → Nat → Nat → State → Res} (hb : pageBlk pg = some b)
    (hf : commandOf b op = some f) (hop : op < 256) (ag : Nat) (s : State) :
    commandWrite pg ag (65536 * arg + op) s = after (f pg ag arg s) s := by
  have hopcode : (65536 * arg + op) % 256 = op := by omega
  have hrsv : (65536 * arg + op) / 256 % 256 = 0 := by omega
  have harg : (65536 * arg + op) / 65536 = arg := by omega
  simp only [commandWrite, hopcode, hrsv, harg, hb, hf, Option.bind_some, if_true]

theorem headerWrite_command (pg ag v : Nat) (s : State) : headerWrite pg 0x010 .normal ag v s = commandWrite pg ag v s := rfl
theorem headerWrite_commit (pg ag v : Nat) (s : State) : headerWrite pg 0x01C .normal ag v s = commitWrite pg ag v s := rfl

/-- A number within a mask's low bits is all of it. -/
theorem and_eq_self_of_lt {v n m : Nat} (hv : v < 2 ^ n) (hm : (2 ^ n - 1) &&& m = 2 ^ n - 1) : v &&& m = v := by
  have hlow : v &&& (2 ^ n - 1) = v := by rw [Nat.and_two_pow_sub_one_eq_mod, Nat.mod_eq_of_lt hv]
  calc v &&& m = v &&& ((2 ^ n - 1) &&& m) := by rw [← Nat.and_assoc, hlow]
    _ = v := by rw [hm, hlow]

/-- ACQ with a lease in the low 20 bits. -/
theorem headerWrite_acquire {v : Nat} (hv : v < 2 ^ 20) (pg ag : Nat) (s : State) :
    headerWrite pg 0x020 .normal ag (2 ^ 30 + v) s = lockCommand pg ag true false v s := by
  have hor : 2 ^ 30 + v = 2 ^ 30 ||| v := Nat.two_pow_add_eq_or_of_lt (show v < 2 ^ 30 by omega) 1
  have hmask : (2 ^ 30 + v) &&& 0xE0FFFFFF = 2 ^ 30 + v := by
    rw [hor, Nat.and_or_distrib_right, and_eq_self_of_lt hv (by decide), show 2 ^ 30 &&& 0xE0FFFFFF = 2 ^ 30 by decide]
  have hacq : (2 ^ 30 + v).testBit 30 = true := by rw [hor, Nat.testBit_or, Nat.testBit_two_pow_self, Bool.true_or]
  have hrel : (2 ^ 30 + v).testBit 29 = false := by
    rw [hor, Nat.testBit_or, Nat.testBit_lt_two_pow (show v < 2 ^ 29 by omega)]
    decide
  have hlease : (2 ^ 30 + v) % 2 ^ 20 = v := by omega
  have hword : 2 ^ 30 + v < 2 ^ 32 := by omega
  simp only [headerWrite, headerMask, hmask, hacq, hrel, hlease, hword]
  rfl

theorem headerWrite_release (pg ag : Nat) (s : State) :
    headerWrite pg 0x020 .normal ag (2 ^ 29) s = lockCommand pg ag false true 0 s := rfl

/-- A clear of a header's sticky bits and counts by an agent that the lock does not keep out. -/
theorem headerWrite_clear {pg off ag v m : Nat} {s : State} (hm : headerMask off = some m) (hm32 : m < 2 ^ 32) (ho : off ∉ [0x010, 0x01C, 0x020])
    (hl : lockedBy s pg ag = false) (hv : v &&& m = v) :
    headerWrite pg off .clear ag v s = record pg ag (off / 4) 0xFF rDONE (clearHeader pg off v s) := by
  have hv32 : v < 4294967296 := Nat.lt_of_le_of_lt (hv ▸ Nat.and_le_right) hm32
  simp only [List.mem_cons, List.not_mem_nil, or_false, not_or] at ho
  obtain ⟨-, -, hlock⟩ := ho
  simp [headerWrite, hm, hv, hv32, hlock, hl, firstFail]

/-! ### Registers (R54, R56) -/

theorem registerWrite_plain {pg off ag v : Nat} {w : View} {b : Blk} {s : State} (hb : pageBlk pg = some b) (ho : ownRow b off = false)
    (h : gateCode s pg off w ag v (fun l => ownRange s pg b off l && !(chipWide b off && pageRegion pg != 0)) (fun _ => ownState s pg b off) noBusy
      = rDONE) :
    registerWrite pg b off w ag v s
      = record pg ag (off / 4) 0xFF rDONE (ownEffect b off w v s ((gateVals s pg off w v).foldl (storeVal pg ag) s)) := by
  have hp : pageBlk pg ≠ none := by simp [hb]
  rw [registerWrite, if_neg (by simp [ho]), plainWrite]
  exact regWrite_done hp h

theorem registerWrite_row {b : Blk} {off : Nat} (ho : ownRow b off = true) (pg : Nat) (w : View) (ag v : Nat) (s : State) :
    registerWrite pg b off w ag v s = rowWrite pg b off w ag v s := by
  rw [registerWrite, ho]
  rfl

theorem rowWrite_time {off : Nat} (ho : off ∉ [0x118, 0x158, 0x200, 0x204]) (pg : Nat) (w : View) (ag v : Nat) (s : State) :
    rowWrite pg .time off w ag v s = timeWrite off w ag v s := by
  simp only [List.mem_cons, List.not_mem_nil, or_false, not_or] at ho
  simp [rowWrite, ho]

/-! ### Registers with a row of their own -/

/-- A register's write takes the meaning of the row whose command is `i`. -/
def TakesRow (i : Instr) (pg off : Nat) (w : View) (ag v : Nat) (s : State) : Prop :=
  ∃ t, exec i s = .next t ∧ exec (.registerWrite pg off w ag 4 v) s = .next (settleReset t)

theorem takesRow_of_rowWrite {i : Instr} {pg off ag v : Nat} {w : View} {b : Blk} {s : State} (hr : s.boot.inReset = false)
    (hb : pageBlk pg = some b) (h4 : off % 4 = 0) (h40 : 0x040 ≤ off) (ho : ownRow b off = true)
    (h : rowWrite pg b off w ag v s = after (exec i s) s) : TakesRow i pg off w ag v s := by
  obtain ⟨t, ht⟩ := exec_answers i s
  refine ⟨t, ht, ?_⟩
  rw [exec_registerWrite_word hr h4, pageWrite_register hb h40, registerWrite_row ho, h, ht]
  rfl

section rows
variable {ag v : Nat} {w : View} {s : State} (hr : s.boot.inReset = false)
include hr

theorem takesRow_quadMode {r q : Nat} (h : r < 4) (hq : q < 3) :
    TakesRow (.quadModeWrite r q w ag v) (pPORT r) (0x380 + 0x20 * q) w ag v s := by
  refine takesRow_of_rowWrite hr (pageBlk_pPORT h) (by omega) (by omega) (by simp [ownRow]; omega) ?_
  rw [rowWrite, if_neg (by omega), if_pos (by omega), pageRegion_pPORT, show (0x380 + 0x20 * q - 0x380) / 0x20 = q by omega]
  rfl

theorem takesRow_quadLane {r q : Nat} (h : r < 4) (hq : q < 3) :
    TakesRow (.quadLaneWrite r q w ag v) (pPORT r) (0x384 + 0x20 * q) w ag v s := by
  refine takesRow_of_rowWrite hr (pageBlk_pPORT h) (by omega) (by omega) (by simp [ownRow]; omega) ?_
  rw [rowWrite, if_neg (by omega), if_neg (by omega), pageRegion_pPORT, show (0x384 + 0x20 * q - 0x380) / 0x20 = q by omega]
  rfl

theorem takesRow_linkFilter {r m : Nat} (h : r < 4) (hm : m < 12) :
    TakesRow (.linkFilterWrite (12 * r + m) w ag v) (pPORT r) (0x088 + 0x40 * m) w ag v s := by
  refine takesRow_of_rowWrite hr (pageBlk_pPORT h) (by omega) (by omega) (by simp [ownRow]; omega) ?_
  rw [rowWrite, if_pos (by omega), pageRegion_pPORT, show (0x088 + 0x40 * m - 0x080) / 0x40 = m by omega]
  rfl

theorem takesRow_mgmtFilter {d : Nat} (hd : d < 2) : TakesRow (.linkFilterWrite (48 + d) w ag v) pHIF (0x104 + 0x20 * d) w ag v s := by
  refine takesRow_of_rowWrite (b := .hif) hr rfl (by omega) (by omega) (by simp [ownRow]; omega) ?_
  rw [rowWrite, if_neg (by omega), if_neg (by omega), show (0x104 + 0x20 * d - 0x104) / 0x20 = d by omega]
  rfl

theorem takesRow_mgmtMode {d : Nat} (hd : d < 2) : TakesRow (.mgmtModeWrite d w ag v) pHIF (0x100 + 0x20 * d) w ag v s := by
  refine takesRow_of_rowWrite (b := .hif) hr rfl (by omega) (by omega) (by simp [ownRow]; omega) ?_
  rw [rowWrite, if_neg (by omega), if_pos (by omega), show (0x100 + 0x20 * d - 0x100) / 0x20 = d by omega]
  rfl

theorem takesRow_msixPartition {f : Nat} (hf : f < 8) : TakesRow (.msixPartitionWrite f w ag v) pHIF (0x060 + 4 * f) w ag v s := by
  refine takesRow_of_rowWrite (b := .hif) hr rfl (by omega) (by omega) (by simp [ownRow]; omega) ?_
  rw [rowWrite, if_pos (by omega), show (0x060 + 4 * f - 0x060) / 4 = f by omega]
  rfl

theorem takesRow_injPar {r : Nat} (h : r < 4) : TakesRow (.injParWrite r w ag v) (pENG r) 0x040 w ag v s := by
  refine takesRow_of_rowWrite hr (pageBlk_pENG h) rfl (by omega) rfl ?_
  rw [rowWrite, pageRegion_pENG]
  rfl

theorem takesRow_dbgWord {r : Nat} (h : r < 4) : TakesRow (.dbgWordWrite r w ag v) (pENG r) 0x068 w ag v s := by
  refine takesRow_of_rowWrite hr (pageBlk_pENG h) rfl (by omega) rfl ?_
  rw [rowWrite, pageRegion_pENG]
  rfl

theorem takesRow_scratchLo {r k : Nat} (h : r < 4) (hk : k < 64) :
    TakesRow (.scratchLoWrite r k w ag v) (pENG r) (0x200 + 8 * k) w ag v s := by
  refine takesRow_of_rowWrite hr (pageBlk_pENG h) (by omega) (by omega) (by simp [ownRow]; omega) ?_
  rw [rowWrite, if_neg (by omega), if_neg (by omega), if_neg (by omega), if_pos (by omega), pageRegion_pENG,
    show (0x200 + 8 * k - 0x200) / 8 = k by omega]
  rfl

theorem takesRow_scratchHi {r k : Nat} (h : r < 4) (hk : k < 64) :
    TakesRow (.scratchHiWrite r k w ag v) (pENG r) (0x204 + 8 * k) w ag v s := by
  refine takesRow_of_rowWrite hr (pageBlk_pENG h) (by omega) (by omega) (by simp [ownRow]; omega) ?_
  rw [rowWrite, if_neg (by omega), if_neg (by omega), if_neg (by omega), if_neg (by omega), pageRegion_pENG,
    show (0x204 + 8 * k - 0x200) / 8 = k by omega]
  rfl

theorem takesRow_shaperSelect {r : Nat} (h : r < 4) : TakesRow (.shaperSelect r w ag v) (pQSC r) 0x200 w ag v s := by
  refine takesRow_of_rowWrite hr (pageBlk_pQSC h) rfl (by omega) rfl ?_
  show after (execShaperSelect (pageRegion (pQSC r)) w ag v s) s = _
  rw [pageRegion_pQSC]
  rfl

theorem takesRow_rclkCtrl {d : Nat} (hd : d < 2) : TakesRow (.rclkCtrlWrite d w ag v) pTIME (0x200 + 4 * d) w ag v s := by
  refine takesRow_of_rowWrite (b := .time) hr rfl (by omega) (by omega) rfl ?_
  rw [rowWrite, if_pos (by simp; omega), show (0x200 + 4 * d - 0x200) / 4 = d by omega]
  rfl

theorem takesRow_hostOffset {d : Nat} (hd : d < 2) : TakesRow (.hostOffsetWrite d w ag v) pTIME (0x118 + 0x40 * d) w ag v s := by
  refine takesRow_of_rowWrite (b := .time) hr rfl (by omega) (by omega) rfl ?_
  rw [rowWrite, if_neg (by simp; omega), if_pos (by simp; omega), show (0x118 + 0x40 * d - 0x118) / 0x40 = d by omega]
  rfl

theorem takesRow_mateMode : TakesRow (.mateModeWrite w ag v) pMATE 0x040 w ag v s :=
  takesRow_of_rowWrite (b := .mate) hr rfl rfl (by omega) rfl rfl

theorem takesRow_mateFwd (k : Nat) {d : Nat} (hd : d < 2) :
    TakesRow (.mateFwdWrite k d w ag v) pMATE (0x800 + 8 * k + 4 * d) w ag v s := by
  refine takesRow_of_rowWrite (b := .mate) hr rfl (by omega) (by omega) (by simp [ownRow]; omega) ?_
  rw [rowWrite, if_neg (by omega), if_neg (by omega), show (0x800 + 8 * k + 4 * d - 0x800) / 8 = k by omega,
    show (0x800 + 8 * k + 4 * d) / 4 % 2 = d by omega]
  rfl

theorem takesRow_winGib : TakesRow (.winGibWrite w ag v) pPEAT 0x040 w ag v s :=
  takesRow_of_rowWrite (b := .peat) hr rfl rfl (by omega) rfl rfl

theorem takesRow_intComplete {t : Nat} (ht : t < 258) : TakesRow (.intComplete t ag w v) pINT (0x400 + 4 * t) w ag v s := by
  refine takesRow_of_rowWrite (b := .int) hr rfl (by omega) (by omega) (by simp [ownRow]; omega) ?_
  rw [rowWrite, show (0x400 + 4 * t - 0x400) / 4 = t by omega]
  rfl

end rows

/-! ### Accesses to the table windows (R50, R628) -/

section windows
variable {a ag v : Nat} {s : State} (hr : s.boot.inReset = false) (ha : 0x400000 ≤ a)
include hr ha

theorem exec_windowWrite (width : Nat) : exec (.windowWrite a ag width v) s = .next (settleReset (windowAccess32 a ag width v s)) := by
  rw [exec, execWindowWrite, hr, busWrite, pageBlk_of_window ha]
  rfl

theorem exec_windowWrite_word {p : Nat} (hw : windowPage s a = some p) (h : a % 4 = 0) :
    exec (.windowWrite a ag 4 v) s = .next (settleReset (windowWord a ag v s)) := by
  rw [exec_windowWrite hr ha]
  simp [windowAccess32, hw, h]

/-- The statistics window takes 64 bits at once. -/
theorem exec_windowWrite_stat {p : Nat} (hw : windowPage s a = some p) (h : a % 8 = 0) (hs : a < 0x800000) :
    exec (.windowWrite a ag 8 v) s = .next (settleReset (statWhole a ag v s)) := by
  rw [exec_windowWrite hr ha]
  simp [windowAccess32, hw, h, hs]

theorem exec_windowWrite_double {p : Nat} (hw : windowPage s a = some p) (h : a % 8 = 0) (hs : 0x800000 ≤ a) (hag : ag < 8) :
    exec (.windowWrite a ag 8 v) s = .next (settleReset (windowWord (a + 4) ag (v / 2 ^ 32) (windowWord a ag (v % 2 ^ 32) s))) := by
  rw [exec_windowWrite hr ha]
  simp [windowAccess32, hw, h, Nat.not_lt.mpr hs, Nat.not_le.mpr hag]

theorem exec_windowWrite_reserved (width : Nat) (hw : windowPage s a = none) :
    exec (.windowWrite a ag width v) s = .next (settleReset (count (cChip 104) s)) := by
  rw [exec_windowWrite hr ha, windowAccess32, hw]

theorem exec_windowWrite_narrow {width p : Nat} (hw : windowPage s a = some p) (h4 : ¬ (width = 4 ∧ a % 4 = 0)) (h8 : ¬ (width = 8 ∧ a % 8 = 0)) :
    exec (.windowWrite a ag width v) s = .next (settleReset (narrowWindow p a ag s)) := by
  rw [exec_windowWrite hr ha]
  simp [windowAccess32, hw, h4, h8]

/-- An aligned word of a window takes the meaning of the row whose command is `i`. -/
theorem takesRow_of_windowWord {i : Instr} {t : State} {p : Nat} (hi : exec i s = .next t) (hw : windowPage s a = some p) (h4 : a % 4 = 0)
    (h : windowWord a ag v s = t) :
    ∃ t, exec i s = .next t ∧ exec (.windowWrite a ag 4 v) s = .next (settleReset t) := by
  refine ⟨t, hi, ?_⟩
  rw [exec_windowWrite_word hr ha hw h4, h]

end windows

theorem narrowWindow_plain {p ag : Nat} {s : State} (a : Nat) (hb : isBlk p .eng = false) (hl : lockedBy s p ag = false) :
    narrowWindow p a ag s = windowResult p ag a rRANGE (s.updPage p (fun h => { h with accErr := true })) := by
  simp [narrowWindow, hb, hl, rRANGE, rLOCKED]

/-- A narrow write to the control store leaves its code and word in ENG_CS_WSTAT too (R201). -/
theorem narrowWindow_eng {p ag : Nat} {s : State} (a : Nat) (hb : isBlk p .eng = true) (hl : lockedBy s p ag = false) :
    narrowWindow p a ag s = windowResult p ag a rRANGE (((s.updPage p (fun h => { h with accErr := true })).wr p F.ENG_CS_WSTAT_CODE rRANGE).wr p
      F.ENG_CS_WSTAT_WORD ((a - 0x900000) % 0x20000 / 16)) := by
  simp [narrowWindow, hb, hl, rRANGE, rLOCKED]

/-! ### The pages of the windows (R50) -/

section windowPages
variable {a : Nat} (s : State)

theorem windowPage_stat (h0 : 0x400000 ≤ a) (h1 : a < 0x800000) : windowPage s a = some pLDG := by
  simp only [windowPage, Bool.and_eq_true, decide_eq_true_eq]
  rw [if_pos ⟨h0, h1⟩]

theorem windowPage_source (h0 : 0x800000 ≤ a) (h1 : a < 0x810000) : windowPage s a = some pINT := by
  simp only [windowPage, Bool.and_eq_true, decide_eq_true_eq]
  rw [if_neg (by omega), if_pos ⟨h0, h1⟩]

theorem windowPage_msix (h0 : 0x840000 ≤ a) (h1 : a < 0x844000) : windowPage s a = some pHIF := by
  simp only [windowPage, Bool.and_eq_true, decide_eq_true_eq]
  rw [if_neg (by omega), if_neg (by omega), if_pos ⟨h0, h1⟩]

theorem windowPage_gateList (h0 : 0x880000 ≤ a) (h1 : a < 0x898000) : windowPage s a = some (pPORT (portRegion ((a - 0x880000) / 0x800))) := by
  simp only [windowPage, Bool.and_eq_true, decide_eq_true_eq]
  rw [if_neg (by omega), if_neg (by omega), if_neg (by omega), if_pos ⟨h0, h1⟩]

theorem windowPage_recovery (h0 : 0x8A0000 ≤ a) (h1 : a < 0x8C0000) : windowPage s a = some (recPage ((a - 0x8A0000) / 32)) := by
  simp only [windowPage, Bool.and_eq_true, decide_eq_true_eq]
  rw [if_neg (by omega), if_neg (by omega), if_neg (by omega), if_neg (by omega), if_pos ⟨h0, h1⟩]

theorem windowPage_ident (h0 : 0x8C0000 ≤ a) (h1 : a < 0x900000) : windowPage s a = some (pPORT ((a - 0x8C0000) / 64 / 1024)) := by
  simp only [windowPage, Bool.and_eq_true, decide_eq_true_eq]
  rw [if_neg (by omega), if_neg (by omega), if_neg (by omega), if_neg (by omega), if_neg (by omega), if_pos ⟨h0, h1⟩]

theorem windowPage_control (h0 : 0x900000 ≤ a) (h1 : a < 0x980000) (hw : (a - 0x900000) % 0x20000 < 0x12000) :
    windowPage s a = some (pENG ((a - 0x900000) / 0x20000)) := by
  simp only [windowPage, Bool.and_eq_true, decide_eq_true_eq]
  rw [if_neg (by omega), if_neg (by omega), if_neg (by omega), if_neg (by omega), if_neg (by omega), if_neg (by omega), if_pos ⟨h0, h1⟩,
    if_pos hw]

theorem windowPage_ring (h0 : 0xA00000 ≤ a) (h1 : a < 0xA40000) : windowPage s a = some pHIF := by
  simp only [windowPage, Bool.and_eq_true, decide_eq_true_eq]
  rw [if_neg (by omega), if_neg (by omega), if_neg (by omega), if_neg (by omega), if_neg (by omega), if_neg (by omega), if_neg (by omega),
    if_pos ⟨h0, h1⟩]

theorem windowPage_queue (h0 : 0xC00000 ≤ a) (h1 : a < 0x1000000) : windowPage s a = some (pQSC (s.qRegion ((a - 0xC00000) / 64))) := by
  simp only [windowPage, Bool.and_eq_true, decide_eq_true_eq]
  rw [if_neg (by omega), if_neg (by omega), if_neg (by omega), if_neg (by omega), if_neg (by omega), if_neg (by omega), if_neg (by omega),
    if_neg (by omega), if_pos ⟨h0, h1⟩]

end windowPages

/-! ### What a word of a window writes -/

section windowWords
variable (n k ag v : Nat) (s : State)

theorem windowWord_source (hk : k < 8) (hn : n < 2048) : windowWord (0x800000 + 32 * n + 4 * k) ag v s = sourceWrite n k ag v s := by
  rw [windowWord, if_neg (by omega), if_pos (by omega), show (0x800000 + 32 * n + 4 * k - 0x800000) / 32 = n by omega,
    show (0x800000 + 32 * n + 4 * k) / 4 % 8 = k by omega]

theorem windowWord_gateList {b : Nat} (hn : n < 48) (hb : b < 2) (hk : k < 256) :
    windowWord (0x880000 + 0x800 * n + 0x400 * b + 4 * k) ag v s = gateListWrite n b k ag v s := by
  rw [windowWord, if_neg (by omega), if_neg (by omega), if_neg (by omega), if_pos (by omega),
    show (0x880000 + 0x800 * n + 0x400 * b + 4 * k - 0x880000) / 0x800 = n by omega,
    show (0x880000 + 0x800 * n + 0x400 * b + 4 * k) / 0x400 % 2 = b by omega,
    show (0x880000 + 0x800 * n + 0x400 * b + 4 * k) / 4 % 256 = k by omega]

theorem windowWord_recovery (hn : n < 4096) (hk : k < 8) : windowWord (0x8A0000 + 32 * n + 4 * k) ag v s = recWrite n k ag v s := by
  rw [windowWord, if_neg (by omega), if_neg (by omega), if_neg (by omega), if_neg (by omega), if_pos (by omega),
    show (0x8A0000 + 32 * n + 4 * k - 0x8A0000) / 32 = n by omega, show (0x8A0000 + 32 * n + 4 * k) / 4 % 8 = k by omega]

theorem windowWord_ident (hn : n < 4096) (hk : k < 16) : windowWord (0x8C0000 + 64 * n + 4 * k) ag v s = idWrite n k ag v s := by
  rw [windowWord, if_neg (by omega), if_neg (by omega), if_neg (by omega), if_neg (by omega), if_neg (by omega), if_pos (by omega),
    show (0x8C0000 + 64 * n + 4 * k - 0x8C0000) / 64 = n by omega, show (0x8C0000 + 64 * n + 4 * k) / 4 % 16 = k by omega]

theorem windowWord_control {r : Nat} (hr : r < 4) (hn : n < 4608) (hk : k < 4) :
    windowWord (0x900000 + 0x20000 * r + 16 * n + 4 * k) ag v s = csWrite r n k ag v s := by
  rw [windowWord, if_neg (by omega), if_neg (by omega), if_neg (by omega), if_neg (by omega), if_neg (by omega), if_neg (by omega),
    if_pos (by omega)]
  dsimp only
  rw [show (0x900000 + 0x20000 * r + 16 * n + 4 * k - 0x900000) / 0x20000 = r by omega,
    show (0x900000 + 0x20000 * r + 16 * n + 4 * k - 0x900000) % 0x20000 / 16 = n by omega,
    show (0x900000 + 0x20000 * r + 16 * n + 4 * k - 0x900000) % 0x20000 / 4 % 4 = k by omega]

theorem windowWord_ring (hn : n < 4096) (hk : k < 16) : windowWord (0xA00000 + 64 * n + 4 * k) ag v s = ringWrite n k ag v s := by
  rw [windowWord, if_neg (by omega), if_neg (by omega), if_neg (by omega), if_neg (by omega), if_neg (by omega), if_neg (by omega),
    if_neg (by omega), if_pos (by omega), show (0xA00000 + 64 * n + 4 * k - 0xA00000) / 64 = n by omega,
    show (0xA00000 + 64 * n + 4 * k) / 4 % 16 = k by omega]

theorem windowWord_queue (hk : k < 16) : windowWord (0xC00000 + 64 * n + 4 * k) ag v s = queueWrite n k ag v s := by
  rw [windowWord, if_neg (by omega), if_neg (by omega), if_neg (by omega), if_neg (by omega), if_neg (by omega), if_neg (by omega),
    if_neg (by omega), if_neg (by omega), show (0xC00000 + 64 * n + 4 * k - 0xC00000) / 64 = n by omega,
    show (0xC00000 + 64 * n + 4 * k) / 4 % 16 = k by omega]

theorem windowWord_statLow (hn : n < 524288) : windowWord (0x400000 + 8 * n) ag v s = after (execStatLowWrite n ag v s) s := by
  rw [windowWord, if_pos (by omega)]
  dsimp only
  rw [if_pos (by omega), show (0x400000 + 8 * n - 0x400000) / 8 = n by omega]

theorem windowWord_statHigh (hn : n < 524288) : windowWord (0x400004 + 8 * n) ag v s = statHighWrite n ag v s := by
  rw [windowWord, if_pos (by omega)]
  dsimp only
  rw [if_neg (by omega), show (0x400004 + 8 * n - 0x400000) / 8 = n by omega]

end windowWords

/-- A whole counter written past the checks of the statistics window. -/
theorem statWhole_done {n ag v : Nat} {s : State} (hl : lockedBy s pLDG ag = false) (hw : windowState s pLDG = true) :
    statWhole (0x400000 + 8 * n) ag v s = windowResult pLDG ag (0x400000 + 8 * n) rDONE (setCounter n v s) := by
  simp [statWhole, statWrite, hl, hw, firstFail]

/-! ### The MSI-X table (R518) -/

/-- Word `k` of an MSI-X entry takes a value. -/
def msixField (k v : Nat) (x : MsixEntry) : MsixEntry :=
  if k = 0 then { x with addrLo := v / 4 * 4 } else if k = 1 then { x with addrHi := v } else if k = 2 then { x with data := v }
  else { x with mask := v.testBit 0 }

/-- The vector that entry `e` of an agent's table is (R518), with word `k` written. -/
def msixStored (ag e k v : Nat) (s : State) : State :=
  { s with hif := { s.hif with msix := s.hif.msix.upd {} (s.rd pHIF F.HIF_MSIX_VEC_BASE ag + e) (msixField k v) } }

/-- A word of the MSI-X table past its checks. The model hands `windowResult` the address and the agent in exchanged places, so AGENT
and INDEX of BLK_RESULT are not those of R628 here. -/
theorem windowWord_msix {ag e k v : Nat} {s : State} (he : e < 256) (hk : k < 4) (hag : ag < 8) (hl : lockedBy s pHIF ag = false)
    (hf : fnPresent s ag = true) (hc : e < s.rd pHIF F.HIF_MSIX_VEC_COUNT ag) (hv : v < 2 ^ 32) (hm : k = 3 → v ≤ 1)
    (hw : windowState s pHIF = true) :
    windowWord (0x840000 + 16 * e + 4 * k) ag v s
      = windowResult pHIF (0x840000 + 16 * e + 4 * k) ag rDONE (faultSync (msixStored ag e k v s)) := by
  have hentry : (0x840000 + 16 * e + 4 * k - 0x840000) / 16 = e := by omega
  have hword : (0x840000 + 16 * e + 4 * k) / 4 % 4 = k := by omega
  have htable : 0x840000 + 16 * e + 4 * k < 0x841000 := by omega
  have hmask : (decide (k = 3) && decide (1 < v)) = false := by
    simp only [Bool.and_eq_false_iff, decide_eq_false_iff_not]
    omega
  rw [windowWord, if_neg (by omega), if_neg (by omega), if_pos (by omega)]
  simp only [msixWrite, hentry, hword, htable, hmask, hag, hl, hf, hc, hv, hw, firstFail, decide_true, Bool.and_self, Bool.not_false, Bool.not_true,
    Bool.false_eq_true, if_true, if_false]
  obtain rfl | rfl | rfl | rfl : k = 0 ∨ k = 1 ∨ k = 2 ∨ k = 3 := by omega
  all_goals rfl

theorem faultSync_hif (s : State) : (faultSync s).hif = s.hif := by
  unfold faultSync
  split
  · rfl
  · split <;> rfl

theorem msix_windowResult_stored {ag e k v x y code : Nat} {s : State} :
    (windowResult pHIF x y code (faultSync (msixStored ag e k v s))).hif.msix.get {} (s.rd pHIF F.HIF_MSIX_VEC_BASE ag + e)
      = msixField k v (s.hif.msix.get {} (s.rd pHIF F.HIF_MSIX_VEC_BASE ag + e)) := by
  show (faultSync (msixStored ag e k v s)).hif.msix.get {} _ = _
  rw [faultSync_hif]
  exact SMap.get_upd_same ..

/-- Settles O14: the access by its width and place, then the header, the register or the window's entry by the meaning it takes. -/
theorem writesByAddressComplete : Obligations.WritesByAddressComplete := by
  refine ⟨fun pg off ag v w s hr => ⟨?plain, ?time, ?command, ?header, ?double, ?narrow, ?reserved, ?rows, ?claims⟩,
    fun n k r ag v s hr => ⟨?source, ?gateList, ?recovery, ?ident, ?control, ?ring, ?queue, ?stat, ?msix, ?winDouble, ?winReserved, ?winNarrow,
      ?controlNarrow⟩⟩
  case plain =>
    intro b hb ho h4 h40 h
    rw [exec_registerWrite_word hr h4, pageWrite_register hb h40, registerWrite_plain hb ho h]
  case time =>
    intro hb h4 h40 ho h
    obtain rfl := eq_pTIME_of_pageBlk hb
    rw [exec_registerWrite_word hr h4, pageWrite_register hb h40, registerWrite_row rfl, rowWrite_time ho]
    exact congrArg (fun t => Host.Outcome.next (settleReset t)) (regWrite_done (by decide) h)
  case command =>
    intro b op arg f hb hf hop _
    rw [exec_registerWrite_word hr rfl, pageWrite_header (by simp [hb]) (by decide), headerWrite_command,
      commandWrite_of_commandOf hb hf hop]
  case header =>
    intro hb
    refine ⟨?commit, fun hv => ?acquire, ?release, fun hl hv => ?clearErr, fun hl hv => ?clearVote⟩
    case commit => rw [exec_registerWrite_word hr rfl, pageWrite_header hb (by decide), headerWrite_commit]
    case acquire => rw [exec_registerWrite_word hr rfl, pageWrite_header hb (by decide), headerWrite_acquire hv]
    case release => rw [exec_registerWrite_word hr rfl, pageWrite_header hb (by decide), headerWrite_release]
    case clearErr =>
      rw [exec_registerWrite_word hr rfl, pageWrite_header hb (by decide), headerWrite_clear rfl (by decide) (by decide) hl hv]
    case clearVote =>
      rw [exec_registerWrite_word hr rfl, pageWrite_header hb (by decide), headerWrite_clear rfl (by decide) (by decide) hl hv]
  case double => exact fun h => exec_registerWrite_double hr h
  case narrow => exact fun width h4 h8 hl => exec_registerWrite_narrow hr h4 h8 hl
  case reserved =>
    intro hb
    rw [exec, execReservedPageWrite, hr, hb]
    rfl
  case rows =>
    exact fun r q k d f m h hq hk hd hf hm => ⟨takesRow_quadMode hr h hq, takesRow_quadLane hr h hq, takesRow_linkFilter hr h hm,
      takesRow_mgmtFilter hr hd, takesRow_mgmtMode hr hd, takesRow_msixPartition hr hf, takesRow_injPar hr h, takesRow_dbgWord hr h,
      takesRow_scratchLo hr h hk, takesRow_scratchHi hr h hk, takesRow_shaperSelect hr h, takesRow_rclkCtrl hr hd, takesRow_hostOffset hr hd,
      takesRow_mateMode hr, takesRow_mateFwd hr k hd, takesRow_winGib hr⟩
  case claims => exact fun t ht => takesRow_intComplete hr ht
  case source =>
    exact fun hn hk => takesRow_of_windowWord hr (by omega) rfl (windowPage_source s (by omega) (by omega)) (by omega) (windowWord_source n k ag v s hk hn)
  case gateList =>
    exact fun hn hk hb => takesRow_of_windowWord hr (by omega) rfl (windowPage_gateList s (by omega) (by omega)) (by omega)
      (windowWord_gateList n k ag v s hn hb hk)
  case recovery =>
    exact fun hn hk => takesRow_of_windowWord hr (by omega) rfl (windowPage_recovery s (by omega) (by omega)) (by omega)
      (windowWord_recovery n k ag v s hn hk)
  case ident =>
    exact fun hn hk => takesRow_of_windowWord hr (by omega) rfl (windowPage_ident s (by omega) (by omega)) (by omega) (windowWord_ident n k ag v s hn hk)
  case control =>
    exact fun h hn hk => takesRow_of_windowWord hr (by omega) rfl (windowPage_control s (by omega) (by omega) (by omega)) (by omega)
      (windowWord_control n k ag v s h hn hk)
  case ring =>
    exact fun hn hk => takesRow_of_windowWord hr (by omega) rfl (windowPage_ring s (by omega) (by omega)) (by omega) (windowWord_ring n k ag v s hn hk)
  case queue =>
    exact fun hn hk => takesRow_of_windowWord hr (by omega) rfl (windowPage_queue s (by omega) (by omega)) (by omega) (windowWord_queue n k ag v s hk)
  case stat =>
    intro hn
    refine ⟨?low, ?high, fun hl hw => ?whole⟩
    case low =>
      exact takesRow_of_windowWord hr (by omega) rfl (windowPage_stat s (by omega) (by omega)) (by omega) (windowWord_statLow n ag v s hn)
    case high =>
      exact takesRow_of_windowWord hr (by omega) rfl (windowPage_stat s (by omega) (by omega)) (by omega) (windowWord_statHigh n ag v s hn)
    case whole =>
      rw [exec_windowWrite_stat hr (by omega) (windowPage_stat s (by omega) (by omega)) (by omega) (by omega), statWhole_done hl hw]
  case msix =>
    intro e he hk hag hl hf hc hv hm hw
    refine ⟨windowResult pHIF (0x840000 + 16 * e + 4 * k) ag rDONE (faultSync (msixStored ag e k v s)), ?answer, ?result, ?entry⟩
    case answer =>
      rw [exec_windowWrite_word hr (by omega) (windowPage_msix s (by omega) (by omega)) (by omega), windowWord_msix he hk hag hl hf hc hv hm hw]
    case result => exact (page_record ..).1
    case entry => exact msix_windowResult_stored
  case winDouble =>
    intro a h0 h8 hag hw
    obtain ⟨p, hp⟩ := Option.isSome_iff_exists.mp hw
    exact exec_windowWrite_double hr (by omega) hp h8 h0 hag
  case winReserved => exact fun a width h0 hw => exec_windowWrite_reserved hr h0 width hw
  case winNarrow =>
    intro a width p h0 hw hb h4 h8 hl
    rw [exec_windowWrite_narrow hr h0 hw h4 h8, narrowWindow_plain a hb hl]
  case controlNarrow =>
    intro a width h0 hw h h4 h8 hl
    rw [exec_windowWrite_narrow hr h0 hw h4 h8, narrowWindow_eng a (by simp [isBlk, pageBlk_pENG h]) hl]

end Sys2Proof.Machine
end

section
/-! SUPPORT. Ports and lanes (R79 to R101): what follows a change of the raw link, a filter's end and the end of training, how verification goes on, and
what a port's registers and commands do once they are accepted. -/
namespace Sys2Proof.Machine

theorem pageBlk_portPage {p : Nat} (hp : p < 48) : pageBlk (pPORT (portRegion p)) = some .port :=
  pageBlk_pPORT (by unfold portRegion; omega)

/-! ### The raw link (R80, R81, R83, R85, R101) -/

section link
variable {p : Nat} {s : State}

/-- A raw link failure is shown and its reception cut short in whatever state the link is; that state decides what follows. -/
theorem rawFail_enabled {cause : Nat} {t : State} (hen : s.link_ p ≠ lDISABLED)
    (ht : t = abortReceptions p (syncRclk (setFaults p cause (setRaw p 0 s)))) :
    rawFail p cause s =
      if portFrozen s p then syncRclk (t.updPort p (fun x => { x with fencedRawFail := true }))
      else if s.link_ p = lUP then
        if s.downFilt p = 0 then goDown p lDOWN (countFlap p t)
        else changeUp p lDOWN_FILTER ((countFlap p t).updPort p (fun x => { x with filterAt := s.now }))
      else if s.link_ p = lUP_FILTER then goDown p lDOWN t
      else t := by
  rw [rawFail, if_neg hen, ← ht]

theorem rawFail_upFilter (cause : Nat) (hfrozen : portFrozen s p = false) (hlink : s.link_ p = lUP_FILTER) :
    rawFail p cause s = goDown p lDOWN (abortReceptions p (syncRclk (setFaults p cause (setRaw p 0 s)))) := by
  have hen : s.link_ p ≠ lDISABLED := by simp [hlink, lUP_FILTER, lDISABLED]
  have hup : s.link_ p ≠ lUP := by simp [hlink, lUP_FILTER, lUP]
  rw [rawFail_enabled hen rfl, hfrozen, if_neg Bool.false_ne_true, if_neg hup, if_pos hlink]

theorem rawFail_filtered (cause : Nat) (hfrozen : portFrozen s p = false) (hlink : s.link_ p = lUP) (hfilt : s.downFilt p ≠ 0) :
    rawFail p cause s
      = changeUp p lDOWN_FILTER ((countFlap p (abortReceptions p (syncRclk (setFaults p cause (setRaw p 0 s))))).updPort p
          (fun x => { x with filterAt := s.now })) := by
  have hen : s.link_ p ≠ lDISABLED := by simp [hlink, lUP, lDISABLED]
  rw [rawFail_enabled hen rfl, hfrozen, if_neg Bool.false_ne_true, if_pos hlink, if_neg hfilt]

theorem rawFail_frozen (cause : Nat) (hfrozen : portFrozen s p = true) (hen : s.link_ p ≠ lDISABLED) :
    rawFail p cause s
      = syncRclk ((abortReceptions p (syncRclk (setFaults p cause (setRaw p 0 s)))).updPort p (fun x => { x with fencedRawFail := true })) := by
  rw [rawFail_enabled hen rfl, if_pos hfrozen]

theorem rawGood_downFilter (hfrozen : portFrozen s p = false) (hlink : s.link_ p = lDOWN_FILTER) :
    rawGood p s = changeUp p lUP (syncRclk (setFaults p 0 (setRaw p 1 s))) := by
  rw [rawGood, hfrozen, if_neg Bool.false_ne_true, if_pos hlink]

theorem rawGood_down (hfrozen : portFrozen s p = false) (hlink : s.link_ p = lDOWN) :
    rawGood p s = fromDown p (syncRclk (setFaults p 0 (setRaw p 1 s))) := by
  have hfilter : s.link_ p ≠ lDOWN_FILTER := by simp [hlink, lDOWN, lDOWN_FILTER]
  rw [rawGood, hfrozen, if_neg Bool.false_ne_true, if_neg hfilter, if_pos hlink]

/-! ### Filters and training (R79, R81) -/

theorem execDownFilterExpiry_due (hlink : s.link_ p = lDOWN_FILTER) (hfrozen : portFrozen s p = false) :
    execDownFilterExpiry p s = .next (goDown p lDOWN s) := by
  simp [execDownFilterExpiry, hlink, hfrozen]

theorem execUpFilterExpiry_due (hlink : s.link_ p = lUP_FILTER) (hfrozen : portFrozen s p = false) :
    execUpFilterExpiry p s = .next (goUp p s) := by
  simp [execUpFilterExpiry, hlink, hfrozen]

/-- A port that negotiates, and every management port, has its negotiation done as its training ends. -/
theorem trainingComplete_training {an : Nat} (good : Bool) (hlink : s.link_ p = lTRAINING) (hfrozen : portFrozen s p = false)
    (han : an = b2n (p < 48 && s.rdB (pPORT (portRegion p)) (laneAnF (p % 4)) (portCell p / 4) || 48 ≤ p)) :
    trainingComplete p good s =
      verifyIdle p (if good then fromDown p (setLink_ p lDOWN (setRaw p (b2n good) (setAnDone p an s)))
        else setLink_ p lDOWN (setRaw p (b2n good) (setAnDone p an s))) := by
  simp [trainingComplete, hlink, hfrozen, han]

theorem trainingComplete_mgmt_failed (hp : 48 ≤ p) (hlink : s.link_ p = lTRAINING) (hfrozen : portFrozen s p = false) :
    trainingComplete p false s = verifyIdle p (setLink_ p lDOWN (setRaw p 0 (setAnDone p 1 s))) :=
  trainingComplete_training false hlink hfrozen (by simp [hp, b2n])

theorem trainingComplete_front_good (hp : p < 48) (hlink : s.link_ p = lTRAINING) (hfrozen : portFrozen s p = false) :
    trainingComplete p true s
      = verifyIdle p (fromDown p (setLink_ p lDOWN (setRaw p 1
          (setAnDone p (b2n (s.rdB (pPORT (portRegion p)) (laneAnF (p % 4)) (portCell p / 4))) s)))) :=
  trainingComplete_training true hlink hfrozen (by simp [hp, hp.not_ge])

theorem execAnFail_training (hp : p < 48) (hlink : s.link_ p = lTRAINING)
    (han : s.rdB (pPORT (portRegion p)) (laneAnF (p % 4)) (portCell p / 4) = true) :
    execAnFail p s = .next (portEvent p F.PORT_EVENT_AN_FAIL F.PORT_EVENT_AN_FAIL s) := by
  simp [execAnFail, hp, hlink, han]

/-- R84: the filters that run are tried against the values just stored. -/
theorem execLinkFilterWrite_front {w : View} {ag v : Nat} (hp : p < 48)
    (h : gateCode s (pPORT (portRegion p)) (0x088 + 0x40 * portCell p) w ag v noCheck noCheck noBusy = rDONE) :
    execLinkFilterWrite p w ag v s = .next (record (pPORT (portRegion p)) ag ((0x088 + 0x40 * portCell p) / 4) 0xFF rDONE
      (filterNow p ((gateVals s (pPORT (portRegion p)) (0x088 + 0x40 * portCell p) w v).foldl (storeVal (pPORT (portRegion p)) ag) s))) := by
  rw [execLinkFilterWrite, if_pos hp, regWrite_done (by simp [pageBlk_portPage hp]) h]

/-! ### Verification of preemption (R94, R95) -/

/-- A verify mPacket left unanswered: it is sent up to three times, then verification has failed. -/
theorem execVerifyTimeout_waiting (hfrozen : portFrozen s p = false)
    (hwait : s.rd (pPORT (portRegion p)) F.PORT_STATUS_VERIFY_STATUS (portCell p) = 2) :
    execVerifyTimeout p s
      = .next (if (s.port p).verSent < 3 then emit (.verify p) (s.updPort p (fun x => { x with verSent := x.verSent + 1 }))
        else portEvent p F.PORT_EVENT_VERIFY_FAILED F.PORT_EVENT_VERIFY_FAILED
          (s.wr (pPORT (portRegion p)) F.PORT_STATUS_VERIFY_STATUS 4 (portCell p))) := by
  simp [execVerifyTimeout, hwait, hfrozen]

theorem verifyPacket_preempting (act : State → State) (hen : s.link_ p ≠ lDISABLED) (hon : preemptOn s p = true) :
    verifyPacket p act s = act s := by
  rw [verifyPacket, if_neg hen, if_pos hon]

theorem verifyPacket_discarded (act : State → State) (hen : s.link_ p ≠ lDISABLED) (hoff : preemptOn s p = false) :
    verifyPacket p act s = count (cPort p 9) s := by
  rw [verifyPacket, if_neg hen, hoff, if_neg Bool.false_ne_true]

theorem verifyAnswered_waiting (hwait : s.rd (pPORT (portRegion p)) F.PORT_STATUS_VERIFY_STATUS (portCell p) = 2) :
    verifyAnswered p s = syncPreempt p (s.wr (pPORT (portRegion p)) F.PORT_STATUS_VERIFY_STATUS 3 (portCell p)) := if_pos hwait

/-! ### The end of PORT_DISABLE (R99) -/

theorem execPortDisableDone_ended (hdis : (s.port p).disabling = true) (hcur : (s.port p).cur = none) :
    execPortDisableDone p s = .next (portDisabled p s) := by
  simp [execPortDisableDone, hdis, hcur]

end link

/-- Settles O16: the registers and commands by their acceptance, every event of a link by the state it finds the port in. -/
theorem portCommandsComplete : Obligations.PortCommandsComplete := by
  intro p r q ag v arg pg w s
  refine ⟨?quadMode, ?quadLane, ?failsInUpFilter, ?failsInUp, ?failsFrozen, ?goodInDownFilter, ?goodInDown, ?downFilter, ?upFilter, ?trainedMgmt,
    ?trainedFront, ?anFail, ?filterWrite, ?verifyAgain, ?verifyFailed, ?response, ?answer, ?discarded, ?rclk, ?enable, ?disable, ?disabled, ?retrain⟩
  case quadMode => exact fun hp h => congrArg _ (regWrite_done hp h)
  case quadLane => exact fun hp h => congrArg _ (regWrite_done hp h)
  case failsInUpFilter => exact fun cause hfrozen hlink => congrArg _ (rawFail_upFilter cause hfrozen hlink)
  case failsInUp => exact fun cause hfrozen hlink hfilt => congrArg _ (rawFail_filtered cause hfrozen hlink hfilt)
  case failsFrozen => exact fun cause hfrozen hen => congrArg _ (rawFail_frozen cause hfrozen hen)
  case goodInDownFilter => exact fun hfrozen hlink => congrArg _ (rawGood_downFilter hfrozen hlink)
  case goodInDown => exact fun hfrozen hlink => congrArg _ (rawGood_down hfrozen hlink)
  case downFilter => exact execDownFilterExpiry_due
  case upFilter => exact execUpFilterExpiry_due
  case trainedMgmt => exact fun hp hlink hfrozen => congrArg _ (trainingComplete_mgmt_failed hp hlink hfrozen)
  case trainedFront => exact fun hp hlink hfrozen => congrArg _ (trainingComplete_front_good hp hlink hfrozen)
  case anFail => exact execAnFail_training
  case filterWrite => exact execLinkFilterWrite_front
  case verifyAgain =>
    intro hfrozen hwait hsent
    refine (execVerifyTimeout_waiting hfrozen hwait).trans ?_
    rw [if_pos hsent]
  case verifyFailed =>
    intro hfrozen hwait hsent
    refine (execVerifyTimeout_waiting hfrozen hwait).trans ?_
    rw [if_neg (by omega)]
  case response =>
    exact fun hen hon hwait => congrArg _ ((verifyPacket_preempting _ hen hon).trans (verifyAnswered_waiting hwait))
  case answer => exact fun hen hon => congrArg _ (verifyPacket_preempting _ hen hon)
  case discarded =>
    exact fun hen hoff => ⟨congrArg _ (verifyPacket_discarded _ hen hoff), congrArg _ (verifyPacket_discarded _ hen hoff)⟩
  case rclk => exact fun k h => congrArg _ (regWrite_done (by decide) h)
  case enable => exact fun h => congrArg _ (command_done h _)
  case disable => exact fun h => congrArg _ (commandLong_done h _ _)
  case disabled => exact execPortDisableDone_ended
  case retrain => exact fun h => congrArg _ (command_done h _)

end Sys2Proof.Machine
end

section
/-! SUPPORT. The tables (R117 to R156): how a tree's root is switched, how a lookup in flight is answered, what the sequencer, the tick and the ager
do, and what the table commands answer. -/
namespace Sys2Proof.Machine

/-! ### Swaps of a tree's root (R123, R126) -/

theorem execTreeSwap_run {pg : Nat} {s : State} (hrun : s.inState pg .run = true) (ag arg : Nat) :
    execTreeSwap pg ag arg s = .next (commandLong pg ag 0x42 arg (isBlk pg .prs && arg < 64) true
      [s.rd pg F.PRS_SWAP_CFG_NEW_ROOT, s.rd pg F.PRS_SWAP_CFG_NEW_VALID, s.rd pg F.PRS_SWAP_CFG_PORT_MASK, s.now]
      (fun s => s.updPage pg (fun h => { h with substate := 1 })) s) := congrArg _ (if_pos hrun)

theorem execTreeSwap_atOnce {pg : Nat} {s : State} (hrun : s.inState pg .run = false) (ag arg : Nat) :
    execTreeSwap pg ag arg s = .next (command pg ag 0x42 (isBlk pg .prs && arg < 64) (stateIn s pg [.ready])
      (fun s' => (switchRoot pg arg (s.rd pg F.PRS_SWAP_CFG_NEW_ROOT) (s.rd pg F.PRS_SWAP_CFG_NEW_VALID) s', rDONE)) s) := by
  simp [execTreeSwap, hrun]

/-- With no straggler to abandon, the switch takes the operands of the command, notes the length of the pause and ends the command. -/
theorem treeSwitch_noStragglers {r : Nat} {k : RunCmd} {s : State} (hcmd : (s.page (pPRS r)).cmd = some k) (hop : k.op = 0x42)
    (hnone : maskedRoutines s r ((k.ops[2]?).getD 0) = []) :
    treeSwitch r s = finishCmd (pPRS r) rDONE (((switchRoot (pPRS r) k.arg ((k.ops[0]?).getD 0) ((k.ops[1]?).getD 0) s).wr (pPRS r)
      F.PRS_SWAP_STATUS_LAST_PAUSE_NS ((s.now - (k.ops[3]?).getD 0) / nsU)).updPage (pPRS r) (fun h => { h with substate := 0 })) := by
  simp only [treeSwitch, hcmd, hop, hnone, List.foldl_nil]
  rfl

/-! ### Lookups (R119, R138, R144) -/

/-- A lookup outstanding on a context's own tag, of the kind its block answers: the answer goes to that tag. -/
theorem completeLookup_tag {pg e c n : Nat} {t : Tag} {s : State} {sel : LookKind → Bool} (hrun : s.inState pg .run = true) (hn : n < 8)
    (ht : outstanding s e c n = some t) (hsel : sel t.kind = true) (look : LookKind → Nat → Option Nat → State → LookAns × State) :
    completeLookup pg e c n sel look s = answerTag e c n (look t.kind t.key (((s.ctx e c).theFrame s).map (·.port)) s).1
      (look t.kind t.key (((s.ctx e c).theFrame s).map (·.port)) s).2 := by
  simp [completeLookup, hrun, hn, ht, hsel]

section lookups
variable {e c n : Nat} {t : Tag} {s : State} (hn : n < 8) (ht : outstanding s e c n = some t)
include hn ht

theorem execEmLookupComplete_tag {w mode : Nat} (hrun : s.inState (pLKP (engRegion e)) .run = true) (hk : t.kind = .em w mode)
    (upsets : List (Nat × Bool)) :
    execEmLookupComplete e c n upsets s
      = .next (answerTag e c n (emLookup (engRegion e) (((s.ctx e c).theFrame s).map (·.port)) w (keyOf w t.key) mode upsets s).1
          (emLookup (engRegion e) (((s.ctx e c).theFrame s).map (·.port)) w (keyOf w t.key) mode upsets s).2) := by
  unfold execEmLookupComplete
  rw [completeLookup_tag hrun hn ht (by rw [hk]), hk]

theorem execLpmLookupComplete_tag (hrun : s.inState (pLKP (engRegion e)) .run = true) (hk : t.kind = .lpm) (upsets : List (Nat × Bool)) :
    execLpmLookupComplete e c n upsets s
      = .next (answerTag e c n (lpmLookup (engRegion e) t.key upsets s).1 (lpmLookup (engRegion e) t.key upsets s).2) := by
  unfold execLpmLookupComplete
  rw [completeLookup_tag hrun hn ht (by rw [hk]; rfl)]

theorem execTreeWalkComplete_tag {k : Nat} (hrun : s.inState (pPRS (engRegion e)) .run = true) (hk : t.kind = .tree k)
    (upsets : List (Nat × Bool)) :
    execTreeWalkComplete e c n upsets s
      = .next (answerTag e c n (treeLookup (engRegion e) k t.key upsets s).1 (treeLookup (engRegion e) k t.key upsets s).2) := by
  unfold execTreeWalkComplete
  rw [completeLookup_tag hrun hn ht (by rw [hk]), hk]

end lookups

/-! ### The insert sequencer, the tick and the ager (R147 to R149) -/

theorem seqFront_cons {ins : Bool} {q : SeqReq} {l : List SeqReq} {s : State} (hq : s.tab.seqQ = q :: l) (hi : q.insert = ins)
    (upsets : List (Nat × Bool)) : seqFront ins upsets s = seqStep q upsets { s with tab := { s.tab with seqQ := l } } := by
  simp [seqFront, hq, hi]

theorem execTick_booted {s : State} (hd : s.rdB pBOOT F.BOOT_STATUS_DONE = true) :
    execTick s = .next (s.wr (pLKP 0) F.LKP_AGE_NOW_NOW ((s.tick + 1) % 65536)) := congrArg _ (if_pos hd)

theorem tick_wr_now (v : Nat) (s : State) : (s.wr (pLKP 0) F.LKP_AGE_NOW_NOW v).tick = v % 65536 := rd_wr_same ..

/-- The state in which a visit of the ager reads its place: what the last visit left is compared. -/
def agerCompared (s : State) : State :=
  s.tab.agerReads.foldl (fun s a => agerCompare a s) { s with tab := { s.tab with agerReads := [] } }

theorem agerCompared_nil {s : State} (h : s.tab.agerReads = []) : agerCompared s = { s with tab := { s.tab with agerReads := [] } } := by
  rw [agerCompared, h, List.foldl_nil]

theorem agerCompared_singleton {a : AgerRead} {s : State} (h : s.tab.agerReads = [a]) :
    agerCompared s = agerCompare a { s with tab := { s.tab with agerReads := [] } } := by
  rw [agerCompared, h, List.foldl_cons, List.foldl_nil]

theorem agerVisit_off {later : Bool} {s : State} (hoff : (agerCompared s).rdB (pLKP 0) F.LKP_AGE_CFG_AGER_EN = false)
    (upsets : List (Nat × Bool)) : agerVisit later upsets s = agerCompared s := by
  unfold agerCompared at hoff
  simp only [agerVisit, hoff]
  rfl

/-- A visit that leaves its compare-and-remove to the next one moves on and keeps the groups it takes. -/
theorem agerVisit_later {s s0 s1 : State} {upsets : List (Nat × Bool)} (h0 : agerCompared s = s0)
    (hon : s0.rdB (pLKP 0) F.LKP_AGE_CFG_AGER_EN = true) (h1 : readSlots 0 (agerReadsSlot s0.tab.agerPlace) upsets s0 = s1) :
    agerVisit true upsets s = { s1 with tab := { s1.tab with
      agerPlace := (s0.tab.agerPlace + 1) % agerPlaces
      agerReads := (agerGroups s1 s0.tab.agerPlace).filterMap (fun e => if agerTakes s1 e.1 e.2 then some (⟨e.1, e.2.ts⟩ : AgerRead) else none) } } := by
  subst h0 h1
  unfold agerCompared at hon ⊢
  simp only [agerVisit, hon]
  rfl

/-! ### Commands on the tables (R156) -/

theorem execEmInsert_found {pg ag arg wh l : Nat} {upsets : List (Nat × Bool)} {found : Bool} {s s1 : State}
    (h : cmdCode s pg ag (isBlk pg .lkp && arg = 0 && !mateBlocks (seqDrain s) pg true) (stateIn s pg [.ready, .run]) = rDONE)
    (hins : emInsert (stagedWidth s pg) (stagedKey s pg) (stagedAction s pg) (s.rdB pg F.LKP_ACT_HI_STATIC) (s.rdB pg F.LKP_ACT_HI_MATE)
      (searched pg upsets s) = (some (found, l, wh), s1)) :
    execEmInsert pg ag arg upsets s = .next (record pg ag 4 0x42 rDONE (cmdOut pg found wh l s1)) := by
  refine (congrArg _ (command_done h _)).trans ?_
  simp only [hins]

theorem execEmDelete_found {pg ag arg wh l : Nat} {upsets : List (Nat × Bool)} {s s1 : State}
    (h : cmdCode s pg ag (isBlk pg .lkp && arg = 0 && !mateBlocks (seqDrain s) pg false) (stateIn s pg [.ready, .run]) = rDONE)
    (hdel : emDelete (stagedWidth s pg) (stagedKey s pg) (searched pg upsets s) = (some (l, wh), s1)) :
    execEmDelete pg ag arg upsets s = .next (record pg ag 4 0x43 rDONE (cmdOut pg true wh l s1)) := by
  refine (congrArg _ (command_done h _)).trans ?_
  simp only [hdel]

/-- On a device that is not the standby of a pair, MATE groups do not keep a table from being cleared. -/
theorem execTableClear_notStandby {arg : Nat} {s : State} (harg : arg < 4) (hs : isStandby s = false) (ag : Nat) :
    execTableClear (pLKP 0) ag arg s = .next (commandLong (pLKP 0) ag 0x48 arg true (stateIn s (pLKP 0) [.ready, .run]) []
      (fun s => (tableClear arg s).updPage (pLKP 0) (fun h => { h with substate := 1 })) s) := by
  simp [execTableClear, harg, hs]

/-- Settles O18: commands by their acceptance, lookups by the tag that waits for them, the ager by what the last visit left. -/
theorem tableCommandsComplete : Obligations.TableCommandsComplete := by
  intro pg ag arg e c n s
  refine ⟨?nodeWrite, ?nodeRead, ?swap, ?swapAtOnce, ?switch, ?em, ?lpm, ?tree, ?insert, ?delete, ?tick, ?visit, ?visitOff, ?group, ?lpmWrite, ?clear⟩
  case nodeWrite => exact fun h => congrArg _ (command_done h _)
  case nodeRead => exact fun h => congrArg _ (command_done h _)
  case swap => exact fun hrun h => (execTreeSwap_run hrun ag arg).trans (congrArg _ (commandLong_done h _ _))
  case swapAtOnce => exact fun hrun h => (execTreeSwap_atOnce hrun ag arg).trans (congrArg _ (command_done h _))
  case switch =>
    intro r k hcmd hop hmask hnone
    exact congrArg _ (treeSwitch_noStragglers hcmd hop (by rw [hmask, hnone]))
  case em => exact fun t w mode upsets hrun hn ht hk => execEmLookupComplete_tag hn ht hrun hk upsets
  case lpm => exact fun t upsets hrun hn ht hk => execLpmLookupComplete_tag hn ht hrun hk upsets
  case tree => exact fun t k upsets hrun hn ht hk => execTreeWalkComplete_tag hn ht hrun hk upsets
  case insert => exact fun q l upsets hq hi => congrArg _ (seqFront_cons hq hi upsets)
  case delete => exact fun q l upsets hq hi => congrArg _ (seqFront_cons hq hi upsets)
  case tick =>
    intro hd
    refine ⟨_, execTick_booted hd, ?_, rfl⟩
    rw [tick_wr_now, Nat.mod_mod]
  case visit => exact fun upsets hreads hon s1 h1 => congrArg _ (agerVisit_later (agerCompared_nil hreads) hon h1)
  case visitOff =>
    intro a upsets hreads hoff
    rw [← agerCompared_singleton hreads] at hoff ⊢
    exact congrArg _ (agerVisit_off hoff upsets)
  case group =>
    refine fun upsets => ⟨?emInsert, ?emDelete, ?emSearch, ?emRead, ?lpmRead⟩
    case emInsert => exact fun h found l wh s1 hins => execEmInsert_found h hins
    case emDelete => exact fun h l wh s1 hdel => execEmDelete_found h hdel
    case emSearch => exact fun h => congrArg _ (command_done h _)
    case emRead => exact fun h => congrArg _ (command_done h _)
    case lpmRead => exact fun h => congrArg _ (command_done h _)
  case lpmWrite => exact fun h => congrArg _ (command_done h _)
  case clear =>
    rintro rfl harg hs h
    exact (execTableClear_notStandby harg hs ag).trans (congrArg _ (commandLong_done h _ _))

end Sys2Proof.Machine
end

section
/-! SUPPORT. The hash of the exact-match table (R135): the loop over the words of a key, and the closed form the rule gives beside it. -/
namespace Sys2Proof.Machine

/-! ### Rotations of words of any width -/

theorem rotateLeft_xor {w : Nat} (x y : BitVec w) (r : Nat) : (x ^^^ y).rotateLeft r = x.rotateLeft r ^^^ y.rotateLeft r := by
  apply BitVec.eq_of_getMsbD_eq
  intro i hi
  simp only [BitVec.getMsbD_rotateLeft, BitVec.getMsbD_xor, hi, decide_true, Bool.true_and]

theorem rotateLeft_rotateLeft {w : Nat} (x : BitVec w) (r r' : Nat) : (x.rotateLeft r).rotateLeft r' = x.rotateLeft (r + r') := by
  apply BitVec.eq_of_getMsbD_eq
  intro i hi
  have hmod : (r' + i) % w < w := Nat.mod_lt _ (Nat.zero_lt_of_lt hi)
  simp only [BitVec.getMsbD_rotateLeft, hi, hmod, decide_true, Bool.true_and, Nat.add_mod_mod, Nat.add_assoc]

theorem rotateLeft_zero {w : Nat} (x : BitVec w) : x.rotateLeft 0 = x := by
  simp [BitVec.rotateLeft_def, BitVec.ushiftRight_eq_zero]

/-! ### One turn of the loop -/

theorem rotl32_lt (x r : Nat) : rotl32 x r < 2 ^ 32 := Nat.mod_lt _ (by decide)

theorem rotl32_mod (x r : Nat) : rotl32 x (r % 32) = rotl32 x r := by simp only [rotl32, Nat.mod_mod]

theorem ofNat_rotl32 {x : Nat} (hx : x < 2 ^ 32) (r : Nat) : BitVec.ofNat 32 (rotl32 x r) = (BitVec.ofNat 32 x).rotateLeft r := by
  have hhigh : x >>> (32 - r % 32) < 2 ^ 32 := (Nat.shiftRight_le _ _).trans_lt hx
  apply BitVec.eq_of_toNat_eq
  rw [BitVec.toNat_rotateLeft, BitVec.toNat_ofNat, BitVec.toNat_ofNat, Nat.mod_eq_of_lt (rotl32_lt x r), Nat.mod_eq_of_lt hx, rotl32,
    Nat.or_mod_two_pow, Nat.mod_eq_of_lt hhigh]

theorem hashTurn_lt (x rot key : Nat) : rotl32 x rot ^^^ (key % 2 ^ 32) < 2 ^ 32 :=
  Nat.xor_lt_two_pow (rotl32_lt x rot) (Nat.mod_lt _ (by decide))

/-! ### The loop -/

@[simp] theorem hashX_zero (seed rot key : Nat) : hashX seed rot 0 key = seed := rfl

/-- The loop takes the highest word first. -/
theorem hashX_succ (seed rot n key : Nat) :
    hashX seed rot (n + 1) key = hashX (rotl32 seed rot ^^^ (key / 2 ^ (32 * n) % 2 ^ 32)) rot n key := by
  simp only [hashX, List.range_succ_eq_map, List.foldl_cons, List.foldl_map, Nat.shiftRight_eq_div_pow, Nat.add_sub_cancel, Nat.sub_zero,
    Nat.succ_eq_add_one, Nat.sub_add_eq, Nat.sub_right_comm n]

theorem hashX_rot_mod (seed rot n key : Nat) : hashX seed (rot % 32) n key = hashX seed rot n key := by
  simp only [hashX, rotl32_mod]

theorem hashX_lt {seed : Nat} (hseed : seed < 2 ^ 32) (rot n key : Nat) : hashX seed rot n key < 2 ^ 32 := by
  induction n generalizing seed with
  | zero => exact hseed
  | succ n ih => rw [hashX_succ]; exact ih (hashTurn_lt ..)

/-! ### The closed form -/

/-- Word `i` of a key, rotated by its place, as R135 sums it. -/
def rotatedWord (rot key i : Nat) : BitVec 32 := (BitVec.ofNat 32 (key / 2 ^ (32 * i))).rotateLeft (i * rot)

theorem foldl_xor_init {w : Nat} (f : Nat → BitVec w) (l : List Nat) (a b : BitVec w) :
    l.foldl (fun x i => x ^^^ f i) (a ^^^ b) = l.foldl (fun x i => x ^^^ f i) a ^^^ b :=
  List.foldl_hom (· ^^^ b) fun x i => by simp only [BitVec.xor_assoc, BitVec.xor_comm b]

/-- The first turn rotates the seed once and adds the highest word, which the turns left then rotate by its place. -/
theorem ofNat_hashX {seed : Nat} (hseed : seed < 2 ^ 32) (rot n key : Nat) :
    BitVec.ofNat 32 (hashX seed rot n key)
      = (List.range n).foldl (fun x i => x ^^^ rotatedWord rot key i) ((BitVec.ofNat 32 seed).rotateLeft (n * rot)) := by
  induction n generalizing seed with
  | zero => simp [rotateLeft_zero]
  | succ n ih =>
    have hword : BitVec.ofNat 32 (key / 2 ^ (32 * n) % 2 ^ 32) = BitVec.ofNat 32 (key / 2 ^ (32 * n)) :=
      BitVec.eq_of_toNat_eq (Nat.mod_mod ..)
    have hturn : (BitVec.ofNat 32 (rotl32 seed rot ^^^ (key / 2 ^ (32 * n) % 2 ^ 32))).rotateLeft (n * rot)
        = (BitVec.ofNat 32 seed).rotateLeft ((n + 1) * rot) ^^^ rotatedWord rot key n := by
      rw [BitVec.ofNat_xor, ofNat_rotl32 hseed, rotateLeft_xor, rotateLeft_rotateLeft, Nat.add_one_mul n rot, Nat.add_comm rot, hword, rotatedWord]
    rw [hashX_succ, ih (hashTurn_lt ..), hturn, foldl_xor_init, List.range_succ, List.foldl_append]
    rfl

/-! ### The bucket -/

theorem hashBucket_lt {x : Nat} (hx : x < 2 ^ 32) : hashBucket x < 2 ^ 18 :=
  Nat.xor_lt_two_pow (Nat.mod_lt _ (by decide)) (by omega)

/-- Settles O50, by induction on the words of the key: a rotation passes through the XOR of what was gathered before it. -/
theorem hashEqualsItsClosedForm : Obligations.HashEqualsItsClosedForm := by
  intro seed rot n key hseed
  have hlt := hashX_lt hseed rot n key
  exact ⟨ofNat_hashX hseed rot n key, hashX_rot_mod seed rot n key, hlt, rfl, hashBucket_lt hlt⟩

end Sys2Proof.Machine
end

section
/-! SUPPORT. The word of a micro-instruction (R179): its encoder and its decoder are each other's inverse. -/
namespace Sys2Proof.Machine

/-! ### Fields side by side -/

/-- Two words side by side spell an extract of `x` where each spells its part of it. -/
theorem append_eq_extractLsb'_iff {v w n start : Nat} (hi : BitVec v) (lo : BitVec w) (x : BitVec n) :
    hi ++ lo = x.extractLsb' start (v + w) ↔ hi = x.extractLsb' (start + w) v ∧ lo = x.extractLsb' start w := by
  rw [← BitVec.extractLsb'_append_extractLsb'_eq_extractLsb' (start₁ := start) rfl]
  refine ⟨fun h => ⟨?high, ?low⟩, fun ⟨hhi, hlo⟩ => by rw [hhi, hlo]⟩
  case high => rw [← BitVec.extractLsb'_append_eq_left (a := hi) (b := lo), h, BitVec.extractLsb'_append_eq_left]
  case low => rw [← BitVec.extractLsb'_append_eq_right (a := hi) (b := lo), h, BitVec.extractLsb'_append_eq_right]

/-! ### The micro-instruction word -/

/-- A word is the encoding of its own fields and of no others. -/
theorem miEncode_eq_iff (i : MI) (w : BitVec 128) : miEncode i = w ↔ i = miDecode w := by
  rw [← BitVec.extractLsb'_eq_self (x := w), miEncode, append_eq_extractLsb'_iff, BitVec.extractLsb'_eq_self]
  cases i
  simp only [append_eq_extractLsb'_iff, miDecode, and_assoc, MI.mk.injEq]

theorem miDecode_miEncode (i : MI) : miDecode (miEncode i) = i := ((miEncode_eq_iff i _).1 rfl).symm

theorem miEncode_miDecode (w : BitVec 128) : miEncode (miDecode w) = w := (miEncode_eq_iff _ w).2 rfl

theorem toNat_extractLsb'_div_mod {n : Nat} (x : BitVec n) (start len : Nat) : (x.extractLsb' start len).toNat = x.toNat / 2 ^ start % 2 ^ len := by
  rw [BitVec.extractLsb'_toNat, Nat.shiftRight_eq_div_pow]

/-- CLASS and FUNC are the top byte of the word. -/
theorem opcode_miDecode (w : BitVec 128) : (miDecode w).opcode = w.toNat / 2 ^ 120 := by
  have hlt := w.isLt
  simp only [MI.opcode, miDecode, toNat_extractLsb'_div_mod]
  omega

/-- Settles O26: fields and word determine each other; what a field holds is then read off the decoder. -/
theorem microInstructionRoundTrip : Obligations.MicroInstructionRoundTrip := by
  refine ⟨miDecode_miEncode, miEncode_miDecode, ?_⟩
  rintro i w hw
  rw [(miEncode_eq_iff i w).1 hw]
  exact ⟨opcode_miDecode w, toNat_extractLsb'_div_mod .., toNat_extractLsb'_div_mod .., toNat_extractLsb'_div_mod .., toNat_extractLsb'_div_mod ..⟩

/-- Settles O27, by evaluation of the decoder and the rule of legality on the words written out. -/
theorem sampleMicroInstructionWords : Obligations.SampleMicroInstructionWords := by
  refine ⟨?addImmediate, ?extract, ?retire, by decide, by decide, by decide, by decide, by decide, by decide⟩
  case addImmediate => rintro i rfl; decide
  case extract => rintro i rfl; decide
  case retire => rintro i rfl; decide

end Sys2Proof.Machine
end

section
/-! SUPPORT. The arithmetic of the ALU (R181, R186): its results and flags as those of 64-bit words. -/
namespace Sys2Proof.Machine

/-! ### Words and their signs -/

theorem w64_lt (n : Nat) : w64 n < 2 ^ 64 := Nat.mod_lt _ (by decide)

theorem shiftRight_lt_word {a : Nat} (ha : a < 2 ^ 64) (k : Nat) : a >>> k < 2 ^ 64 := (Nat.shiftRight_le a k).trans_lt ha

/-- A result kept modulo 2^64 is the word of the number it was kept from. -/
theorem ofNat_w64 (n : Nat) : BitVec.ofNat 64 (w64 n) = BitVec.ofNat 64 n := BitVec.eq_of_toNat_eq (Nat.mod_mod n _)

theorem testBit_sign {a : Nat} (ha : a < 2 ^ 64) : a.testBit 63 = decide (2 ^ 63 ≤ a) := by
  rw [Nat.testBit_eq_decide_div_mod_eq, decide_eq_decide]
  omega

theorem toSigned_word {a : Nat} (ha : a < 2 ^ 64) : toSigned 64 a = if 2 ^ 63 ≤ a then (a : Int) - 2 ^ 64 else (a : Int) := by
  unfold toSigned
  split <;> split <;> omega

/-! ### Sums and differences -/

theorem aluAdd_v_iff {a b : Nat} (ha : a < 2 ^ 64) (hb : b < 2 ^ 64) :
    (aluAdd a b).v = true ↔ ¬ (-(2 ^ 63) ≤ toSigned 64 a + toSigned 64 b ∧ toSigned 64 a + toSigned 64 b < 2 ^ 63) := by
  have hr : w64 (a + b) = (a + b) % 2 ^ 64 := rfl
  simp only [aluAdd, testBit_sign ha, testBit_sign hb, testBit_sign (w64_lt _), toSigned_word ha, toSigned_word hb, Bool.and_eq_true, bne_iff_ne,
    ne_eq, decide_eq_decide, decide_eq_true_eq]
  split <;> split <;> omega

theorem aluSub_v_iff {a b : Nat} (ha : a < 2 ^ 64) (hb : b < 2 ^ 64) :
    (aluSub a b).v = true ↔ ¬ (-(2 ^ 63) ≤ toSigned 64 a - toSigned 64 b ∧ toSigned 64 a - toSigned 64 b < 2 ^ 63) := by
  have hr : w64 (a + 2 ^ 64 - b) = (a + 2 ^ 64 - b) % 2 ^ 64 := rfl
  simp only [aluSub, testBit_sign ha, testBit_sign hb, testBit_sign (w64_lt _), toSigned_word ha, toSigned_word hb, Bool.and_eq_true, bne_iff_ne,
    ne_eq, decide_eq_decide]
  split <;> split <;> omega

theorem ofNat_aluAdd (a b : Nat) : BitVec.ofNat 64 (aluAdd a b).r = BitVec.ofNat 64 a + BitVec.ofNat 64 b :=
  (ofNat_w64 _).trans (BitVec.ofNat_add a b)

theorem ofNat_aluSub {a b : Nat} (ha : a < 2 ^ 64) (hb : b < 2 ^ 64) :
    BitVec.ofNat 64 (aluSub a b).r = BitVec.ofNat 64 a - BitVec.ofNat 64 b := by
  apply BitVec.eq_of_toNat_eq
  rw [aluSub, ofNat_w64, BitVec.toNat_sub, BitVec.toNat_ofNat, BitVec.toNat_ofNat, BitVec.toNat_ofNat]
  omega

/-! ### Shifts -/

theorem ofNat_aluShl (a b : Nat) : BitVec.ofNat 64 (aluShl a b).r = BitVec.ofNat 64 a <<< (b % 64) := by
  apply BitVec.eq_of_toNat_eq
  rw [aluShl, ofNat_w64, BitVec.toNat_shiftLeft, BitVec.toNat_ofNat, BitVec.toNat_ofNat, Nat.shiftLeft_eq, Nat.shiftLeft_eq, Nat.mod_mul_mod]

theorem ofNat_aluShr {a : Nat} (ha : a < 2 ^ 64) (b : Nat) : BitVec.ofNat 64 (aluShr a b).r = BitVec.ofNat 64 a >>> (b % 64) := by
  apply BitVec.eq_of_toNat_eq
  rw [aluShr, BitVec.toNat_ushiftRight, BitVec.toNat_ofNat, BitVec.toNat_ofNat, Nat.mod_eq_of_lt ha, Nat.mod_eq_of_lt (shiftRight_lt_word ha _)]

theorem ofNat_aluRotl {a : Nat} (ha : a < 2 ^ 64) (b : Nat) : BitVec.ofNat 64 (aluRotl a b).r = (BitVec.ofNat 64 a).rotateLeft b := by
  apply BitVec.eq_of_toNat_eq
  rw [aluRotl, ofNat_w64, BitVec.toNat_rotateLeft, BitVec.toNat_ofNat, BitVec.toNat_ofNat, Nat.mod_eq_of_lt ha, Nat.or_mod_two_pow,
    Nat.mod_eq_of_lt (shiftRight_lt_word ha _)]

/-! ### Arithmetic shifts -/

theorem aluSar_of_nonneg {a : Nat} (ha : a < 2 ^ 63) (b : Nat) : (aluSar a b).r = a / 2 ^ (b % 64) := by
  have hsign : a.testBit 63 = false := by rw [testBit_sign (by omega), decide_eq_false (by omega)]
  simp [aluSar, hsign, Nat.shiftRight_eq_div_pow]

theorem aluSar_of_neg {a : Nat} (h63 : 2 ^ 63 ≤ a) (ha : a < 2 ^ 64) (b : Nat) :
    (aluSar a b).r = w64 (a / 2 ^ (b % 64) + (2 ^ 64 - 2 ^ (64 - b % 64))) := by
  have hsign : a.testBit 63 = true := by rw [testBit_sign ha, decide_eq_true h63]
  simp [aluSar, hsign, Nat.shiftRight_eq_div_pow]

theorem aluSar_lt {a : Nat} (ha : a < 2 ^ 64) (b : Nat) : (aluSar a b).r < 2 ^ 64 := by
  rw [aluSar]
  dsimp only
  split
  · exact w64_lt _
  · exact shiftRight_lt_word ha _

theorem two_pow_sub_le_div {a k n : Nat} (hk : k ≤ n) (ha : 2 ^ n ≤ a) : 2 ^ (n - k) ≤ a / 2 ^ k := by
  rw [Nat.le_div_iff_mul_le (Nat.two_pow_pos k), ← pow_add, Nat.sub_add_cancel hk]
  exact ha

theorem div_lt_two_pow_sub {a k n : Nat} (hk : k ≤ n) (ha : a < 2 ^ n) : a / 2 ^ k < 2 ^ (n - k) := by
  rw [Nat.div_lt_iff_lt_mul (Nat.two_pow_pos k), ← pow_add, Nat.sub_add_cancel hk]
  exact ha

theorem sub_two_pow_ediv {k n : Nat} (hk : k ≤ n) (a : Int) : (a - 2 ^ n) / 2 ^ k = a / 2 ^ k - 2 ^ (n - k) := by
  rw [← Int.sub_mul_ediv_right _ _ (by positivity), ← pow_add, Nat.sub_add_cancel hk]

/-- The bits shifted into a negative number are those that a division rounding down leaves set. -/
theorem toSigned_aluSar {a : Nat} (ha : a < 2 ^ 64) (b : Nat) : toSigned 64 (aluSar a b).r = toSigned 64 a / 2 ^ (b % 64) := by
  have hk : b % 64 ≤ 63 := by omega
  rw [toSigned_word ha]
  split
  case isTrue h63 =>
    have hlow := two_pow_sub_le_div hk h63
    have hhigh := div_lt_two_pow_sub (k := b % 64) (by omega) ha
    have hdouble : 2 ^ (64 - b % 64) = 2 * 2 ^ (63 - b % 64) := by rw [← pow_succ']; congr 1; omega
    have hle : 2 ^ (63 - b % 64) ≤ 2 ^ 63 := Nat.pow_le_pow_right (by decide) (Nat.sub_le ..)
    have hr : w64 (a / 2 ^ (b % 64) + (2 ^ 64 - 2 ^ (64 - b % 64))) = a / 2 ^ (b % 64) + (2 ^ 64 - 2 ^ (64 - b % 64)) :=
      Nat.mod_eq_of_lt (by omega)
    rw [toSigned_word (aluSar_lt ha b), aluSar_of_neg h63 ha, hr, if_pos (by omega), sub_two_pow_ediv (by omega), Nat.cast_add,
      Nat.cast_sub (by omega)]
    push_cast
    ring
  case isFalse h63 =>
    have hle : a / 2 ^ (b % 64) ≤ a := Nat.div_le_self ..
    rw [aluSar_of_nonneg (by omega), toSigned_word (by omega), if_neg (by omega)]
    push_cast
    rfl

/-- Settles O20: each result by its word, the overflow flags by the signs, SAR by the floor of a division. -/
theorem aluResultsAreWordArithmetic : Obligations.AluResultsAreWordArithmetic := by
  intro a b ha hb
  exact ⟨ofNat_aluAdd a b, decide_eq_true_iff, aluAdd_v_iff ha hb, ofNat_aluSub ha hb, decide_eq_true_iff, aluSub_v_iff ha hb, ofNat_aluShl a b,
    ofNat_aluShr ha b, toSigned_aluSar ha b, ofNat_aluRotl ha b, (ofNat_w64 _).trans (BitVec.ofNat_mul a b), w64_lt _, w64_lt _, w64_lt _,
    shiftRight_lt_word ha _, aluSar_lt ha b, w64_lt _⟩

end Sys2Proof.Machine
end

section
/-! SUPPORT. Retirement (R160, R182, R184, R220): what an issued micro-instruction leaves of the state, whatever its effect stages, counts or moves. -/
namespace Sys2Proof.Machine

/-! ### One context changed -/

/-- `t` differs from `s` in the engines alone, and of their contexts in context `c` of engine `e` alone, which it leaves as `y`. -/
structure Leaves (e c : Nat) (y : Ctx) (s t : State) : Prop where
  ctx : t.ctx e c = y
  others : ∀ e' c', ctxIdx e' c' ≠ ctxIdx e c → t.ctx e' c' = s.ctx e' c'
  frame : t = { s with eng := t.eng }

section leaves
variable {e c : Nat} {x y : Ctx} {s t u : State}

theorem Leaves.of_ctx_eq (h : Leaves e c y s t) (hu : u = { t with eng := u.eng }) (hctx : u.eng.ctx = t.eng.ctx) : Leaves e c y s u where
  ctx := (ctx_of_eng hctx e c).trans h.ctx
  others e' c' hne := (ctx_of_eng hctx e' c').trans (h.others e' c' hne)
  frame := by rw [hu, h.frame]

theorem Leaves.countsOnly (h : Leaves e c y s t) (hu : CountsOnly e t u) : Leaves e c y s u := by
  obtain ⟨hctx, hframe, -⟩ := hu
  exact h.of_ctx_eq hframe hctx

theorem Leaves.setCtx (h : Leaves e c x s t) (hy : y.halted = x.halted) : Leaves e c y s (t.setCtx e c y) where
  ctx := by rw [ctx_setCtx, if_pos rfl]
  others e' c' hne := by rw [ctx_setCtx, if_neg hne, h.others e' c' hne]
  frame := by
    rw [setCtx_awake t e c y (by rw [h.ctx, hy]), h.frame]

theorem leaves_served (e c : Nat) (s : State) : Leaves e c (s.ctx e c) s (served e c s) := ⟨rfl, fun _ _ _ => rfl, rfl⟩

end leaves

/-! ### Captures (R220) -/

/-- No overflow of the engine is to be captured. -/
def NoneDue (e : Nat) (s : State) : Prop := Calm e s ∧ ∀ q ∈ s.eng.captures, q.engine = e → s.eng.retired.get 0 e < q.place + 6

theorem NoneDue.countsOnly {e : Nat} {s t : State} (h : NoneDue e s) (ht : CountsOnly e s t) : NoneDue e t := by
  obtain ⟨-, -, hcaptures, hretired, hcalm⟩ := ht
  exact ⟨hcalm h.1, by rw [hcaptures, hretired]; exact h.2⟩

theorem NoneDue.setCtx {e : Nat} {s : State} (h : NoneDue e s) (e' c : Nat) (x : Ctx) : NoneDue e (s.setCtx e' c x) := by
  unfold State.setCtx
  dsimp only
  split <;> exact h

theorem captureDue_setCtx (s : State) (e' c e : Nat) (x : Ctx) : captureDue (s.setCtx e' c x) e = captureDue s e := by
  unfold State.setCtx
  dsimp only
  split <;> rfl

/-! ### Retirement -/

/-- Context `c` of engine `e` has retired a micro-instruction that left it as `y`, and nothing is left to be captured. -/
structure RetiredAs (e c : Nat) (y : Ctx) (s t : State) : Prop extends Leaves e c y s t where
  quiet : NoneDue e t

section retiredAs
variable {e c : Nat} {x y : Ctx} {s t u : State}

theorem RetiredAs.countsOnly (h : RetiredAs e c y s t) (hu : CountsOnly e t u) : RetiredAs e c y s u :=
  ⟨h.toLeaves.countsOnly hu, h.quiet.countsOnly hu⟩

theorem RetiredAs.setCtx (h : RetiredAs e c x s t) (hy : y.halted = x.halted) : RetiredAs e c y s (t.setCtx e c y) :=
  ⟨h.toLeaves.setCtx hy, h.quiet.setCtx ..⟩

/-- Where no capture falls due with it, a retirement counts, and is followed by no capture. -/
theorem retiredAs_retireAt (h : Leaves e c y s t) (hd : captureDue t e = false) (pc : Nat) (ended : Bool) : RetiredAs e c y s (retireAt e c pc ended t) :=
  ⟨(h.of_ctx_eq (u := ordered e c pc ended t) rfl rfl).countsOnly (countsOnly_pcnt ..), calm_retireAt hd⟩

theorem countsOnly_foldl_pcntBy (e : Nat) (ev : List (Nat × Nat)) (s : State) : CountsOnly e s (ev.foldl (fun s v => pcntBy e v.1 v.2 s) s) := by
  induction ev generalizing s with
  | nil => exact .refl e s
  | cons v ev ih => exact (countsOnly_pcntBy e v.1 v.2 s).trans (ih _)

theorem retiredAs_finish (h : Leaves e c x s t) (hy : y.halted = x.halted) (hd : captureDue t e = false) (op : Nat) (mi : MI)
    (ev : List (Nat × Nat)) : RetiredAs e c (retired op mi x y) s (finish e c op mi y ev t) := by
  have hbranch : RetiredAs e c x s (if condHolds mi.cond.toNat y then pcnt e 0x0F (retireAt e c x.pc false t) else retireAt e c x.pc false t) := by
    split
    · exact (retiredAs_retireAt h hd _ _).countsOnly (countsOnly_pcnt ..)
    · exact retiredAs_retireAt h hd _ _
  simp only [finish, h.ctx]
  exact (hbranch.countsOnly (countsOnly_foldl_pcntBy e ev _)).setCtx hy

end retiredAs

/-! ### The issue of a micro-instruction -/

section issue
variable {i : Instr} {e c op : Nat} {mi : MI} {a b : Nat} {x y : Ctx} {s : State} (h : Issues s e c op mi a b x)
include h

theorem Issues.halted_eq : x.halted = (s.ctx e c).halted := (issues_halted h).trans h.awake.symm

/-- A command that issues answers what its body leaves: with nothing to be captured, the issue only notes the time it read. -/
theorem Issues.exec_of_body {body : MI → Nat → Nat → Ctx → State → State} (hi : exec i s = .next (issue e c op body s))
    (hb : RetiredAs e c y s (body mi a b x (served e c s))) : ∃ t, exec i s = .next t ∧ RetiredAs e c y s t := by
  have hnoted := hb.countsOnly (countsOnly_noteTime e c mi _)
  refine ⟨_, hi, ?_⟩
  rw [issue_eq h, forceCaptures_calm hnoted.quiet.1 hnoted.quiet.2]
  exact hnoted

theorem Issues.retires_of_body {body : MI → Nat → Nat → Ctx → State → State} (hi : exec i s = .next (issue e c op body s))
    (hb : RetiredAs e c (retired op mi (s.ctx e c) y) s (body mi a b x (served e c s))) : Retires i s e c op mi y := by
  obtain ⟨t, ht, hleaves, -⟩ := h.exec_of_body hi hb
  exact ⟨t, ht, hleaves.ctx, hleaves.others, hleaves.frame⟩

/-- A micro-instruction retires with the effect of its body, whatever events it counts. -/
theorem Issues.retires {body : MI → Nat → Nat → Ctx → State → Except Stop Ctx} {ev : MI → Ctx → List (Nat × Nat)}
    (hi : exec i s = .next (micro e c op body ev s)) (hb : body mi a b x (served e c s) = .ok y) (hy : y.halted = x.halted) :
    Retires i s e c op mi y := by
  refine h.retires_of_body hi ?_
  rw [hb]
  exact retiredAs_finish (leaves_served e c s) (hy.trans h.halted_eq) h.calm op mi _

end issue

end Sys2Proof.Machine
end

section
/-! SUPPORT. The micro-instructions (R165 to R192): the branch, and for each operation the effect it has on the context it was issued from. -/
namespace Sys2Proof.Machine

/-! ### Branches and slots (R182, R184) -/

/-- Settles O25, by the sixteen values of COND. -/
theorem branchesFollowCond : Obligations.BranchesFollowCond := by
  intro op mi x y
  refine ⟨?pc, ?slots, rfl, rfl⟩
  case pc =>
    have hcond : mi.cond.toNat < 16 := mi.cond.isLt
    simp only [retired, nextPc]
    generalize mi.cond.toNat = k at hcond
    interval_cases k <;> rfl
  case slots =>
    simp [retired, nextPc, opSlots]

/-! ### ALU and field operations (R186, R187) -/

theorem cmpOp_retires {i : Instr} {e c op : Nat} {mi : MI} {a b : Nat} {x : Ctx} {s : State} (h : Issues s e c op mi a b x)
    (f : Nat → Nat → AluRes) (hi : exec i s = .next (cmpOp e c op f s)) :
    Retires i s e c op mi (x.znvc (f a b).r (f a b).c (f a b).v) := h.retires hi rfl rfl

/-- Settles O19: every operation but two takes its result to the destination, CMP and TST to the flags. -/
theorem aluOperationsRetire : Obligations.AluOperationsRetire := by
  intro s e c mi a b x
  refine ⟨?mov, ?add, ?sub, ?and, ?or, ?xor, ?andn, ?shl, ?shr, ?sar, ?rotl, ?min, ?max, ?cmp, ?tst, ?mul⟩
  case cmp => exact fun h => cmpOp_retires h aluSub rfl
  case tst => exact fun h => cmpOp_retires h (fun a b => ⟨a &&& b, false, false⟩) rfl
  all_goals exact fun h => h.retires rfl rfl (aluStep_halted ..)

/-- Settles O21: NOP leaves the context, the others take their result to the destination. -/
theorem fieldOperationsRetire : Obligations.FieldOperationsRetire := by
  intro s e c mi a b x
  refine ⟨?nop, ?ext, ?ins, ?bswap, ?clz, ?popc, ?hash⟩
  case nop => exact fun h => h.retires rfl rfl rfl
  case hash =>
    rintro h _ rfl
    exact h.retires rfl rfl (aluStep_halted ..)
  all_goals exact fun h => h.retires rfl rfl (aluStep_halted ..)

/-! ### Staged effects (R165, R176, R178, R191) -/

theorem onFrame_of_frame {x : Ctx} {s : State} {y : Frame} (hf : x.theFrame s = some y) (f : Frame → Except Stop Ctx) : onFrame x s f = f y := by
  simp only [onFrame, hf]

theorem stageEdit_halted {f : Frame} {o k : Nat} {ed : Edit} {x z : Ctx} (h : stageEdit f o k ed x = .ok z) : z.halted = x.halted := by
  unfold stageEdit at h
  dsimp only at h
  split at h
  · cases h
  · split at h
    · cases h
    · cases h
      rfl

theorem stageScr_room {x : Ctx} (h : x.scr.length < 8) (o : ScrOp) : stageScr o x = .ok { x with scr := x.scr ++ [o] } := if_neg (by omega)

/-- Settles O22: each operation by what it stages; where its bytes, its verdict or its room are a condition, that is used first. -/
theorem stagingOperationsRetire : Obligations.StagingOperationsRetire := by
  intro s e c mi a b x
  refine ⟨?hrd, ?hwr, ?hins, ?hdel, ?hfix, ?kclr, ?kput, ?khdr, ?setv, ?cnt, ?sld, ?sst, ?sadd⟩
  case hrd =>
    intro h y v hf hv
    exact h.retires rfl ((onFrame_of_frame hf _).trans (congrArg (Except.map _) hv)) (dstWrite_halted ..)
  case hwr | hins | hdel => exact fun h y z hf hz => h.retires rfl ((onFrame_of_frame hf _).trans hz) (stageEdit_halted hz)
  case hfix | kclr | kput => exact fun h => h.retires rfl rfl rfl
  case khdr =>
    rintro h y v _ _ hf rfl rfl hv
    exact h.retires rfl ((onFrame_of_frame hf _).trans (congrArg (Except.map _) hv)) rfl
  case setv =>
    intro h d hd
    refine h.retires rfl ?_ rfl
    simp only [hd]
  case cnt =>
    intro h hrange hroom
    exact h.retires rfl ((if_neg (by omega)).trans (if_neg (by omega))) rfl
  case sld => exact fun h => h.retires rfl rfl (dstWrite_halted ..)
  case sst | sadd => exact fun h hroom => h.retires rfl (stageScr_room hroom _) rfl

/-! ### Tags (R168, R170) -/

theorem issueTag_room {e n : Nat} {x : Ctx} {s : State} (hbusy : (x.tag n).st ≠ .busy) (hpool : (x.tag n).st = .free → poolUsed s e < 16)
    (k : LookKind) : issueTag e n k x s = .ok (x.setTag n (fun _ => { st := .busy, kind := k, key := x.key })) := by
  have hroom : ¬ (decide ((x.tag n).st = .free) && decide (16 ≤ poolUsed s e)) = true := by
    simpa using hpool
  rw [issueTag, if_neg hbusy, if_neg hroom]

theorem waitTags_answered {l : List Nat} {x : Ctx} (h : ∀ n ∈ l, (x.tag n).st ≠ .busy ∧ (x.tag n).st ≠ .fault) :
    waitTags l x = .ok (l.foldl (fun x n => x.freeTag n) x) := by
  have hbusy : l.any (fun n => (x.tag n).st = .busy) = false := by simpa using fun n hn => (h n hn).1
  have hfault : l.find? (fun n => (x.tag n).st = .fault) = none := by simpa using fun n hn => (h n hn).2
  simp [waitTags, hbusy, hfault]

theorem foldl_freeTag_halted (l : List Nat) (x : Ctx) : (l.foldl (fun x n => x.freeTag n) x).halted = x.halted := by
  induction l generalizing x with
  | nil => rfl
  | cons n l ih => rw [List.foldl_cons, ih]; rfl

theorem releaseMask_eng (e mask : Nat) (x : Ctx) (s : State) :
    releaseMask e mask x s = { s with eng := { s.eng with orphans := (releaseMask e mask x s).eng.orphans } } := by
  unfold releaseMask
  dsimp only
  split <;> rfl

theorem Leaves.releaseMask {e c : Nat} {y : Ctx} {s t : State} (h : Leaves e c y s t) (e' mask : Nat) (x : Ctx) :
    Leaves e c y s (releaseMask e' mask x t) := by
  rw [releaseMask_eng]
  exact h.of_ctx_eq rfl rfl

theorem captureDue_releaseMask (e' mask : Nat) (x : Ctx) (s : State) (e : Nat) : captureDue (releaseMask e' mask x s) e = captureDue s e := by
  rw [releaseMask_eng]
  rfl

/-- Settles O23: a lookup finds its tag and a slot, a wait finds its tags answered, and TREL releases those in flight before it retires. -/
theorem lookupOperationsRetire : Obligations.LookupOperationsRetire := by
  intro s e c mi a b x
  refine ⟨?lookups, ?wait, ?waitm, ?trel⟩
  case lookups =>
    rintro k _ rfl hbusy hpool
    refine ⟨?lem, ?lpm, ?ltree⟩
    all_goals
      rintro h rfl
      exact h.retires rfl (issueTag_room hbusy hpool _) rfl
  case wait =>
    rintro _ rfl hdone h
    have hanswered : waitTags [mi.mod.toNat % 8] x = .ok (x.freeTag (mi.mod.toNat % 8)) := waitTags_answered (by simp [hdone])
    refine h.retires rfl ?_ (dstWrite_halted ..)
    simp only [hanswered, hdone, tagHit]
    rfl
  case waitm =>
    rintro _ rfl hanswered h
    exact h.retires rfl (congrArg (Except.map _) (waitTags_answered hanswered)) (foldl_freeTag_halted ..)
  case trel =>
    intro h
    exact h.retires_of_body rfl (retiredAs_finish ((leaves_served e c s).releaseMask ..) ((foldl_freeTag_halted ..).trans h.halted_eq)
      ((captureDue_releaseMask ..).trans h.calm) _ _ _)

end Sys2Proof.Machine
end

section
/-! SUPPORT. The control operations (R173, R185, R208 to R213): what moves the micro-PC, and the entry of a trap routine. -/
namespace Sys2Proof.Machine

/-! ### Moves of the micro-PC (R185) -/

section control
variable {i : Instr} {e c op : Nat} {mi : MI} {a b : Nat} {x y : Ctx} {s t : State}

/-- An operation that moves the micro-PC writes its context, then counts its retirement. -/
theorem Issues.retiredAs_move (h : Issues s e c op mi a b x) (hy : y.halted = x.halted) (pc : Nat) :
    RetiredAs e c y s (retireAt e c pc false ((served e c s).setCtx e c y)) :=
  retiredAs_retireAt ((leaves_served e c s).setCtx (hy.trans h.halted_eq)) ((captureDue_setCtx ..).trans h.calm) _ _

theorem execOpCall_taken (h : Issues s e c 0x05 mi a b x) (hgo : condHolds mi.cond.toNat x = true) (hroom : x.stack.length < 4) :
    ∃ t, exec (.opCall e c) s = .next t
      ∧ RetiredAs e c { x.took 1 with stack := (x.pc + 1) :: x.stack, pc := mi.target.toNat } s t := by
  refine h.exec_of_body rfl ?_
  simp only [hgo, Nat.not_le.mpr hroom, decide_false, Bool.and_false, Bool.false_eq_true, if_false, if_true]
  refine (h.retiredAs_move ?_ _).countsOnly (countsOnly_pcnt ..)
  rfl

theorem execOpCall_notTaken (h : Issues s e c 0x05 mi a b x) (hgo : condHolds mi.cond.toNat x = false) :
    ∃ t, exec (.opCall e c) s = .next t ∧ RetiredAs e c { x.took 1 with pc := x.pc + 1 } s t := by
  refine h.exec_of_body rfl ?_
  simp only [hgo, Bool.false_and, Bool.false_eq_true, if_false]
  refine h.retiredAs_move ?_ _
  rfl

theorem execOpRetn_outside {r : Nat} {l : List Nat} (h : Issues s e c 0x06 mi a b x) (hin : x.inTrap = false) (hstack : x.stack = r :: l) :
    ∃ t, exec (.opRetn e c) s = .next t ∧ RetiredAs e c { x.took 1 with stack := l, pc := r } s t := by
  refine h.exec_of_body rfl ?_
  simp only [hstack, hin, Bool.false_and, Bool.false_eq_true, if_false]
  refine h.retiredAs_move ?_ _
  rfl

/-- The RETN that empties the stack of a trap routine resumes the routine trapped. -/
theorem execOpRetn_resumes {r : Nat} {q : TrapFrame} (h : Issues s e c 0x06 mi a b x) (hin : x.inTrap = true) (hstack : x.stack = [r])
    (htrap : x.trap = some q) : ∃ t, exec (.opRetn e c) s = .next t ∧ RetiredAs e c ((x.took 1).resume q) s t := by
  refine h.exec_of_body rfl ?_
  simp only [hstack, hin, htrap, List.isEmpty_nil, Bool.and_self, if_true]
  refine h.retiredAs_move ?_ _
  rfl

theorem execOpJind_inStore (h : Issues s e c 0x07 mi a b x) (hpc : a % 2 ^ 13 ≤ maxPc) :
    ∃ t, exec (.opJind e c) s = .next t ∧ RetiredAs e c { x.took 1 with pc := a % 2 ^ 13 } s t := by
  refine h.exec_of_body rfl ?_
  rw [if_neg (Nat.not_lt.mpr hpc)]
  refine h.retiredAs_move ?_ _
  rfl

theorem brk_off (hoff : s.rdB (pENG (engRegion e)) F.ENG_CTRL_BRK_EN = false) : brk e c mi x s = finish e c 0x04 mi x [] s := by
  simp [brk, hoff]

/-! ### Traps (R209, R213) -/

/-- A context as it enters the trap routine at `vec` with the frame `q`. -/
def Ctx.entered (x : Ctx) (vec : Nat) (q : TrapFrame) : Ctx :=
  { x with
    trap := some q, inTrap := true, stack := [q.resumePc], pc := vec, slots := x.slots + 2, trapSlots := x.trapSlots + 2
    u := (x.u.set 14 (BitVec.ofNat 64 q.arg)).set 15 (BitVec.ofNat 64 q.word) }

theorem trapVec_of_frame (ht : t = { s with eng := t.eng }) (e cause : Nat) : trapVec t e cause = trapVec s e cause := by
  rw [ht]
  rfl

theorem RetiredAs.takeTrap (h : RetiredAs e c x s t) (vec : Nat) (q : TrapFrame) : RetiredAs e c (x.entered vec q) s (takeTrap e c vec q t) := by
  have hentered : RetiredAs e c (x.entered vec q) s (t.setCtx e c ((t.ctx e c).entered vec q)) := by
    rw [h.ctx]
    exact h.setCtx rfl
  exact hentered.countsOnly (countsOnly_pcnt ..)

theorem mustTrap_valid {q : TrapFrame} {v : Nat} (hin : (s.ctx e c).inTrap = false) (hv : trapVec s e q.cause = some v) :
    mustTrap e c q s = takeTrap e c v q s := by
  simp [mustTrap, hin, hv]

theorem RetiredAs.mustTrap {q : TrapFrame} {v : Nat} (h : RetiredAs e c x s t) (hin : x.inTrap = false) (hv : trapVec s e q.cause = some v) :
    RetiredAs e c (x.entered v q) s (mustTrap e c q t) := by
  rw [mustTrap_valid (by rw [h.ctx, hin]) ((trapVec_of_frame h.frame ..).trans hv)]
  exact h.takeTrap v q

theorem execOpTrapSlow_valid {v : Nat} (h : Issues s e c 0x03 mi a b x) (hin : x.inTrap = false) (hv : trapVec s e 3 = some v) :
    ∃ t, exec (.opTrapSlow e c) s = .next t
      ∧ RetiredAs e c ((x.took 1).entered v (x.save 3 0 0 x.pc (x.pc + 1) mi.imm.toNat)) s t := by
  refine h.exec_of_body rfl ((h.retiredAs_move ?_ _).mustTrap hin hv)
  rfl

end control

/-- Settles O24: RETIRE and DROPR by the issue alone, the others by the context they leave. -/
theorem controlOperationsRetire : Obligations.ControlOperationsRetire := by
  intro s e c mi a b x
  refine ⟨?retire, ?dropr, ?trapSlow, ?brk, ?callTaken, ?callNotTaken, ?retn, ?retnResumes, ?jind⟩
  case retire | dropr => exact fun h => congrArg Host.Outcome.next (issue_eq h _)
  case trapSlow =>
    intro h hin v hv
    obtain ⟨t, ht, hleaves, -⟩ := execOpTrapSlow_valid h hin hv
    exact ⟨t, ht, congrArg Ctx.pc hleaves.ctx, congrArg Ctx.inTrap hleaves.ctx, congrArg Ctx.trap hleaves.ctx, congrArg Ctx.stack hleaves.ctx⟩
  case brk =>
    intro h hoff
    refine h.retires_of_body rfl ?_
    rw [brk_off (s := served e c s) hoff]
    exact retiredAs_finish (leaves_served e c s) h.halted_eq h.calm _ _ _
  case callTaken =>
    intro h hgo hroom
    obtain ⟨t, ht, hleaves, -⟩ := execOpCall_taken h hgo hroom
    exact ⟨t, ht, congrArg Ctx.pc hleaves.ctx, congrArg Ctx.stack hleaves.ctx, hleaves.frame⟩
  case callNotTaken =>
    intro h hgo
    obtain ⟨t, ht, hleaves, -⟩ := execOpCall_notTaken h hgo
    exact ⟨t, ht, congrArg Ctx.pc hleaves.ctx, (congrArg Ctx.stack hleaves.ctx).trans rfl, hleaves.frame⟩
  case retn =>
    intro r l h hin hstack
    obtain ⟨t, ht, hleaves, -⟩ := execOpRetn_outside h hin hstack
    exact ⟨t, ht, congrArg Ctx.pc hleaves.ctx, congrArg Ctx.stack hleaves.ctx, hleaves.frame⟩
  case retnResumes =>
    intro r q h hin hstack htrap
    obtain ⟨t, ht, hleaves, -⟩ := execOpRetn_resumes h hin hstack htrap
    exact ⟨t, ht, congrArg Ctx.pc hleaves.ctx, congrArg Ctx.stack hleaves.ctx, congrArg Ctx.inTrap hleaves.ctx, hleaves.frame⟩
  case jind =>
    intro h hpc
    obtain ⟨t, ht, hleaves, -⟩ := execOpJind_inStore h hpc
    exact ⟨t, ht, congrArg Ctx.pc hleaves.ctx, hleaves.frame⟩

end Sys2Proof.Machine
end

section
/-! SUPPORT. The control store (R199 to R207): what a word, its parity and the region's buffer hold after a quarter is written, and the range of INJ_PAR. -/
namespace Sys2Proof.Machine

/-! ### Words and their parity (R199, R207) -/

theorem csWord_of_store {s t : State} (h : t.eng.store = s.eng.store) (r w : Nat) : csWord t r w = csWord s r w := by
  rw [csWord, csWord, h]

theorem csGood_of_badPar {s t : State} (h : t.eng.badPar = s.eng.badPar) (r w : Nat) : csGood t r w = csGood s r w := by
  rw [csGood, csGood, h]

theorem csPlace_ne {r w r' w' : Nat} (hw : w < 4608) (hw' : w' < 4608) (hne : (r', w') ≠ (r, w)) : 4608 * r' + w' ≠ 4608 * r + w := by
  intro h
  exact hne (Prod.ext (by omega) (by omega))

section storeWord
variable (r w v : Nat) (s : State)

theorem storeWord_store : (storeWord r w v s).eng.store = s.eng.store.put 0 (4608 * r + w) v := by
  unfold storeWord
  dsimp only
  split <;> rfl

theorem storeWord_badPar : (storeWord r w v s).eng.badPar
    = if s.rd (pENG r) F.ENG_CTRL_INJ_PAR = 0 then s.eng.badPar.erase (4608 * r + w)
      else (s.eng.badPar.erase (4608 * r + w)).insert (4608 * r + w) (2 ^ (s.rd (pENG r) F.ENG_CTRL_INJ_PAR - 1)) := by
  unfold storeWord
  dsimp only
  split <;> rfl

theorem rd_storeWord_injPar : (storeWord r w v s).rd (pENG r) F.ENG_CTRL_INJ_PAR = 0 := by
  unfold storeWord
  dsimp only
  split
  case isTrue h => exact h
  case isFalse => exact rd_wr_same ..

theorem csWord_storeWord_same : csWord (storeWord r w v s) r w = BitVec.ofNat 128 v := by
  rw [csWord, storeWord_store, SMap.get_put_same]

variable {r w v s}

theorem csGood_storeWord_same (hinj : s.rd (pENG r) F.ENG_CTRL_INJ_PAR = 0) : csGood (storeWord r w v s) r w = true := by
  rw [csGood, storeWord_badPar, if_pos hinj, SMap.get_eq_find?, SMap.find?_erase_same]
  rfl

theorem badPar_storeWord_injected {k : Nat} (hinj : s.rd (pENG r) F.ENG_CTRL_INJ_PAR = k + 1) :
    (storeWord r w v s).eng.badPar.get 0 (4608 * r + w) = 2 ^ k := by
  rw [storeWord_badPar, if_neg (by omega), hinj, SMap.get_eq_find?, SMap.find?_insert_same]
  rfl

/-- Storing a word leaves every other word of every region, and its parity, as they were. -/
theorem storeWord_other {r' w' : Nat} (h : 4608 * r' + w' ≠ 4608 * r + w) :
    csWord (storeWord r w v s) r' w' = csWord s r' w' ∧ csGood (storeWord r w v s) r' w' = csGood s r' w' := by
  constructor
  · rw [csWord, storeWord_store, SMap.get_put_other _ _ _ h]
    rfl
  · have hfind : (storeWord r w v s).eng.badPar.find? (4608 * r' + w') = s.eng.badPar.find? (4608 * r' + w') := by
      rw [storeWord_badPar]
      split
      · rw [SMap.find?_erase_other _ h]
      · rw [SMap.find?_insert_other _ _ h, SMap.find?_erase_other _ h]
    rw [csGood, csGood, SMap.get_eq_find?, SMap.get_eq_find?, hfind]

end storeWord

/-! ### The buffer of a region (R200) -/

/-- What a region's buffer holds: a word's index, and the first three quarters written to it. -/
abbrev WordBuffer : Type := Nat × Nat × Nat × Nat

/-- The buffer of region `r`. -/
def wordBuffer (s : State) (r : Nat) : WordBuffer := s.eng.wbuf.get (0, 0, 0, 0) r

def putBuffer (r : Nat) (b : WordBuffer) (s : State) : State := { s with eng := { s.eng with wbuf := s.eng.wbuf.put (0, 0, 0, 0) r b } }

theorem wordBuffer_putBuffer (r : Nat) (b : WordBuffer) (s : State) : wordBuffer (putBuffer r b s) r = b := SMap.get_put_same ..

/-- The quarters a buffer holds of a word: none where it holds those of another. -/
def bufferedQuarters (b : WordBuffer) (w : Nat) : Nat × Nat × Nat := if b.1 = w then b.2 else (0, 0, 0)

/-- The first three quarters of a word after quarter `q` has been written. -/
def withQuarter (q v : Nat) (x : Nat × Nat × Nat) : Nat × Nat × Nat :=
  (if q = 0 then v else x.1, if q = 1 then v else x.2.1, if q = 2 then v else x.2.2)

/-- The low 96 bits of a word from its first three quarters. -/
def lowQuarters (x : Nat × Nat × Nat) : Nat := x.1 + x.2.1 * 2 ^ 32 + x.2.2 * 2 ^ 64

theorem bufferedQuarters_eq (b : WordBuffer) (w : Nat) :
    bufferedQuarters b w = (if b.1 = w then b.2.1 else 0, if b.1 = w then b.2.2.1 else 0, if b.1 = w then b.2.2.2 else 0) := by
  unfold bufferedQuarters
  split <;> rfl

theorem lowQuarters_bufferedQuarters (b : WordBuffer) (w : Nat) :
    lowQuarters (bufferedQuarters b w) = if b.1 = w then b.2.1 + b.2.2.1 * 2 ^ 32 + b.2.2.2 * 2 ^ 64 else 0 := by
  unfold bufferedQuarters
  split <;> rfl

/-- A buffer that holds another word's quarters starts anew with the word written. -/
theorem buffer_restarted (b : WordBuffer) (w : Nat) : (if b.1 = w then b else (w, 0, 0, 0)) = (w, bufferedQuarters b w) := by
  unfold bufferedQuarters
  split
  case isTrue h => exact Prod.ext h rfl
  case isFalse => rfl

theorem wordBuffer_storeWord (r w v : Nat) (s : State) (r' : Nat) : wordBuffer (storeWord r w v s) r' = wordBuffer s r' := by
  unfold storeWord
  dsimp only
  split <;> rfl

theorem csQuarter_waits {q : Nat} (hq : q < 3) (r w v : Nat) (s : State) :
    csQuarter r w q v s = putBuffer r (w, withQuarter q v (bufferedQuarters (wordBuffer s r) w)) s := by
  simp only [csQuarter, buffer_restarted]
  match q, hq with
  | 0, _ => rfl
  | 1, _ => rfl
  | 2, _ => rfl

theorem csQuarter_stores (r w v : Nat) (s : State) :
    csQuarter r w 3 v s = storeWord r w (lowQuarters (bufferedQuarters (wordBuffer s r) w) + v * 2 ^ 96) (putBuffer r (0, 0, 0, 0) s) := by
  simp only [csQuarter, buffer_restarted]
  rfl

/-! ### The window (R201) -/

/-- The state in which an accepted write of the window is carried out: ENG_CS_WSTAT names its word, and its result is recorded. -/
def csAccepted (r w q ag : Nat) (s : State) : State :=
  windowResult (pENG r) ag (0x900000 + r * 0x20000 + 16 * w + 4 * q) rDONE
    ((s.wr (pENG r) F.ENG_CS_WSTAT_CODE rDONE).wr (pENG r) F.ENG_CS_WSTAT_WORD w)

theorem rd_csAccepted_injPar (r w q ag : Nat) (s : State) :
    (csAccepted r w q ag s).rd (pENG r) F.ENG_CTRL_INJ_PAR = s.rd (pENG r) F.ENG_CTRL_INJ_PAR := by
  have hword : fkey (pENG r) F.ENG_CTRL_INJ_PAR 0 0 ≠ fkey (pENG r) F.ENG_CS_WSTAT_WORD 0 0 := by
    simp only [fkey, Field.at, F.ENG_CTRL_INJ_PAR, F.ENG_CS_WSTAT_WORD]
    omega
  have hcode : fkey (pENG r) F.ENG_CTRL_INJ_PAR 0 0 ≠ fkey (pENG r) F.ENG_CS_WSTAT_CODE 0 0 := by
    simp only [fkey, Field.at, F.ENG_CTRL_INJ_PAR, F.ENG_CS_WSTAT_CODE]
    omega
  calc (csAccepted r w q ag s).rd (pENG r) F.ENG_CTRL_INJ_PAR
      = ((s.wr (pENG r) F.ENG_CS_WSTAT_CODE rDONE).wr (pENG r) F.ENG_CS_WSTAT_WORD w).rd (pENG r) F.ENG_CTRL_INJ_PAR :=
        rd_of_reg (windowResult_reg ..) ..
    _ = s.rd (pENG r) F.ENG_CTRL_INJ_PAR := by rw [rd_wr_other _ _ hword, rd_wr_other _ _ hcode]

theorem execCsWindowWrite_accepted {r w ag v : Nat} {s : State} (h : csWriteCode s r w ag v = rDONE) (q : Nat) :
    exec (.csWindowWrite r w q ag v) s = .next (csQuarter r w q v (csAccepted r w q ag s)) := by
  refine congrArg _ (?_ : csWrite r w q ag v s = _)
  simp only [csWrite, h]
  rfl

/-! ### INJ_PAR (R207) -/

theorem gateCode_injPar_range {r ag x : Nat} {view : View} {s : State} (hr : r < 4) (hl : lockedBy s (pENG r) ag = false)
    (hx : 4 < nv s (pENG r) (newVals s (pENG r) .eng 0x040 view x) F.ENG_CTRL_INJ_PAR) :
    gateCode s (pENG r) 0x040 view ag x (injParRange s r) noCheck noBusy = rRANGE := by
  have hb := pageBlk_pENG hr
  have hvals : gateVals s (pENG r) 0x040 view x = newVals s (pENG r) .eng 0x040 view x := by
    simp [gateVals, hb, idleReg]
  have hrange : injParRange s r (newVals s (pENG r) .eng 0x040 view x) = false := decide_eq_false (by omega)
  simp only [gateCode, hb, hvals, hrange, hl, Bool.and_false, firstFail_range]

/-- Settles O57: an accepted write is its quarter's, which waits in the buffer when it is one of the first three and stores the word when it is the last. -/
theorem controlStoreWordsAreWrittenWhole : Obligations.ControlStoreWordsAreWrittenWhole := by
  intro s r w q v ag hr hw _ hcode
  refine ⟨_, execCsWindowWrite_accepted hcode q, ?quarters, fun view x _ hl hx => gateCode_injPar_range hr hl hx⟩
  case quarters =>
    rintro b rfl
    refine ⟨fun hq => ?waits, ?stores⟩
    case waits =>
      rw [csQuarter_waits hq]
      refine ⟨fun _ _ => ⟨csWord_of_store rfl .., csGood_of_badPar rfl ..⟩, congrArg Prod.fst (wordBuffer_putBuffer ..), ?_⟩
      refine (congrArg Prod.snd (wordBuffer_putBuffer ..)).trans ?_
      rw [bufferedQuarters_eq]
      rfl
    case stores =>
      rintro rfl
      have hkept := rd_csAccepted_injPar r w 3 ag s
      rw [csQuarter_stores, lowQuarters_bufferedQuarters]
      refine ⟨csWord_storeWord_same .., fun r' w' hw' hne => storeWord_other (csPlace_ne hw hw' hne), ?empties, ?good, ?bad,
        rd_storeWord_injPar ..⟩
      case empties => exact (wordBuffer_storeWord ..).trans (wordBuffer_putBuffer ..)
      case good => exact fun hinj => csGood_storeWord_same (hkept.trans hinj)
      case bad => exact fun k hinj => badPar_storeWord_injected (hkept.trans hinj)

end Sys2Proof.Machine
end

section
/-! SUPPORT. The engine block (R194, R203 to R221, R223): limits and machine checks, overflowed counters and their captures, the debug access, samples and
scratch words. -/
namespace Sys2Proof.Machine

/-! ### Limits and machine checks (R194, R203) -/

section fetch
variable {e c : Nat} {s : State} (hbusy : (s.ctx e c).busy = true) (hawake : (s.ctx e c).halted = false)
  (hrun : s.inState (pENG (engRegion e)) .run = true) (hpc : (s.ctx e c).pc ≤ maxPc)
include hbusy hawake hrun hpc

theorem execRoutineLimit_passed (hlimit : s.rd (pENG (engRegion e)) F.ENG_CTRL_MAX_STEPS
      < (s.ctx e c).slots + opSlots (miDecode (csWord s (engRegion e) (s.ctx e c).pc)).opcode) :
    execRoutineLimit e c s = .next (routineFault e c fLIMIT s) := by
  simp [execRoutineLimit, hbusy, hawake, hrun, hpc, hlimit]

/-- Bad parity of a word that a peer holds good: the word is repaired and the routine run again, up to its second machine check. -/
theorem machineCheck_repaired (hbad : csGood s (engRegion e) (s.ctx e c).pc = false)
    (hpeer : (csPeer (pcnt e 0x0E s) (engRegion e) (s.ctx e c).pc).isSome = true) (hchecks : (s.ctx e c).checks < 2) :
    machineCheck e c s = abandon e c (csRepair (engRegion e) (s.ctx e c).pc
      ((pcnt e 0x0E s).setCtx e c { s.ctx e c with checks := (s.ctx e c).checks + 1 })).2 := by
  unfold machineCheck
  dsimp only
  rw [if_neg (by simp [hbusy, hawake, hrun, hpc, hbad]), if_neg (by simp [Option.isSome_iff_ne_none.mp hpeer, hchecks])]

end fetch

/-! ### Overflows (R219) -/

/-- Counter `n` of an engine loaded with `x`, its OVF set; where `x` has overflowed again, the engine's place is kept. The proofs keep `x` a variable:
its value subtracts 2 ^ 32 in `Nat`, which the kernel would take apart one by one. -/
def loadCounter (e n x : Nat) (s : State) : State :=
  { s with eng := { s.eng with
      pcnt := s.eng.pcnt.put 0 (8 * e + n) x
      passed := s.eng.passed.put 0 (8 * e + n) (if 2 ^ 32 ≤ x then s.eng.retired.get 0 e else 0) } }.setF (pENG (engRegion e)) (ovfF n) (e % 16)

theorem loadCounter_captures (e n x : Nat) (s : State) : (loadCounter e n x s).eng.captures = s.eng.captures := rfl

/-- What OVF_ACT has follow the load in state `t`: nothing, an interrupt, or a capture of the overflow at `place`. -/
def overflowActs (a place e n : Nat) (t : State) : State :=
  match a with
  | 0 => t
  | 1 => srcEvent (regSource (engRegion e) 3) t
  | a => { t with eng := { t.eng with captures := t.eng.captures ++ [⟨e, n, a = 3, place⟩] } }

theorem overflowActs_captures {a : Nat} (h : 2 ≤ a) (place e n : Nat) (t : State) :
    overflowActs a place e n t = { t with eng := { t.eng with captures := t.eng.captures ++ [⟨e, n, a = 3, place⟩] } } := by
  match a, h with
  | _ + 2, _ => rfl

/-- A counter past 0xFFFF_FFFF is loaded with its RELOAD and the events beyond. -/
theorem pcntOverflow_passed {e n x : Nat} {s : State} (hover : 2 ^ 32 ≤ s.eng.pcnt.get 0 (8 * e + n))
    (hx : x = s.rd (pENG (engRegion e)) F.ENG_RELOAD_RELOAD n + (s.eng.pcnt.get 0 (8 * e + n) - 2 ^ 32)) :
    pcntOverflow e n s
      = overflowActs (s.rd (pENG (engRegion e)) F.ENG_PCFG_OVF_ACT n) (s.eng.passed.get 0 (8 * e + n)) e n (loadCounter e n x s) := by
  unfold pcntOverflow
  dsimp only
  rw [if_neg (Nat.not_lt.mpr hover), ← hx]
  rfl

theorem execPcntOverflow_counter {n : Nat} (hn : n < 8) (e : Nat) (s : State) : execPcntOverflow e n s = .next (pcntOverflow e n s) := by
  rw [execPcntOverflow, if_pos hn]

/-! ### Captures (R208, R220) -/

/-- The state once an overflow is captured at the micro-instruction at `pc` of context `c`: its sample record is written. -/
def sampled (q : OvfCap) (e c pc : Nat) (s : State) : State :=
  pushSample (engRegion e) (sampleRecord e c q.counter pc s.sNow) { s with eng := { s.eng with captures := s.eng.captures.erase q } }

section capture
variable {e c pc : Nat} {ended : Bool} {q : OvfCap} {s : State} (hq : s.eng.captures.find? (fun k => k.engine = e) = some q)
  (hret : s.eng.lastRet.find? e = some (c, pc, ended))
include hq hret

/-- The oldest overflow of an engine is captured where the engine retired last. -/
theorem overflowCapture_captures : overflowCapture e c s = capture q s ∧ q.engine = e := by
  have he : q.engine = e := by simpa using List.find?_some hq
  simp [overflowCapture, hq, hret, he]

theorem overflowCapture_noTrap (htrap : q.trap = false) : overflowCapture e c s = sampled q e c pc s := by
  obtain ⟨hcap, rfl⟩ := overflowCapture_captures hq hret
  simp [hcap, capture, hret, htrap, sampled]

theorem overflowCapture_trap {a : Nat} (htrap : q.trap = true) (hvec : trapVec (sampled q e c pc s) e 2 = some a) (hended : ended = false)
    (hbusy : (s.ctx e c).busy = true) (hin : (s.ctx e c).inTrap = false) (hawake : (s.ctx e c).halted = false) :
    overflowCapture e c s = takeTrap e c a ((s.ctx e c).save 2 q.counter 0 pc (s.ctx e c).pc 0) (sampled q e c pc s) := by
  obtain ⟨hcap, rfl⟩ := overflowCapture_captures hq hret
  unfold sampled at hvec ⊢
  simp [hcap, capture, hret, htrap, hvec, hended, hbusy, hin, hawake]

end capture

/-! ### The debug access (R214, R223) -/

theorem execDbgResume_halted {pg ag arg : Nat} {s : State} {q : TrapFrame}
    (h : cmdCode s pg ag (isBlk pg .eng && arg < 128) (stateIn s pg [.run] && (s.ctx (16 * pageRegion pg + arg % 16) (arg / 16)).halted) = rDONE)
    (hq : (s.ctx (16 * pageRegion pg + arg % 16) (arg / 16)).trap = some q) :
    execDbgResume pg ag arg s = .next (record pg ag 4 0x45 rDONE (s.setCtx (16 * pageRegion pg + arg % 16) (arg / 16)
      { (s.ctx (16 * pageRegion pg + arg % 16) (arg / 16)).setFlags q.flags with u := q.u, pc := q.resumePc, halted := false, trap := none })) := by
  refine (congrArg Host.Outcome.next (command_done h _)).trans ?_
  simp only [hq]

/-- The high half of the word the debug registers select: 0 where the context has no trap frame. -/
def dbgHigh (s : State) (r : Nat) : Nat := ((s.ctx (dbgEngine s r) (dbgContext s r)).trap.map (fun q => q.get (dbgWord s r) / 2 ^ 32)).getD 0

theorem execDbgWordWrite_done {r ag v : Nat} {w : View} {s : State} (hp : pageBlk (pENG r) ≠ none)
    (h : gateCode s (pENG r) 0x068 w ag v noCheck (fun _ => dbgWritable s r) noBusy = rDONE) :
    execDbgWordWrite r w ag v s = .next (record (pENG r) ag 26 0xFF rDONE
      (dbgStore r (viewOutcome w (dbgHigh s r) v 32 * 2 ^ 32 + s.rd (pENG r) F.ENG_DBG_DATA 0) s)) := by
  refine (congrArg Host.Outcome.next (regGate_done hp h)).trans ?_
  unfold dbgHigh
  cases (s.ctx (dbgEngine s r) (dbgContext s r)).trap <;> rfl

/-! ### Samples and scratch words (R221, R223) -/

theorem execSamplePop_cons {r x : Nat} {l : List Nat} {s : State} (h : s.eng.samples.get [] r = x :: l) :
    execSamplePop r s = .next ((({ s with eng := { s.eng with samples := s.eng.samples.put [] r l } }.wr (pENG r) F.ENG_SAMPLE_STAT_COUNT
      l.length).wr (pENG r) F.ENG_SAMPLE_DATA x 0).wr (pENG r) F.ENG_SAMPLE_DATA (x / 2 ^ 32) 1) := by
  simp only [execSamplePop, h]

/-- Half `half` of a scratch word is written at its own register: 8 bytes for each word, the low half first. -/
theorem scratchWrite_done {r k half off ag v : Nat} {w : View} {s : State} (eff : Nat → State → State) (hoff : off = 0x200 + 8 * k + 4 * half)
    (hp : pageBlk (pENG r) ≠ none) (h : gateCode s (pENG r) off w ag v noCheck noCheck noBusy = rDONE) :
    scratchWrite r k half w ag v eff s = record (pENG r) ag (off / 4) 0xFF rDONE
      (eff (viewOutcome w (s.eng.scratch.get 0 (64 * r + k) / 2 ^ (32 * half) % 2 ^ 32) v 32) s) := by
  subst hoff
  exact regGate_done (body := fun _ => eff _) hp h

theorem execScratchLoWrite_done {r k ag v : Nat} {w : View} {s : State} (hp : pageBlk (pENG r) ≠ none)
    (h : gateCode s (pENG r) (0x200 + 8 * k) w ag v noCheck noCheck noBusy = rDONE) :
    execScratchLoWrite r k w ag v s = .next (record (pENG r) ag ((0x200 + 8 * k) / 4) 0xFF rDONE
      (holdScratch r k ag (viewOutcome w (s.eng.scratch.get 0 (64 * r + k) % 2 ^ 32) v 32) s)) := by
  have hdone := scratchWrite_done (k := k) (half := 0) (holdScratch r k ag) (by omega) hp h
  rw [Nat.mul_zero, Nat.pow_zero, Nat.div_one] at hdone
  exact congrArg Host.Outcome.next hdone

theorem execScratchHiWrite_done {r k ag v : Nat} {w : View} {s : State} (hp : pageBlk (pENG r) ≠ none)
    (h : gateCode s (pENG r) (0x204 + 8 * k) w ag v noCheck noCheck noBusy = rDONE) :
    execScratchHiWrite r k w ag v s = .next (record (pENG r) ag ((0x204 + 8 * k) / 4) 0xFF rDONE
      (storeScratch r k ag (viewOutcome w (s.eng.scratch.get 0 (64 * r + k) / 2 ^ 32 % 2 ^ 32) v 32) s)) := by
  have hdone := scratchWrite_done (k := k) (half := 1) (storeScratch r k ag) (by omega) hp h
  rw [Nat.mul_one] at hdone
  exact congrArg Host.Outcome.next hdone

/-- Settles O28: commands and register writes by their acceptance, the engines' own events by what led to them. -/
theorem engineCommandsComplete : Obligations.EngineCommandsComplete := by
  intro pg ag arg e c n r v w s
  refine ⟨?limit, ?check, ?overflow, ?capture, ?snap, ?clear, ?scrub, ?resume, ?store, ?inject, ?pop, ?debug, ?scratchRead, ?scratchLow, ?scratchHigh⟩
  case limit => exact fun hbusy hawake hrun hpc h => execRoutineLimit_passed hbusy hawake hrun hpc h
  case check => exact fun hbusy hawake hrun hpc hbad hpeer h => congrArg Host.Outcome.next (machineCheck_repaired hbusy hawake hrun hpc hbad hpeer h)
  case overflow =>
    rintro hn hover x t hx rfl
    have hexec := (execPcntOverflow_counter hn e s).trans (congrArg Host.Outcome.next (pcntOverflow_passed hover hx))
    refine ⟨fun hact => ?_, fun hact => ?_, fun hact => ?_⟩
    · exact hexec.trans (by rw [hact]; rfl)
    · exact hexec.trans (by rw [hact]; rfl)
    · refine hexec.trans ?_
      rw [overflowActs_captures hact, loadCounter_captures]
      rfl
  case capture =>
    intro q pc ended hq hret t ht
    obtain rfl : t = sampled q e c pc s := ht
    refine ⟨fun htrap => congrArg Host.Outcome.next (overflowCapture_noTrap hq hret htrap), ?trap⟩
    case trap =>
      intro a htrap hvec hended hbusy hin hawake
      exact congrArg Host.Outcome.next (overflowCapture_trap hq hret htrap hvec hended hbusy hin hawake)
  case snap => exact fun h => congrArg Host.Outcome.next (command_done h _)
  case clear => exact fun h => congrArg Host.Outcome.next (command_done h (fun s => (cntClear pg s, rDONE)))
  case scrub => exact fun h => congrArg Host.Outcome.next (commandLong_done h _ _)
  case resume => exact fun q h hq => execDbgResume_halted h hq
  case store => exact fun word q h => execCsWindowWrite_accepted h q
  case inject => exact fun hp h => congrArg Host.Outcome.next (regWrite_done hp h)
  case pop => exact fun x l h => execSamplePop_cons h
  case debug =>
    rintro old hp h rfl
    exact execDbgWordWrite_done hp h
  case scratchRead => exact fun _ => rfl
  case scratchLow => exact fun k hp h => execScratchLoWrite_done hp h
  case scratchHigh => exact fun k hp h => execScratchHiWrite_done hp h

end Sys2Proof.Machine
end

section
/-! SUPPORT. The accounts of a region (R238, R239): where use and guarantee stand, what a charge moves, and when one is refused. -/
namespace Sys2Proof.Machine

/-! ### The two accounts of a word -/

/-- The field of an account's use: each word of the table holds an even account below the odd one. -/
def useF (a : Nat) : Field := if a % 2 = 0 then F.BUF_USE_USE_LO else F.BUF_USE_USE_HI
/-- The field of an account's guarantee. -/
def gminF (a : Nat) : Field := if a % 2 = 0 then F.BUF_GMIN_GMIN_LO else F.BUF_GMIN_GMIN_HI

theorem useOf_eq_rd (s : State) (r a : Nat) : useOf s r a = s.rd (pBUF r) (useF a) (a / 2) := by
  unfold useOf useF
  split <;> rfl

theorem gminOf_eq_rd (s : State) (r a : Nat) : gminOf s r a = s.rd (pBUF r) (gminF a) (a / 2) := by
  unfold gminOf gminF
  split <;> rfl

theorem setUse_eq_wr (r a v : Nat) (s : State) : setUse r a v s = s.wr (pBUF r) (useF a) v (a / 2) := by
  unfold setUse useF
  split <;> rfl

/-- Each use is 16 bits wide. -/
theorem width_useF (a : Nat) : (useF a).hi - (useF a).lo + 1 = 16 := by
  unfold useF
  split <;> rfl

/-- The uses of a page stand 16 bits apart from offset 0x300 on. -/
theorem fkey_useF (p a : Nat) : fkey p (useF a) (a / 2) 0 = 32768 * p + 6144 + 16 * a := by
  unfold fkey Field.at useF
  split <;> simp only [F.BUF_USE_USE_LO, F.BUF_USE_USE_HI] <;> omega

/-- The guarantees of a page stand 16 bits apart from offset 0x100 on. -/
theorem fkey_gminF (p a : Nat) : fkey p (gminF a) (a / 2) 0 = 32768 * p + 2048 + 16 * a := by
  unfold fkey Field.at gminF
  split <;> simp only [F.BUF_GMIN_GMIN_LO, F.BUF_GMIN_GMIN_HI] <;> omega

theorem fkey_useShared (p : Nat) : fkey p F.BUF_USE_SHARED_COUNT 0 0 = 32768 * p + 864 := by
  simp only [fkey, Field.at, F.BUF_USE_SHARED_COUNT]
  omega

section accounts
variable {r a b : Nat} (s : State)

theorem useOf_setUse_same {v : Nat} (hv : v < 65536) : useOf (setUse r a v s) r a = v := by
  rw [useOf_eq_rd, setUse_eq_wr, rd_wr_same, width_useF]
  exact Nat.mod_eq_of_lt hv

theorem useOf_setUse_other (v : Nat) (hne : b ≠ a) : useOf (setUse r a v s) r b = useOf s r b := by
  rw [useOf_eq_rd, useOf_eq_rd, setUse_eq_wr, rd_wr_other _ _ (by rw [fkey_useF, fkey_useF]; omega)]

theorem gminOf_setUse (v : Nat) (hb : b < 104) : gminOf (setUse r a v s) r b = gminOf s r b := by
  rw [gminOf_eq_rd, gminOf_eq_rd, setUse_eq_wr, rd_wr_other _ _ (by rw [fkey_gminF, fkey_useF]; omega)]

theorem useOf_syncShared : useOf (syncShared r s) r b = useOf s r b := by
  rw [useOf_eq_rd, useOf_eq_rd, syncShared, rd_wr_other _ _ (by rw [fkey_useF, fkey_useShared]; omega)]

theorem gminOf_syncShared : gminOf (syncShared r s) r b = gminOf s r b := by
  rw [gminOf_eq_rd, gminOf_eq_rd, syncShared, rd_wr_other _ _ (by rw [fkey_gminF, fkey_useShared]; omega)]

/-! ### A charge (R239) -/

/-- A charge changes no more of the registers than the account's use and the shared use. -/
theorem charge_reg (n : Nat) : (charge r a n s).reg = (syncShared r (setUse r a (useOf s r a + n) s)).reg := rfl

theorem useOf_charge (n : Nat) : useOf (charge r a n s) r b = useOf (setUse r a (useOf s r a + n) s) r b := by
  rw [useOf_eq_rd, rd_of_reg (charge_reg s n), ← useOf_eq_rd, useOf_syncShared]

theorem useOf_charge_same {n : Nat} (hn : useOf s r a + n < 65536) : useOf (charge r a n s) r a = useOf s r a + n :=
  (useOf_charge s n).trans (useOf_setUse_same s hn)

theorem useOf_charge_other (n : Nat) (hne : b ≠ a) : useOf (charge r a n s) r b = useOf s r b :=
  (useOf_charge s n).trans (useOf_setUse_other s _ hne)

theorem gminOf_charge (n : Nat) (hb : b < 104) : gminOf (charge r a n s) r b = gminOf s r b := by
  rw [gminOf_eq_rd, rd_of_reg (charge_reg s n), ← gminOf_eq_rd, gminOf_syncShared, gminOf_setUse s _ hb]

end accounts

/-! ### The shared use -/

theorem foldl_add_range (f : Nat → Nat) (n : Nat) : (List.range n).foldl (fun k a => k + f a) 0 = ∑ a ∈ Finset.range n, f a := by
  induction n with
  | zero => rfl
  | succ n ih => rw [List.range_succ, List.foldl_append, ih, Finset.sum_range_succ, List.foldl_cons, List.foldl_nil]

/-- Two sums that differ in one term differ by that term. -/
theorem sum_add_of_eq_off {f g : Nat → Nat} {n a : Nat} (ha : a < n) (h : ∀ b < n, b ≠ a → f b = g b) :
    ∑ b ∈ Finset.range n, f b + g a = ∑ b ∈ Finset.range n, g b + f a := by
  have hmem : a ∈ Finset.range n := Finset.mem_range.2 ha
  have hrest : ∑ b ∈ (Finset.range n).erase a, f b = ∑ b ∈ (Finset.range n).erase a, g b :=
    Finset.sum_congr rfl fun b hb => h b (Finset.mem_range.1 (Finset.mem_of_mem_erase hb)) (Finset.ne_of_mem_erase hb)
  rw [← Finset.add_sum_erase _ f hmem, ← Finset.add_sum_erase _ g hmem, hrest]
  omega

theorem sharedUse_eq_sum (s : State) (r : Nat) : sharedUse s r = ∑ a ∈ Finset.range 104, (useOf s r a - gminOf s r a) :=
  foldl_add_range _ 104

/-- A charge moves the shared use by what it moves the account's own shared part. -/
theorem sharedUse_charge {s : State} {r a n : Nat} (ha : a < 104) (hn : useOf s r a + n < 65536) :
    sharedUse (charge r a n s) r + (useOf s r a - gminOf s r a) = sharedUse s r + (useOf s r a + n - gminOf s r a) := by
  have hsum := sum_add_of_eq_off (f := fun b => useOf (charge r a n s) r b - gminOf (charge r a n s) r b) (g := fun b => useOf s r b - gminOf s r b) ha
    (fun b hb hne => by rw [useOf_charge_other s n hne, gminOf_charge s n hb])
  rw [useOf_charge_same s hn, gminOf_charge s n ha] at hsum
  rw [sharedUse_eq_sum, sharedUse_eq_sum]
  exact hsum

/-! ### Refusal -/

/-- A charge is accepted when it adds no shared billet, or when those it adds pass neither limit. -/
theorem chargeOk_iff {s : State} {r a n m o : Nat} (hm : m = (useOf s r a + n - gminOf s r a) - (useOf s r a - gminOf s r a))
    (ho : o = (List.range 4).foldl (fun k q => if q = r then k else k + (s.pool q).lastShared) 0) :
    chargeOk s r a n = true ↔ m = 0 ∨ (s.rd (pBUF r) F.BUF_USE_SHARED_COUNT + m ≤ s.rd (pBUF r) F.BUF_SHARED_LIMIT_LIMIT
      ∧ s.rd (pBUF r) F.BUF_USE_SHARED_COUNT + m + o ≤ s.rd (pBUF 0) F.BUF_CHIP_CAP_CAP) := by
  subst hm ho
  simp only [chargeOk, Bool.or_eq_true, Bool.and_eq_true, decide_eq_true_eq]

/-- Settles O55: the fields of a region's accounts are apart, so a charge moves its own account alone and with it one term of the shared use. -/
theorem chargesRespectTheGuarantee : Obligations.ChargesRespectTheGuarantee := by
  intro s r a n ha hn
  refine ⟨useOf_charge_same s hn, fun b _ hne => useOf_charge_other s n hne, sharedUse_charge ha hn, ?within, ?above⟩
  case within => exact fun hle => (chargeOk_iff rfl rfl).2 (.inl (by omega))
  case above => exact fun m o hm hpos ho => (chargeOk_iff hm ho).trans (or_iff_right (by omega))

end Sys2Proof.Machine
end

section
/-! SUPPORT. The buffer block's commands (R244 to R250): INC and DEC at a head billet, the free of a cord, the read of a link entry and the sweep of an
owner's billets. -/
namespace Sys2Proof.Machine

theorem pageRegion_pBUF (r : Nat) : pageRegion (pBUF r) = r := pageRegion_pReg r (by decide)

/-! ### Head billets (R244, R245) -/

section heads
variable {r b f : Nat} {x : Frame} {act : Nat → State → State} {s : State}

theorem headRefused_sound (halloc : (s.link b).alloc = true) (howner : (s.link b).owner = 0xFE) (halive : (s.headW b).dead = false) :
    headRefused b s = none := by
  simp [headRefused, halloc, howner, halive]

theorem headRefused_free (hfree : (s.link b).alloc = false) :
    headRefused b s = some (walkStop (billetRegion b) rSTATE 0xFE 0xFF (billetLocal b) (billetLocal b) s) := by
  simp [headRefused, hfree]

/-- INC and DEC at an aligned pointer of the region's slice act on the frame of the cord, where one has it. -/
theorem onHead_slice (hslice : b / 65536 = r) : onHead r (256 * b) 0 act s
    = (s.frames.entries.find? (fun (e : Nat × Frame) => e.2.head = some b)).elim ((headRefused b s).getD s) (fun e => act e.1 s) := by
  have hptr : 256 * b / 256 = b := Nat.mul_div_cancel_left b (by decide)
  have hin : (b / 65536 != r || 256 * b % 256 != 0) = false := by simp [hslice]
  simp only [onHead, readHead, hptr, hin]
  cases s.frames.entries.find? (fun (e : Nat × Frame) => e.2.head = some b) <;> rfl

theorem onHead_held (hslice : b / 65536 = r) (hfind : s.frames.entries.find? (fun (e : Nat × Frame) => e.2.head = some b) = some (f, x)) :
    onHead r (256 * b) 0 act s = act f s := by
  rw [onHead_slice hslice, hfind, Option.elim_some]

theorem onHead_unheld (hslice : b / 65536 = r) (hfind : s.frames.entries.find? (fun (e : Nat × Frame) => e.2.head = some b) = none) :
    onHead r (256 * b) 0 act s = (headRefused b s).getD s := by
  rw [onHead_slice hslice, hfind, Option.elim_none]

/-- INC of a sound head counts one more copy, up to 255. -/
theorem incCord_sound (hframe : s.frames.find? f = some x) (hhead : x.head = some b) (hsound : headRefused b s = none) :
    (incCord f s).2 = if 255 ≤ (s.headW b).refcnt then count (cRegion (billetRegion b) 66) s
      else s.setHead b { s.headW b with refcnt := (s.headW b).refcnt + 1 } := by
  simp only [incCord, hframe, hhead, hsound]
  split <;> rfl

/-- DEC of a sound head that counts copies gives one back; the last one frees the cord and its frame's record. -/
theorem decCord_sound (hframe : s.frames.find? f = some x) (hhead : x.head = some b) (hsound : headRefused b s = none) (hpos : 0 < (s.headW b).refcnt) :
    decCord f (s.pool (billetRegion b)).gen s = if 1 < (s.headW b).refcnt then s.setHead b { s.headW b with refcnt := (s.headW b).refcnt - 1 }
      else (freeCord (billetRegion b) (b * 256) 0xFE [] (s.setHead b { s.headW b with refcnt := 0, complete := true })).2.2.dropFrameRec f := by
  simp only [decCord, hframe, hhead, hsound, bne_self_eq_false, Bool.false_eq_true, if_false, if_neg hpos.ne']

end heads

/-! ### Commands (R250) -/

/-- A free is performed in READY and in RUN. -/
theorem execCordFreeWalk_performed {r ptr tag : Nat} {errs : List (Nat × Bool)} {s : State} (h : stateIn s (pBUF r) [.ready, .run] = true) :
    execCordFreeWalk r ptr tag errs s = .next (cordLost (freeCord r ptr tag errs s).2.2) := by
  rw [execCordFreeWalk, if_pos h]
  rfl

/-- What LINK_READ shows of a billet of the region's slice. -/
theorem linkRead_slice {r b w : Nat} {s : State} (hptr : s.rd (pBUF r) F.BUF_CMD_PTR_PTR = 256 * b) (hslice : b / 65536 = r)
    (hw : w = if (s.link b).head then headBits (s.headW b) else 0) :
    linkRead r 0 s = ((((s.wr (pBUF r) F.BUF_LINK_HEAD_DATA_DATA (linkBits (s.link b)) 0).wr (pBUF r) F.BUF_LINK_HEAD_DATA_DATA
      (linkBits (s.link b) / 2 ^ 32) 1).wr (pBUF r) F.BUF_LINK_HEAD_DATA_DATA w 2).wr (pBUF r) F.BUF_LINK_HEAD_DATA_DATA (w / 2 ^ 32) 3, rDONE) := by
  subst hw
  simp [linkRead, readHead, hptr, hslice]

theorem execCordFree_done {pg ag arg c n : Nat} {errs : List (Nat × Bool)} {s t : State} (hag : ag < 8)
    (h : cmdCode s pg ag (isBlk pg .buf && arg = 0) (s.inState pg .run) = rDONE)
    (hfree : freeCord (pageRegion pg) (s.rd pg F.BUF_CMD_PTR_PTR) (0x90 + ag) errs s = (c, n, t)) :
    execCordFree pg ag arg errs s = .next (record pg ag 4 0x43 c (bufOut pg c n (cordLost t))) := by
  rw [execCordFree, command_done h, if_neg (by omega), walkFrom, hfree]

theorem execOwnerSweep_begins {pg ag arg : Nat} {s : State} (htag : s.rd pg F.BUF_CMD_TAG_TAG < 0xFE)
    (h : cmdCode s pg ag (isBlk pg .buf && arg = 0) (stateIn s pg [.ready, .run, .fenced]) = rDONE) :
    execOwnerSweep pg ag arg s = .next ((s.updPage pg (fun h => { h with substate := 1 })).updPage pg (fun h => { h with
      cmd := some ⟨0x44, arg, ag, [s.rd pg F.BUF_CMD_TAG_TAG]⟩ })) := by
  have hrange : (isBlk pg .buf && arg = 0 && s.rd pg F.BUF_CMD_TAG_TAG < 0xFE) = (isBlk pg .buf && arg = 0) := by simp [htag]
  have hne : (isBlk pg .buf && rDONE = rRANGE) = false := by simp [rDONE, rRANGE]
  simp only [execOwnerSweep, hrange, h, commandLong_done h, hne]
  rfl

/-- Settles O29: INC and DEC by what they find at the head billet, the commands by their acceptance. -/
theorem bufferCommandsComplete : Obligations.BufferCommandsComplete := by
  intro pg ag arg r b f tag x s
  refine ⟨?counts, ?refused, ?walk, ?read, ?free, ?sweep⟩
  case counts =>
    rintro hslice rfl halloc howner halive hfind hframe hhead
    have hsound := headRefused_sound halloc howner halive
    have hinc : exec (.refcntInc (billetRegion b) (256 * b) 0) s = .next _ :=
      congrArg Host.Outcome.next ((onHead_held hslice hfind).trans (incCord_sound hframe hhead hsound))
    have hdec (hpos : 0 < (s.headW b).refcnt) : exec (.refcntDec (billetRegion b) (256 * b) 0) s = .next _ :=
      congrArg Host.Outcome.next ((onHead_held hslice hfind).trans (decCord_sound hframe hhead hsound hpos))
    refine ⟨fun hroom => ?_, fun hfull => ?_, fun hmore => ?_, fun hlast => ?_⟩
    · rw [hinc, if_neg (by omega)]
    · rw [hinc, if_pos (by omega)]
    · rw [hdec (by omega), if_pos hmore]
    · rw [hdec (by omega), if_neg (by omega)]
  case refused =>
    rintro hslice rfl hfree hfind t rfl
    have hstop {act : Nat → State → State} : onHead (billetRegion b) (256 * b) 0 act s
        = walkStop (billetRegion b) rSTATE 0xFE 0xFF (billetLocal b) (billetLocal b) s := by
      rw [onHead_unheld hslice hfind, headRefused_free hfree, Option.getD_some]
    exact ⟨congrArg Host.Outcome.next hstop, congrArg Host.Outcome.next hstop⟩
  case walk => exact fun ptr errs h => execCordFreeWalk_performed h
  case read =>
    intro _ h hptr hslice w hw
    refine congrArg Host.Outcome.next ((command_done h _).trans ?_)
    rw [linkRead_slice hptr hslice hw]
  case free => exact fun errs c n t hag h hfree => execCordFree_done hag h hfree
  case sweep =>
    rintro rfl htag h
    exact execOwnerSweep_begins htag h

end Sys2Proof.Machine
end

section
/-! SUPPORT. Queues, hampers, policers and stream filters (R255 to R305): a queue's entry and its hold, the depth samples, and the commands by their
acceptance. -/
namespace Sys2Proof.Machine

/-! ### Queues (R255, R273, R275) -/

theorem execQueueEntryWrite_accepted {q word ag v : Nat} {s : State} (h : entryCode (refreshOf q (listQueue q s)) (pQSC ((listQueue q s).qRegion q)) (wQUEUE q)
      .queue (4 * word) ag v (queueRange (listQueue q s) q word) (queueFree (listQueue q s) q) = rDONE) :
    execQueueEntryWrite q word ag v s = .next (settle q (refreshOf q (syncQueue q (windowResult (pQSC ((listQueue q s).qRegion q)) ag
      (0xC00000 + 64 * q + 4 * word) rDONE ((entryVals (refreshOf q (listQueue q s)) (wQUEUE q) .queue (4 * word) v).foldl (storeVal (wQUEUE q) ag)
        (refreshOf q (listQueue q s))))))) := by
  rw [execQueueEntryWrite, queueWrite, (entryWrite_eq ..).1 h]
  rfl

theorem holdExpire_ends {q : Nat} {s : State} (hh : (s.queue q).dstate = .holding) (hd : wayUp s q = false) :
    holdExpire q s = flushQueue q (s.updQueue q (fun x => { x with dstate := .expired })) := by
  simp [holdExpire, hh, hd]

theorem holdExpire_stays {q : Nat} {s : State} (h : (s.queue q).dstate ≠ .holding ∨ wayUp s q = true) : holdExpire q s = s := by
  rcases h with h | h <;> simp [holdExpire, h]

/-! ### Depth and delay samples (R302) -/

/-- The queues region `r` samples. -/
def regionQueues (s : State) (r : Nat) : List Nat := (knownQueues s).filter (fun q => s.qRegion q = r)

/-- One sample of every queue of region `r`, the `k`-th of its window. -/
def regionSampled (r k : Nat) (s : State) : State := (regionQueues s r).foldl (fun s q => sampleQueue (k = 0) q s) s

section samples
variable {r k m : Nat} {s : State} (hen : s.rdB (pQSC r) F.QSC_SAMPLE_CFG_SAMPLE_EN = true) (hst : stateIn s (pQSC r) [.ready, .run] = true)
  (hw : s.qscWin.get (0, 0) r = (k, m))
include hen hst hw

theorem sampleRegion_within (hk : k ≠ 999) :
    sampleRegion r s = { regionSampled r k s with qscWin := (regionSampled r k s).qscWin.put (0, 0) r (k + 1, m) } := by
  simp [sampleRegion, regionSampled, regionQueues, hen, hst, hw, hk]

theorem sampleRegion_closes (hk : k = 999) : sampleRegion r s
    = (regionQueues s r).foldl (fun s q => closeWindow ((m + 1) % 256) q s)
      { regionSampled r k s with qscWin := (regionSampled r k s).qscWin.put (0, 0) r (0, (m + 1) % 256) } := by
  simp [sampleRegion, regionSampled, regionQueues, hen, hst, hw, hk]

end samples

/-! ### Hampers and policers (R265, R297) -/

/-- The staged hamper. -/
def stagedHamper (s : State) (pg : Nat) : Hamper := ⟨s.rdB pg F.RPL_HMP_HDR_KNOCKOUT, s.rd pg F.RPL_HMP_HDR_COUNT, stagedMembers s pg⟩

theorem execHamperWrite_done {pg ag arg : Nat} {s : State} (hcount : (stagedHamper s pg).count ≤ 64) (harg : arg < 16384)
    (h : cmdCode s pg ag (isBlk pg .rpl) (stateIn s pg [.ready, .run]) = rDONE) :
    execHamperWrite pg ag arg s = .next (record pg ag 4 0x42 rDONE { s with hampers := s.hampers.put {} arg (stagedHamper s pg) }) := by
  have hrange : (isBlk pg .rpl && arg < 16384 && s.rd pg F.RPL_HMP_HDR_COUNT ≤ 64) = isBlk pg .rpl := by
    rw [decide_eq_true harg, decide_eq_true (show s.rd pg F.RPL_HMP_HDR_COUNT ≤ 64 from hcount), Bool.and_true, Bool.and_true]
  rw [execHamperWrite, hrange, command_done h]
  rfl

section policers
variable {pg ag arg n : Nat} {s : State}

theorem execPolWrite_done (hn : s.rd pg F.QSC_POL_IDX_IDX = n) (hreg : n / 4096 = pageRegion pg)
    (hmode : (stagedPolicer s pg).mode < 2 ∨ ((stagedPolicer s pg).mode = 2 ∧ (stagedPolicer s pg).cir ≤ (stagedPolicer s pg).pir
      ∧ (stagedPolicer s pg).cbs ≤ (stagedPolicer s pg).pbs))
    (h : cmdCode s pg ag (isBlk pg .qsc && arg = 0) (stateIn s pg [.ready, .run, .fenced]) = rDONE) :
    execPolWrite pg ag arg s = .next (record pg ag 4 0x43 rDONE (s.setPolicer n (stagedPolicer s pg))) := by
  have hlow : (stagedPolicer s pg).mode < 3 := by omega
  have hrates : ((stagedPolicer s pg).mode != 2 || ((stagedPolicer s pg).cir ≤ (stagedPolicer s pg).pir
      && (stagedPolicer s pg).cbs ≤ (stagedPolicer s pg).pbs)) = true := by
    rcases hmode with hlt | ⟨-, hrate, hsize⟩
    · simp [hlt.ne]
    · simp [hrate, hsize]
  simp only [execPolWrite, hn, hreg, hlow, hrates, decide_true, Bool.and_true, command_done h]

/-- A two-rate policer whose peak rate is below its committed one is out of range (R297). -/
theorem execPolWrite_refused (hmode : (stagedPolicer s pg).mode = 2) (hrate : (stagedPolicer s pg).pir < (stagedPolicer s pg).cir) :
    execPolWrite pg ag arg s = .next (record pg ag 4 0x43 (cmdCode s pg ag false (stateIn s pg [.ready, .run, .fenced])) s) := by
  have hne : cmdCode s pg ag false (stateIn s pg [.ready, .run, .fenced]) ≠ rDONE := fun h => by
    obtain ⟨-, hfalse, -⟩ := (cmdCode_done ..).1 h
    exact Bool.false_ne_true hfalse
  have hrates : ((stagedPolicer s pg).mode != 2 || ((stagedPolicer s pg).cir ≤ (stagedPolicer s pg).pir
      && (stagedPolicer s pg).cbs ≤ (stagedPolicer s pg).pbs)) = false := by simp [hmode, hrate]
  simp only [execPolWrite, hrates, Bool.and_false, (command_eq ..).2 hne]

theorem execPolRead_done (hn : s.rd pg F.QSC_POL_IDX_IDX = n) (hreg : n / 4096 = pageRegion pg)
    (h : cmdCode s pg ag (isBlk pg .qsc && arg = 0) (stateIn s pg [.ready, .run, .fenced]) = rDONE) :
    execPolRead pg ag arg s = .next (record pg ag 4 0x44 rDONE (polRead pg n s)) := by
  simp only [execPolRead, hn, hreg, decide_true, Bool.and_true, command_done h]

end policers

/-! ### Stream filters (R299, R301) -/

/-- A filter in the staging registers of SF_READ. -/
def showFilter (pg : Nat) (x : Filter) (s : State) : State :=
  (((((s.wr pg F.QSC_SF_CFG_EN (b2n x.en)).wr pg F.QSC_SF_CFG_BLOCK_EN (b2n x.blockEn)).wr pg F.QSC_SF_CFG_BLOCKED (b2n x.blocked)).wr
    pg F.QSC_SF_CFG_METER_EN (b2n x.meterEn)).wr pg F.QSC_SF_CFG_METER x.meter).wr pg F.QSC_SF_SDU_MAX_SDU x.maxSdu

/-- Two single fields of a page that stand at different bits have different keys. -/
theorem fkey_ne_of_place (p : Nat) {f g : Field} (h : f.off / 4 * 32 + f.lo ≠ g.off / 4 * 32 + g.lo) : fkey p f 0 0 ≠ fkey p g 0 0 := by
  simp only [fkey, Field.at, Nat.mul_zero, Nat.add_zero]
  omega

theorem rdB_wr_b2n (s : State) (p : Nat) {f : Field} (hf : f.hi = f.lo) (b : Bool) : (s.wr p f (b2n b)).rdB p f = b := by
  rw [State.rdB, rd_wr_same, hf]
  cases b <;> simp [b2n]

section shown
variable (pg : Nat) (x : Filter) (s : State)

theorem showFilter_meter : (showFilter pg x s).rd pg F.QSC_SF_CFG_METER = x.meter % 2 ^ 14 := by
  rw [showFilter, rd_wr_other _ _ (fkey_ne_of_place pg (by decide)), rd_wr_same]
  rfl

theorem showFilter_blocked : (showFilter pg x s).rdB pg F.QSC_SF_CFG_BLOCKED = x.blocked := by
  rw [State.rdB, showFilter, rd_wr_other _ _ (fkey_ne_of_place pg (by decide)), rd_wr_other _ _ (fkey_ne_of_place pg (by decide)),
    rd_wr_other _ _ (fkey_ne_of_place pg (by decide))]
  exact rdB_wr_b2n _ pg rfl x.blocked

theorem showFilter_maxSdu : (showFilter pg x s).rd pg F.QSC_SF_SDU_MAX_SDU = x.maxSdu % 2 ^ 14 := rd_wr_same ..

theorem showFilter_frame : showFilter pg x s = { s with reg := (showFilter pg x s).reg } := rfl

end shown

theorem filterCmd_done {pg ag op arg n : Nat} {s : State} (hn : s.rd pg F.QSC_SF_IDX_IDX = n) (hreg : n / 1024 = pageRegion pg)
    (h : cmdCode s pg ag (isBlk pg .qsc && arg = 0) (stateIn s pg [.ready, .run, .fenced]) = rDONE) (body : Nat → State → State) :
    filterCmd pg ag op arg body s = record pg ag 4 op rDONE (body n s) := by
  simp only [filterCmd, hn, hreg, decide_true, Bool.and_true, command_done h]

/-- Settles O30: each command by its acceptance, the hold by whether it still lasts, a sample by whether it is its window's last. -/
theorem queueCommandsComplete : Obligations.QueueCommandsComplete := by
  intro pg ag arg q word v n s
  refine ⟨?entry, ?expires, ?stays, ?flush, ?hamperWrite, ?hamperRead, ?capReset, ?sample, ?polWrite, ?polRefused, ?polRead, ?filters⟩
  case entry =>
    rintro _ _ rfl rfl h
    exact execQueueEntryWrite_accepted h
  case expires =>
    rintro _ rfl hh hd
    exact congrArg (fun t => Host.Outcome.next (refreshOf q t)) (holdExpire_ends hh hd)
  case stays =>
    rintro _ rfl h
    exact congrArg (fun t => Host.Outcome.next (refreshOf q t)) (holdExpire_stays h)
  case flush => exact fun h => congrArg Host.Outcome.next (command_done h _)
  case hamperWrite =>
    rintro _ rfl hcount harg h
    exact execHamperWrite_done hcount harg h
  case hamperRead => exact fun h => congrArg Host.Outcome.next (command_done h _)
  case capReset => exact fun h => congrArg Host.Outcome.next (command_done h _)
  case sample =>
    rintro r k m _ hen hst hw rfl _ rfl
    exact ⟨fun hk => congrArg Host.Outcome.next (sampleRegion_within hen hst hw hk),
      fun hk => congrArg Host.Outcome.next (sampleRegion_closes hen hst hw hk)⟩
  case polWrite => exact fun hn hreg hmode h => execPolWrite_done hn hreg hmode h
  case polRefused =>
    rintro - hmode hrate _ rfl
    exact execPolWrite_refused hmode hrate
  case polRead => exact fun hn hreg h => execPolRead_done hn hreg h
  case filters =>
    intro hn hreg h
    refine ⟨?write, ⟨showFilter pg (s.filter n) s, congrArg Host.Outcome.next (filterCmd_done hn hreg h _), showFilter_meter .., showFilter_blocked ..,
      showFilter_maxSdu .., showFilter_frame ..⟩, congrArg Host.Outcome.next (filterCmd_done hn hreg h _)⟩
    case write =>
      rintro _ rfl
      exact congrArg Host.Outcome.next (filterCmd_done hn hreg h _)

end Sys2Proof.Machine
end

section
/-! SUPPORT. What the commands of a unit leave alone: each operation by the parts of the state it may change, a command by its body. -/
namespace Sys2Proof.Machine

/-! ### Commands that end at once -/

section commands
variable {p ag op : Nat} {r st : Bool} {body : State → State × Nat} {s : State}

/-- A command answers its body's state or the state it found, with other page headers. -/
theorem command_keeps {Q : State → Prop} (hdone : ∀ g, Q { (body s).1 with pages := g }) (hrefused : ∀ g, Q { s with pages := g }) :
    Q (command p ag op r st body s) := by
  unfold command
  dsimp only
  split
  · exact hdone _
  · exact hrefused _

/-- A command whose body changes registers alone changes registers and page headers alone. -/
theorem command_registers (h : (body s).1 = { s with reg := (body s).1.reg }) :
    command p ag op r st body s = { s with pages := (command p ag op r st body s).pages, reg := (command p ag op r st body s).reg } :=
  command_keeps (Q := fun t => t = { s with pages := t.pages, reg := t.reg }) (fun _ => by rw [h]) (fun _ => rfl)

end commands

section filters
variable {pg ag op arg : Nat} {body : Nat → State → State} {s : State}

theorem filterCmd_registers (h : ∀ n, body n s = { s with reg := (body n s).reg }) :
    filterCmd pg ag op arg body s = { s with pages := (filterCmd pg ag op arg body s).pages, reg := (filterCmd pg ag op arg body s).reg } := by
  unfold filterCmd
  exact command_registers (h _)

theorem filterCmd_filters (h : ∀ n, body n s = { s with filters := (body n s).filters }) :
    filterCmd pg ag op arg body s = { s with pages := (filterCmd pg ag op arg body s).pages, filters := (filterCmd pg ag op arg body s).filters } := by
  unfold filterCmd
  exact command_keeps (Q := fun t => t = { s with pages := t.pages, filters := t.filters }) (fun _ => by rw [h]) (fun _ => rfl)

end filters

/-! ### Registers that show what a unit holds -/

theorem foldl_registers {α : Type} {f : State → α → State} (hf : ∀ s a, f s a = { s with reg := (f s a).reg }) (l : List α) (s : State) :
    l.foldl f s = { s with reg := (l.foldl f s).reg } :=
  List.foldlRecOn (motive := fun t => t = { s with reg := t.reg }) l f rfl (fun t ht a _ => by rw [hf, ht])

theorem hamperRead_frame (pg h : Nat) (s : State) : hamperRead pg h s = { s with reg := (hamperRead pg h s).reg } :=
  foldl_registers (fun _ _ => rfl) _ _

theorem peatData_frame (l : List Nat) (s : State) : peatData l s = { s with reg := (peatData l s).reg } :=
  foldl_registers (fun _ _ => rfl) _ _

/-- An outcome put beside the data of a command of the memory. -/
theorem peatData_wr_frame (l : List Nat) (f : Field) (c : Nat) (s : State) :
    (peatData l s).wr pPEAT f c = { s with reg := ((peatData l s).wr pPEAT f c).reg } := by
  rw [peatData_frame]
  rfl

/-! ### The interrupt controller (R529 to R537) -/

theorem deliver_frame (t n : Nat) (s : State) : deliver t n s = { s with int := (deliver t n s).int, out := (deliver t n s).out } := by
  unfold deliver
  dsimp only
  split <;> split <;> rfl

theorem claimRead_frame (t ag : Nat) (w : View) (s : State) :
    claimRead t ag w s = { s with int := (claimRead t ag w s).int, out := (claimRead t ag w s).out } := by
  unfold claimRead
  split
  · dsimp only
    split <;> rfl
  · rfl

theorem faultSync_frame (s : State) : faultSync s = { s with int := (faultSync s).int, out := (faultSync s).out } := by
  unfold faultSync
  split
  · rfl
  · split <;> rfl

theorem stackFault_frame (t n : Nat) (s : State) :
    stackFault t n s = { s with int := (stackFault t n s).int, reg := (stackFault t n s).reg, out := (stackFault t n s).out } := by
  unfold stackFault
  dsimp only
  split
  · rfl
  · split
    · rw [faultSync_frame]
      rfl
    · rfl

/-- A completion pops the stack, is refused in the header alone, or is recorded as a stack fault. -/
theorem completeSource_frame (t ag : Nat) (w : View) (v : Nat) (s : State) : completeSource t ag w v s = { s with
    int := (completeSource t ag w v s).int, pages := (completeSource t ag w v s).pages, reg := (completeSource t ag w v s).reg
    out := (completeSource t ag w v s).out } := by
  unfold completeSource
  dsimp only
  split
  · rfl
  split
  · rfl
  split
  · split
    · rfl
    · rw [stackFault_frame]
      rfl
  · rw [stackFault_frame]
    rfl

theorem foldl_interrupts {α : Type} {f : State → α → State} (hf : ∀ s a, f s a = { s with int := (f s a).int }) (l : List α) (s : State) :
    l.foldl f s = { s with int := (l.foldl f s).int } :=
  List.foldlRecOn (motive := fun t => t = { s with int := t.int }) l f rfl (fun t ht a _ => by rw [hf, ht])

theorem emptyStack_frame (t : Nat) (s : State) : emptyStack t s = { s with int := (emptyStack t s).int } := by
  rw [emptyStack, foldl_interrupts (fun _ _ => rfl)]
  rfl

/-! ### The SMBus slave (R568) -/

theorem smbFetch_frame (s : State) : smbFetch s = { s with ldg := (smbFetch s).ldg } := by
  unfold smbFetch
  split
  · split <;> rfl
  · rfl

/-- Settles O59: a command with a header by its body, an event by the operation it makes. -/
theorem commandsChangeOnlyTheirUnit : Obligations.CommandsChangeOnlyTheirUnit := by
  intro s t pg ag arg n v w
  simp only [List.forall_mem_cons, List.not_mem_nil, false_imp_iff, implies_true, and_true]
  refine ⟨?policer, ?filters, ?hamper, ?reads, ?interrupts, ?statistic, ?smbus, ?tap, ?engine, ?rows⟩
  case policer =>
    rintro ⟨⟩
    exact command_keeps (Q := fun t => t = { s with pages := t.pages, policers := t.policers }) (fun _ => rfl) (fun _ => rfl)
  case filters => constructor <;> rintro ⟨⟩ <;> exact filterCmd_filters (fun _ => rfl)
  case hamper =>
    rintro ⟨⟩
    exact command_keeps (Q := fun t => t = { s with pages := t.pages, hampers := t.hampers }) (fun _ => rfl) (fun _ => rfl)
  case reads =>
    refine ⟨?polRead, ?sfRead, ?hamperRead, ?turfRead, ?queueRead, ?nop⟩ <;> rintro ⟨⟩
    case polRead | nop => exact command_registers rfl
    case sfRead => exact filterCmd_registers (fun _ => rfl)
    case hamperRead => exact command_registers (hamperRead_frame ..)
    case turfRead =>
      refine command_registers ?_
      split
      · rfl
      · exact peatData_wr_frame ..
    case queueRead => exact command_registers (peatData_wr_frame ..)
  case interrupts =>
    refine ⟨?event, ?deassert, ?delivery, ?claim, ?complete, ?holdoff, ?clear⟩ <;> rintro ⟨⟩
    case event =>
      split
      · rfl
      · rw [srcEvent_frame]
    case deassert | holdoff => split <;> rfl
    case delivery =>
      split
      · rw [deliver_frame]
      · rfl
    case claim => rw [claimRead_frame]
    case complete => exact completeSource_frame ..
    case clear =>
      exact command_keeps (Q := fun t => t = { s with int := t.int, pages := t.pages, reg := t.reg, out := t.out })
        (fun _ => by rw [emptyStack_frame]) (fun _ => rfl)
  case statistic =>
    rintro ⟨⟩
    rfl
  case smbus =>
    refine ⟨?select, ?record, ?status, ?bootLow, ?bootHigh, ?alarm, ?alert, ?timeout⟩ <;> rintro ⟨⟩
    case select =>
      split
      · rfl
      · rw [smbFetch_frame]
    case alarm | alert => split <;> rfl
    case record | status | bootLow | bootHigh | timeout => rfl
  case tap =>
    refine ⟨?_, ?_, ?_, ?_, ?_⟩ <;> rintro ⟨⟩ <;> rfl
  case engine =>
    refine ⟨?scratch, ?pop⟩ <;> rintro ⟨⟩
    case scratch => rfl
    case pop => split <;> rfl
  case rows =>
    rintro ⟨⟩
    rfl

end Sys2Proof.Machine
end

section
/-! SUPPORT. The order of a two-level arbiter's round (R285, R286): the requests sorted by class, highest first, and within a class upward from its pointer and
round again; and the pointer that a grant moves. -/
namespace Sys2Proof.Machine

section round
variable (a : Arb) (l : List Want)

/-- The requests of one class, by rising number. -/
def classWants (c : Nat) : List Want := (l.filter (fun w => w.cls = c)).mergeSort (fun x y => x.req ≤ y.req)

/-- One class's part of a round: its requests from the pointer upward, then those below it. -/
def classRound (c : Nat) : List Want :=
  (classWants l c).filter (fun w => a.pointer c ≤ w.req) ++ (classWants l c).filter (fun w => w.req < a.pointer c)

theorem order_eq_classRounds : a.order l = (List.range 8).reverse.flatMap (classRound a l) := rfl

theorem classWants_perm (c : Nat) : (classWants l c).Perm (l.filter (fun w => w.cls = c)) := List.mergeSort_perm ..

theorem classWants_sorted (c : Nat) : (classWants l c).Pairwise (fun x y => x.req ≤ y.req) := by
  have hsort := List.pairwise_mergeSort (le := fun x y : Want => x.req ≤ y.req) (fun x y z hxy hyz => by simp only [decide_eq_true_eq] at *; omega)
    (fun x y => by simp only [Bool.or_eq_true, decide_eq_true_eq]; omega) (l.filter (fun w => w.cls = c))
  exact hsort.imp of_decide_eq_true

theorem of_mem_filter_classWants {c : Nat} {x : Want} {p : Want → Prop} [DecidablePred p] (h : x ∈ (classWants l c).filter (fun w => p w)) :
    x.cls = c ∧ p x := by
  obtain ⟨hx, hp⟩ := List.mem_filter.1 h
  exact ⟨of_decide_eq_true (List.mem_filter.1 ((classWants_perm l c).mem_iff.1 hx)).2, of_decide_eq_true hp⟩

/-- The pointer parts a class's requests in two and loses none. -/
theorem classRound_perm (c : Nat) : (classRound a l c).Perm (l.filter (fun w => w.cls = c)) := by
  have hbelow : (fun w : Want => decide (w.req < a.pointer c)) = fun w => !decide (a.pointer c ≤ w.req) := by
    funext w
    rw [← decide_not, decide_eq_decide, Nat.not_le]
  rw [classRound, hbelow]
  exact (List.filter_append_perm ..).trans (classWants_perm l c)

theorem cls_of_mem_classRound {c : Nat} {x : Want} (h : x ∈ classRound a l c) : x.cls = c :=
  of_decide_eq_true (List.mem_filter.1 ((classRound_perm a l c).mem_iff.1 h)).2

/-- The rounds of the classes below `n` hold the requests of these classes. -/
theorem classRounds_perm (n : Nat) : ((List.range n).flatMap (classRound a l)).Perm (l.filter (fun w => w.cls < n)) := by
  induction n with
  | zero => simp
  | succ n ih =>
    have hlow : (l.filter (fun w => w.cls < n + 1)).filter (fun w => w.cls < n) = l.filter (fun w => w.cls < n) := by
      rw [List.filter_filter]
      exact List.filter_congr fun w _ => by simp only [← Bool.decide_and, decide_eq_decide]; omega
    have htop : (l.filter (fun w => w.cls < n + 1)).filter (fun w => !decide (w.cls < n)) = l.filter (fun w => w.cls = n) := by
      rw [List.filter_filter]
      exact List.filter_congr fun w _ => by simp only [← decide_not, ← Bool.decide_and, decide_eq_decide]; omega
    rw [List.range_succ, List.flatMap_append, List.flatMap_singleton]
    refine (ih.append (classRound_perm a l n)).trans ?_
    rw [← hlow, ← htop]
    exact List.filter_append_perm ..

theorem order_perm {a : Arb} {l : List Want} (hcls : ∀ x ∈ l, x.cls < 8) : (a.order l).Perm l := by
  have hall : l.filter (fun w => w.cls < 8) = l := List.filter_eq_self.2 fun w hw => decide_eq_true (hcls w hw)
  rw [order_eq_classRounds]
  calc (List.range 8).reverse.flatMap (classRound a l)
    List.Perm _ ((List.range 8).flatMap (classRound a l)) := (List.reverse_perm _).flatMap_right _
    List.Perm _ (l.filter (fun w => w.cls < 8)) := classRounds_perm a l 8
    _ = l := hall

/-- R285's order of two requests: a higher class first; in one class, those from its pointer upward before those below it, and otherwise by number. -/
def Before (a : Arb) (x y : Want) : Prop :=
  y.cls < x.cls ∨ (x.cls = y.cls
    ∧ ((a.pointer x.cls ≤ x.req ∧ y.req < a.pointer x.cls) ∨ ((a.pointer x.cls ≤ x.req ↔ a.pointer x.cls ≤ y.req) ∧ x.req ≤ y.req)))

theorem classRound_ordered (c : Nat) : (classRound a l c).Pairwise (Before a) := by
  have hsort := classWants_sorted l c
  refine List.pairwise_append.2 ⟨?upper, ?lower, ?across⟩
  case upper =>
    refine (hsort.filter _).imp_of_mem fun hx hy hle => ?_
    obtain ⟨rfl, hxp⟩ := of_mem_filter_classWants l hx
    obtain ⟨hcls, hyp⟩ := of_mem_filter_classWants l hy
    exact .inr ⟨hcls.symm, .inr ⟨iff_of_true hxp hyp, hle⟩⟩
  case lower =>
    refine (hsort.filter _).imp_of_mem fun hx hy hle => ?_
    obtain ⟨rfl, hxp⟩ := of_mem_filter_classWants l hx
    obtain ⟨hcls, hyp⟩ := of_mem_filter_classWants l hy
    exact .inr ⟨hcls.symm, .inr ⟨iff_of_false hxp.not_ge hyp.not_ge, hle⟩⟩
  case across =>
    intro x hx y hy
    obtain ⟨rfl, hxp⟩ := of_mem_filter_classWants l hx
    obtain ⟨hcls, hyp⟩ := of_mem_filter_classWants l hy
    exact .inr ⟨hcls.symm, .inl ⟨hxp, hyp⟩⟩

theorem order_ordered : (a.order l).Pairwise (Before a) := by
  rw [order_eq_classRounds, List.pairwise_flatMap]
  refine ⟨fun c _ => classRound_ordered a l c, ?_⟩
  have hdown : (List.range 8).reverse.Pairwise (fun c d => d < c) := List.pairwise_reverse.2 List.pairwise_lt_range
  refine hdown.imp fun {c d} hlt x hx y hy => .inl ?_
  rw [cls_of_mem_classRound a l hx, cls_of_mem_classRound a l hy]
  exact hlt

end round

/-! ### The pointers -/

/-- The pointers that a list does not hold are 0, so filling it up with zeros moves none. -/
theorem getD_append_zeros (l : List Nat) (n c : Nat) : ((l ++ List.replicate n 0)[c]?).getD 0 = (l[c]?).getD 0 := by
  rcases Nat.lt_or_ge c l.length with hin | hout
  · rw [List.getElem?_append_left hin]
  · rw [List.getElem?_append_right hout, List.getElem?_eq_none hout, List.getElem?_replicate]
    split <;> rfl

theorem pointer_moved_same (a : Arb) {w : Want} (hw : w.cls < 8) : (a.moved w).pointer w.cls = w.req + 1 := by
  rw [Arb.pointer, Arb.moved, List.getElem?_set_self (by simp only [List.length_append, List.length_replicate]; omega), Option.getD_some]

theorem pointer_moved_other (a : Arb) {w : Want} {c : Nat} (hc : c ≠ w.cls) : (a.moved w).pointer c = a.pointer c := by
  rw [Arb.pointer, Arb.moved, List.getElem?_set_ne hc.symm, getD_append_zeros, Arb.pointer]

/-- Settles O49: a round is its classes' rounds one after another, each its sorted requests parted at the pointer. -/
theorem arbitersGrantInOrder : Obligations.ArbitersGrantInOrder := fun a l hcls =>
  ⟨order_perm hcls, order_ordered a l, fun x hx => ⟨pointer_moved_same a (hcls x hx), fun _ hc => pointer_moved_other a hc⟩⟩

end Sys2Proof.Machine
end

section
/-! SUPPORT. What a policer's buckets hold (R296): filling and metering keep them within their sizes, and the committed bucket pays for every green byte. -/
namespace Sys2Proof.Machine

/-! ### A token bucket -/

/-- What a bucket holds, in the finest units, of which `one` make a token. -/
def bucketWorth (one : Nat) (b : Nat × Nat) : Nat := b.1 * one + b.2

/-- A bucket gains no more than what runs in; a full one loses the excess. -/
theorem fillBucket_worth_le (one size flow : Nat) (b : Nat × Nat) : bucketWorth one (fillBucket one size b flow) ≤ bucketWorth one b + flow := by
  have hdiv : (b.2 + flow) / one * one + (b.2 + flow) % one = b.2 + flow := Nat.div_add_mod' ..
  have htotal : (b.1 + (b.2 + flow) / one) * one + (b.2 + flow) % one = bucketWorth one b + flow := by
    rw [Nat.add_mul, Nat.add_assoc, hdiv, bucketWorth, Nat.add_assoc]
  rw [← htotal]
  unfold fillBucket
  dsimp only
  split
  · next hfull => exact (Nat.mul_le_mul_right one hfull).trans (Nat.le_add_right ..)
  · exact Nat.le_refl _

theorem fillBucket_le_size (one size flow : Nat) (b : Nat × Nat) : (fillBucket one size b flow).1 ≤ size := by
  unfold fillBucket
  dsimp only
  split
  · exact Nat.le_refl _
  · next hroom => exact (Nat.lt_of_not_le hroom).le

/-! ### Filling and metering -/

/-- What the committed bucket holds, in the units in which `tokU` make one of 1/1,024 B. -/
def Policer.worth (x : Policer) : Nat := bucketWorth tokU (x.tc, x.rc)

/-- Both buckets are within their sizes. -/
def Policer.Within (x : Policer) : Prop := x.tc ≤ x.cbs * 1024 ∧ x.tp ≤ x.pbs * 1024

/-- Two policers of the same mode, rates and sizes. -/
structure Policer.Alike (y x : Policer) : Prop where
  cir : y.cir = x.cir
  pir : y.pir = x.pir
  cbs : y.cbs = x.cbs
  pbs : y.pbs = x.pbs
  mode : y.mode = x.mode

section meter
variable {x : Policer}

theorem fill_worth_le (x : Policer) (now : Nat) : (x.fill now).worth ≤ x.worth + (now - x.at_) * x.cir := fillBucket_worth_le ..

theorem fill_at (x : Policer) (now : Nat) : (x.fill now).at_ = now := rfl

theorem fill_within (x : Policer) (now : Nat) : (x.fill now).Within := ⟨fillBucket_le_size .., fillBucket_le_size ..⟩

theorem fill_alike (x : Policer) (now : Nat) : (x.fill now).Alike x := ⟨rfl, rfl, rfl, rfl, rfl⟩

/-- One rate: the committed bucket pays for a frame, or the frame is red (R296). -/
theorem meter_oneRate (hmode : x.mode = 1) (len : Nat) :
    x.meter len = if x.tc < len * 1024 then (.red, 0, x) else (.green, 1, { x with tc := x.tc - len * 1024 }) := by
  simp only [Policer.meter, hmode]

/-- Two rates: the peak bucket pays for a frame that is not red, and the committed one as well for a green frame (R296). -/
theorem meter_twoRates (hmode : x.mode = 2) (len : Nat) :
    x.meter len = if x.tp < len * 1024 then (.red, 0, x)
      else if x.tc < len * 1024 then (.yellow, 2, { x with tp := x.tp - len * 1024 })
      else (.green, 3, { x with tp := x.tp - len * 1024, tc := x.tc - len * 1024 }) := by
  simp only [Policer.meter, hmode]

/-- A policer that meters takes tokens from its buckets and changes no more; a frame coloured green is paid from the committed one. -/
theorem meter_takes (hmode : x.mode = 1 ∨ x.mode = 2) (len : Nat) : ∃ tc tp, (x.meter len).2.2 = { x with tc := tc, tp := tp } ∧ tc ≤ x.tc ∧ tp ≤ x.tp
    ∧ ((x.meter len).1 = .green → tc + len * 1024 ≤ x.tc) := by
  rcases hmode with hmode | hmode
  · rw [meter_oneRate hmode]
    split
    · exact ⟨x.tc, x.tp, rfl, le_rfl, le_rfl, nofun⟩
    · next hpaid => exact ⟨_, _, rfl, Nat.sub_le .., le_rfl, fun _ => (Nat.sub_add_cancel (Nat.le_of_not_lt hpaid)).le⟩
  · rw [meter_twoRates hmode]
    split
    · exact ⟨x.tc, x.tp, rfl, le_rfl, le_rfl, nofun⟩
    split
    · exact ⟨_, _, rfl, le_rfl, Nat.sub_le .., nofun⟩
    · next hpaid => exact ⟨_, _, rfl, Nat.sub_le .., Nat.sub_le .., fun _ => (Nat.sub_add_cancel (Nat.le_of_not_lt hpaid)).le⟩

end meter

/-! ### A run of arrivals -/

/-- An arrival at `a.1` of a frame of `a.2` bytes, with the bytes coloured green so far. -/
def police (z : Policer × Nat) (a : Nat × Nat) : Policer × Nat :=
  let r := (z.1.fill a.1).meter a.2
  (r.2.2, if r.1 = .green then z.2 + a.2 else z.2)

theorem police_green (z : Policer × Nat) (a : Nat × Nat) :
    (police z a).2 = if ((z.1.fill a.1).meter a.2).1 = .green then z.2 + a.2 else z.2 := rfl

/-- An arrival fills the buckets and takes tokens from them, at least the green bytes' worth from the committed one. -/
theorem police_takes {z : Policer × Nat} (hmode : z.1.mode = 1 ∨ z.1.mode = 2) (a : Nat × Nat) : ∃ tc tp,
    (police z a).1 = { z.1.fill a.1 with tc := tc, tp := tp } ∧ tc ≤ (z.1.fill a.1).tc ∧ tp ≤ (z.1.fill a.1).tp
    ∧ (police z a).2 * 1024 + tc ≤ z.2 * 1024 + (z.1.fill a.1).tc := by
  obtain ⟨tc, tp, hmeter, htc, htp, hgreen⟩ := meter_takes (x := z.1.fill a.1) hmode a.2
  refine ⟨tc, tp, hmeter, htc, htp, ?_⟩
  rw [police_green]
  split
  · next hg => have := hgreen hg; omega
  · omega

theorem police_at {z : Policer × Nat} (hmode : z.1.mode = 1 ∨ z.1.mode = 2) (a : Nat × Nat) : (police z a).1.at_ = a.1 := by
  obtain ⟨tc, tp, hnext, -⟩ := police_takes hmode a
  rw [hnext, fill_at]

/-- What holds of a policer that started as `x`, and of the bytes it has coloured green since: the committed bucket's start and fill paid for them. -/
structure PolicedFrom (x : Policer) (z : Policer × Nat) : Prop where
  alike : z.1.Alike x
  within : z.1.Within
  since : x.at_ ≤ z.1.at_
  paid : z.2 * 1024 * tokU + z.1.worth ≤ x.worth + (z.1.at_ - x.at_) * x.cir

theorem policedFrom_start {x : Policer} (hx : x.Within) : PolicedFrom x (x, 0) where
  alike := ⟨rfl, rfl, rfl, rfl, rfl⟩
  within := hx
  since := le_rfl
  paid := by simp

theorem police_keeps {x : Policer} {z : Policer × Nat} {a : Nat × Nat} (hmode : x.mode = 1 ∨ x.mode = 2) (h : PolicedFrom x z) (hat : z.1.at_ ≤ a.1) :
    PolicedFrom x (police z a) := by
  obtain ⟨⟨hcir, hpir, hcbs, hpbs, hsame⟩, -, hsince, hpaid⟩ := h
  obtain ⟨tc, tp, hnext, htc, htp, hspent⟩ := police_takes (hsame ▸ hmode) a
  obtain ⟨hroomC, hroomP⟩ := fill_within z.1 a.1
  constructor <;> rw [hnext]
  case alike => exact ⟨hcir, hpir, hcbs, hpbs, hsame⟩
  case within => exact ⟨htc.trans hroomC, htp.trans hroomP⟩
  case since => exact hsince.trans hat
  case paid =>
    have hfill := fill_worth_le z.1 a.1
    have htime : (a.1 - x.at_) * x.cir = (a.1 - z.1.at_) * z.1.cir + (z.1.at_ - x.at_) * x.cir := by
      rw [hcir, ← Nat.add_mul, Nat.sub_add_sub_cancel hat hsince]
    have htokens := Nat.mul_le_mul_right tokU hspent
    simp only [Policer.worth, bucketWorth, fill_at] at hfill hpaid ⊢
    linarith

theorem foldl_police {x : Policer} (hmode : x.mode = 1 ∨ x.mode = 2) (l : List (Nat × Nat)) {z : Policer × Nat} (h : PolicedFrom x z)
    (hsorted : (l.map (·.1)).Pairwise (· ≤ ·)) (hat : ∀ a ∈ l, z.1.at_ ≤ a.1) : PolicedFrom x (l.foldl police z) := by
  induction l generalizing z with
  | nil => exact h
  | cons a l ih =>
    obtain ⟨hfirst, hrest⟩ := List.pairwise_cons.1 hsorted
    have hnext : (police z a).1.at_ = a.1 := police_at (h.alike.mode ▸ hmode) a
    exact ih (police_keeps hmode h (hat a List.mem_cons_self)) hrest fun b hb => hnext ▸ hfirst b.1 (List.mem_map_of_mem hb)

/-- Settles O54, by induction on the arrivals: what the committed bucket holds and what it paid for green bytes grow together by its fill alone. -/
theorem policersBoundGreenTraffic : Obligations.PolicersBoundGreenTraffic := by
  intro x l y green hmode hc hp hsorted hat hrun
  have hfrom : PolicedFrom x (y, green) := hrun ▸ foldl_police hmode l (policedFrom_start ⟨hc, hp⟩) hsorted hat
  obtain ⟨⟨hcir, hpir, hcbs, hpbs, hsame⟩, ⟨htc, htp⟩, -, hpaid⟩ := hfrom
  exact ⟨(Nat.le_add_right ..).trans hpaid, hcbs ▸ htc, hpbs ▸ htp, hcir, hpir, hcbs, hpbs, hsame⟩

end Sys2Proof.Machine
end

section
/-! SUPPORT. Scheduling, shapers and gates (R282 to R345): an arbiter's round by the arbiter's number, a transmission's start and end by what the port holds,
and the gate list of a port. -/
namespace Sys2Proof.Machine

/-! ### Rounds and starvation (R286, R288) -/

section rounds
variable {a : Nat} (reqs : List Nat) (err : Nat) (s : State)

theorem execArbitrationRound_port (ha : a < 48) : execArbitrationRound a reqs err s = .next (portRound a (countRound a s)) := by
  simp [execArbitrationRound, arbRound, ha, show ¬ 80 ≤ a by omega]

theorem execArbitrationRound_pool (hlo : 80 ≤ a) (hhi : a < 84) (herr : err ≠ 3) :
    execArbitrationRound a reqs err s = .next (poolRound a reqs err (countRound a s)) := by
  simp [execArbitrationRound, arbRound, hlo, hhi, herr, show ¬ a < 48 by omega]

/-- An uncorrectable error outside a single entry fences the region (R477). -/
theorem execArbitrationRound_fences (hlo : 80 ≤ a) (hhi : a < 84) (hst : stateIn s (pBUF (a - 80)) [.ready, .run] = true) :
    execArbitrationRound a reqs 3 s = .next (regionFence (pBUF (a - 80)) (a - 80) s) := by
  simp [execArbitrationRound, hlo, hhi, hst]

theorem execArbitrationRound_link (hlo : 64 ≤ a) (hhi : a < 72) :
    execArbitrationRound a reqs err s = .next (linkRound a reqs (countRound a s)) := by
  simp [execArbitrationRound, arbRound, hlo, hhi, show ¬ a < 48 by omega, show ¬ 80 ≤ a by omega]

end rounds

theorem starved_queue {p k : Nat} {s : State} (hp : p < 48) (hq : s.qPort k = p)
    (hwait : s.rd (pQSC (portRegion p)) F.QSC_STARVE_CFG_STARVE_ROUNDS ≤ s.rd (wQUEUE k) F.Q_STARVE_WAIT_ROUNDS) :
    starved p k s = srcEvent (regSource (portRegion p) 5) (((s.setF (wQUEUE k) F.Q_STARVE_STARVED).setF (pQSC (portRegion p))
      F.QSC_STARVE_STAT_ANY).wr (pQSC (portRegion p)) F.QSC_STARVE_STAT_LAST_QUEUE k) := by
  simp [starved, hp, hq, hwait]

theorem starved_link {a k : Nat} {s : State} (hlo : 64 ≤ a) (hhi : a < 72) (hk : k < 2)
    (hwait : s.rd pXBAR F.XBAR_STARVE_STARVE_ROUNDS ≤ (s.arb a).waits.get 0 k) :
    starved a k s = s.wr pXBAR F.XBAR_STARVE_FLAGS (setBit (s.rd pXBAR F.XBAR_STARVE_FLAGS) (2 * (a - 64) + k)) := by
  simp [starved, hlo, hhi, hk, hwait, show ¬ a < 48 by omega]

/-! ### Transmissions (R321 to R325) -/

section transmissions
variable {p : Nat} {s : State}

section starts
variable {g : Want} (hidle : (s.port p).cur = none) (hgrant : (s.port p).arb.granted = some g) (hst : standing s p g = true)
  (hfit : startFits s p g.req g.queue = true) (err : Nat)
include hidle hgrant hst hfit

theorem transmitStart_copy {c : Copy} {l : List Copy} (hq : g.queue ≠ 65536) (hfront : (s.queue g.queue).front = c :: l) :
    transmitStart p err s = startCopy p g.queue err c (movePointers p g s) := by
  simp [transmitStart, hidle, hgrant, hst, hfit, hq, hfront]

theorem transmitStart_remainder {t : Tx} (hq : g.queue = 65536) (hheld : (s.port p).held = some t) :
    transmitStart p err s = resume p t (movePointers p g s) := by
  have hpass : (standing s p g && startFits s p g.req g.queue) = true := by rw [hst, hfit, Bool.and_self]
  simp only [transmitStart, hidle, hgrant, hpass, Bool.not_true, Bool.false_eq_true, if_false, if_pos hq, hheld]

end starts

theorem transmitEnd_frame {t : Tx} (hcur : (s.port p).cur = some t) (hend : endPoint s p t = some none) : transmitEnd p s = endFrame p t s := by
  simp only [transmitEnd, hcur, hend]

theorem transmitEnd_fragment {t : Tx} {n : Nat} (hcur : (s.port p).cur = some t) (hend : endPoint s p t = some (some n)) :
    transmitEnd p s = endFragment p n t s := by
  simp only [transmitEnd, hcur, hend]

/-! ### Gates (R310 to R328) -/

/-- The port as a change of its gates finds it, shapers and timeline brought up to the present. -/
def gatesReached (p : Nat) (s : State) : State := syncGate p (refreshPort p s)

theorem gateChange_idle (hp : p < 48) (hcur : ((gatesReached p s).port p).cur = none) : gateChange p s = gatesReached p s := by
  simp only [gatesReached] at *
  simp only [gateChange, if_neg hp.not_ge, hcur, Option.any_none, Bool.false_eq_true, if_false]

section planned
variable {x : Tx} (hp : p < 48) (hcur : ((gatesReached p s).port p).cur = some x) (hcut : x.cutAt ≠ none)
include hp hcur hcut

/-- A transmission whose cut is planned already is not planned anew. -/
theorem gateChange_open (hopen : gateOpen (gatesReached p s) p x.cls = true) : gateChange p s = gatesReached p s := by
  have hplan : x.cutAt.isNone = false := Option.isNone_eq_false_iff.2 (Option.isSome_iff_ne_none.2 hcut)
  simp only [gatesReached] at *
  simp only [gateChange, if_neg hp.not_ge, hcur, Option.any_some, hplan, hopen, Bool.false_eq_true, if_false, if_true]

/-- Once its gate has closed, a transmission ends as a fragment where it may (R322). -/
theorem gateChange_cuts {n : Nat} (hclosed : gateOpen (gatesReached p s) p x.cls = false) (hend : endPoint (gatesReached p s) p x = some (some n)) :
    gateChange p s = endFragment p n x (gatesReached p s) := by
  have hplan : x.cutAt.isNone = false := Option.isNone_eq_false_iff.2 (Option.isSome_iff_ne_none.2 hcut)
  simp only [gatesReached] at *
  simp only [gateChange, if_neg hp.not_ge, hcur, Option.any_some, hplan, hclosed, hend, Bool.false_eq_true, if_false]

end planned

end transmissions

theorem execGateTakeover_due {p at_ : Nat} {s : State} (hset : (s.gate p).takeover = some (some at_)) (hdue : at_ ≤ s.sNow) :
    execGateTakeover p s = .next (takeover p at_ s) := by
  simp only [execGateTakeover, hset, if_pos hdue]

theorem gateListWrite_done {p b k ag v : Nat} {s : State} (h : gateListCode s p b ag v = rDONE) : gateListWrite p b k ag v s
    = windowResult (pPORT (portRegion p)) ag (0x880000 + 0x800 * p + 0x400 * b + 4 * k) rDONE (gateStore p b k v s) := by
  rw [gateListWrite, h, if_pos rfl]

/-! ### Shapers (R292, R293) -/

theorem refreshShaper_idle {j : Nat} {s : State} (h : shaperBusy s j = false) : refreshShaper j s = storeCredit j s := by
  rw [refreshShaper, h, if_neg Bool.false_ne_true]

theorem refreshShaper_busy {j : Nat} {s : State} (h : shaperBusy s j = true) : refreshShaper j s = showCredit j s := if_pos h

/-- Settles O31: a round by its arbiter's number, a transmission by what its port holds, a shaper by whether a queue of it transmits, writes by their acceptance. -/
theorem schedulingCommandsComplete : Obligations.SchedulingCommandsComplete := by
  intro p r j a k ag v w s
  refine ⟨?rounds, ?starvedQueue, ?starvedLink, ?start, ?frameEnd, ?fragmentEnd, ?shaperIdle, ?shaperBusy, ?shaperSelect, ?gates, ?takeover, ?gateList⟩
  case rounds =>
    exact fun reqs err => ⟨execArbitrationRound_port reqs err s, execArbitrationRound_pool reqs err s, execArbitrationRound_fences reqs s,
      execArbitrationRound_link reqs err s⟩
  case starvedQueue => exact fun hq hp hwait => congrArg Host.Outcome.next (starved_queue hp hq hwait)
  case starvedLink => exact fun hlo hhi hk hwait => congrArg Host.Outcome.next (starved_link hlo hhi hk hwait)
  case start =>
    exact fun g hidle hgrant hst hfit err =>
      ⟨fun c l hq hfront => congrArg Host.Outcome.next (transmitStart_copy hidle hgrant hst hfit err hq hfront),
        fun t hq hheld => congrArg Host.Outcome.next (transmitStart_remainder hidle hgrant hst hfit err hq hheld)⟩
  case frameEnd => exact fun t hcur hend => congrArg Host.Outcome.next (transmitEnd_frame hcur hend)
  case fragmentEnd => exact fun t n hcur hend => congrArg Host.Outcome.next (transmitEnd_fragment hcur hend)
  case shaperIdle => exact fun h => congrArg Host.Outcome.next (refreshShaper_idle h)
  case shaperBusy => exact fun h => congrArg Host.Outcome.next (refreshShaper_busy h)
  case shaperSelect => exact fun hp h => congrArg Host.Outcome.next (regWrite_done hp h)
  case gates =>
    rintro hp _ rfl
    exact ⟨fun hcur => congrArg Host.Outcome.next (gateChange_idle hp hcur),
      fun x hcur hcut hopen => congrArg Host.Outcome.next (gateChange_open hp hcur hcut hopen),
      fun x n hcur hcut hclosed hend => congrArg Host.Outcome.next (gateChange_cuts hp hcur hcut hclosed hend)⟩
  case takeover => exact fun at_ hset hdue => execGateTakeover_due hset hdue
  case gateList => exact fun b h => congrArg Host.Outcome.next (gateListWrite_done h)

end Sys2Proof.Machine
end

section
/-! SUPPORT. Gates of a schedule that does not run (R313, R321, R326): such a list shows every class open, never closes one and bounds no window, and a port
it operates holds nothing back unless a committed list takes over. -/
namespace Sys2Proof.Machine

/-! ### A list that does not run -/

section lists
variable {l : GateList} (hoff : l.en = false)
include hoff

theorem GateList.states_of_off (t : Nat) : l.states t = 0xFF := by
  rw [GateList.states, hoff, if_neg Bool.false_ne_true]

theorem GateList.closes_of_off (c t : Nat) : l.closes c t = none := by
  rw [GateList.closes, hoff, Bool.not_false, if_pos rfl]

theorem maxWindow_of_off (c : Nat) : maxWindow l c = 0x3FFFFFFF := by
  rw [maxWindow, hoff, Bool.not_false, if_pos rfl]

end lists

/-! ### A port without a takeover to come follows its operating list alone (R319) -/

section ports
variable {s : State} {p : Nat}

theorem gateOpenBy_no_takeover (hnone : s.takeoverAt p = none) (c t : Nat) : gateOpenBy s p c t = gateOpenAt s p c t := by
  rw [gateOpenBy, hnone]

theorem gateCloses_no_takeover (hnone : s.takeoverAt p = none) (c t : Nat) : gateCloses s p c t = (operList s p).closes c t := by
  simp only [gateCloses, hnone]

/-- An open gate that never closes lets a frame of any length start (R321). -/
theorem mayStart_of_never_closes {c t : Nat} (hopen : gateOpenBy s p c t = true) (hnever : gateCloses s p c t = none) (len : Nat) :
    mayStart s p c t len = true := by
  simp only [mayStart, hopen, hnever, Bool.and_self]

/-- The states of a list that does not run have the bit of each of the eight classes set (R313). -/
theorem gateOpenAt_of_off {c : Nat} (hp : p < 48) (hc : c < 8) (hoff : (operList s p).en = false) (t : Nat) : gateOpenAt s p c t = true := by
  have hbit : Nat.testBit 0xFF c = true := (Nat.testBit_two_pow_sub_one 8 c).trans (decide_eq_true hc)
  rw [gateOpenAt, GateList.states_of_off hoff, hbit, decide_eq_true hp, Bool.and_self]

end ports

/-- Settles O58: GATE_EN 0 stops the operating list, and without a takeover to come a start is tested against that list alone. -/
theorem gatesOffAreOpen : Obligations.GatesOffAreOpen := by
  intro s p c t hp hc hen
  have hoff : (operList s p).en = false := hen
  refine ⟨gateOpenAt_of_off hp hc hoff t, GateList.closes_of_off hoff c t, maxWindow_of_off hoff c, ?starts⟩
  case starts =>
    intro hnone at_ len
    have hopen : gateOpenBy s p c at_ = true := (gateOpenBy_no_takeover hnone c at_).trans (gateOpenAt_of_off hp hc hoff at_)
    have hnever : gateCloses s p c at_ = none := (gateCloses_no_takeover hnone c at_).trans (GateList.closes_of_off hoff c at_)
    exact mayStart_of_never_closes hopen hnever len

end Sys2Proof.Machine
end

section
/-! SUPPORT. The interrupt controller (R523 to R547): the stacks under every step of the controller, events, the choice of the next source, claims, and the
controller's commands. -/
namespace Sys2Proof.Machine

/-! ### The running priority (R526) -/

theorem running_of_empty {s : State} {t : Nat} (h : s.stack t = []) : running s t = 0 := by
  rw [running, h]

theorem running_of_top {s : State} {t : Nat} {e : StkEntry} {l : List StkEntry} (h : s.stack t = e :: l) : running s t = e.prio + 1 := by
  rw [running, h]

theorem stackFalls_cons (e e' : StkEntry) (l : List StkEntry) :
    stackFalls (e :: e' :: l) = true ↔ e'.prio < e.prio ∧ stackFalls (e' :: l) = true := by
  rw [stackFalls, Bool.and_eq_true, decide_eq_true_eq]

/-- An entry above the running priority goes on top of a stack that falls. -/
theorem stackFalls_push {s : State} {t : Nat} {e : StkEntry} (hs : stackFalls (s.stack t) = true) (h : running s t < e.prio + 1) :
    stackFalls (e :: s.stack t) = true := by
  cases hl : s.stack t with
  | nil => rfl
  | cons top rest =>
    rw [hl] at hs
    rw [running_of_top hl] at h
    exact (stackFalls_cons ..).2 ⟨by omega, hs⟩

theorem stackFalls_pop {e : StkEntry} {l : List StkEntry} (h : stackFalls (e :: l) = true) : stackFalls l = true := by
  cases l with
  | nil => rfl
  | cons e' l => exact ((stackFalls_cons ..).1 h).2

/-! ### What each operation leaves of the stacks -/

theorem prioStacks_deliver (t n : Nat) (s : State) :
    (deliver t n s).int.prioStacks = (setStack t (⟨n, s.rd (wISRC n) F.SRC_PRIO⟩ :: s.stack t) s).int.prioStacks := by
  unfold deliver
  dsimp only
  split <;> split <;> rfl

theorem stack_deliver (t n : Nat) (s : State) : (deliver t n s).stack t = ⟨n, s.rd (wISRC n) F.SRC_PRIO⟩ :: s.stack t := by
  rw [State.stack, prioStacks_deliver]
  exact SMap.get_put_same ..

theorem prioStacks_srcEvent (n : Nat) (s : State) : (srcEvent n s).int.prioStacks = s.int.prioStacks := by
  rw [srcEvent_frame]

theorem prioStacks_claimRead (t ag : Nat) (w : View) (s : State) : (claimRead t ag w s).int.prioStacks = s.int.prioStacks := by
  unfold claimRead
  split
  · dsimp only
    split <;> rfl
  · rfl

theorem prioStacks_stackFault (t n : Nat) (s : State) : (stackFault t n s).int.prioStacks = s.int.prioStacks := by
  unfold stackFault
  dsimp only
  split
  · rfl
  · split
    · rw [faultSync_stacks]
      rfl
    · rfl

/-- A completion pops the top entry of its target's stack, or leaves every stack as it is. -/
theorem prioStacks_completeSource (t ag : Nat) (w : View) (v : Nat) (s : State) :
    (completeSource t ag w v s).int.prioStacks = s.int.prioStacks
      ∨ ∃ e l, s.stack t = e :: l ∧ (completeSource t ag w v s).int.prioStacks = (setStack t l s).int.prioStacks := by
  unfold completeSource
  dsimp only
  split
  · exact .inl rfl
  split
  · exact .inl rfl
  split
  · next e l hl =>
    split
    · exact .inr ⟨e, l, hl, rfl⟩
    · exact .inl (prioStacks_stackFault ..)
  · exact .inl (prioStacks_stackFault ..)

theorem prioStacks_porst (s : State) : (porst s).int.prioStacks = ⟨[]⟩ := rfl

/-! ### Every step of the controller keeps R526 -/

theorem stacksOk_deliver {s : State} {t n : Nat} (h : nextSource s t = some n) (hs : s.stacksOk) : (deliver t n s).stacksOk :=
  stacksOk_of_eq (prioStacks_deliver t n s) (stacksOk_setStack (stackFalls_push (hs t) (running_le_of_nextSource h)) hs)

theorem stacksOk_completeSource {s : State} {t ag v : Nat} {w : View} (hs : s.stacksOk) : (completeSource t ag w v s).stacksOk := by
  obtain h | ⟨e, l, hl, h⟩ := prioStacks_completeSource t ag w v s
  · exact stacksOk_of_eq h hs
  · have hfalls : stackFalls (e :: l) = true := hl ▸ hs t
    exact stacksOk_of_eq h (stacksOk_setStack (stackFalls_pop hfalls) hs)

/-- A command through its body and its header keeps the stacks' rule where its body does. -/
theorem stacksOk_command {s : State} {p ag op : Nat} {r st : Bool} {body : State → State × Nat} (hs : s.stacksOk) (hb : (body s).1.stacksOk) :
    (command p ag op r st body s).stacksOk := by
  unfold command
  dsimp only
  split
  · exact hb
  · exact hs

/-- The steps of the interrupt controller, and the loss of power. -/
theorem stacksOk_exec {s u : State} {t n ag v : Nat} {w : View} {i : Instr} (hs : s.stacksOk)
    (hi : i = .interruptDelivery t ∨ i = .interruptEvent n ∨ i = .levelDeassert n ∨ i = .intClaimRead t ag w ∨ i = .intComplete t ag w v
      ∨ i = .holdoffExpiry n ∨ i = .stackClear pINT ag t ∨ i = .porstNAssert) (h : exec i s = .next u) : u.stacksOk := by
  obtain rfl | rfl | rfl | rfl | rfl | rfl | rfl | rfl := hi <;> cases h
  · split
    · next m hm => exact stacksOk_deliver hm hs
    · exact hs
  · split
    · exact hs
    · exact stacksOk_of_eq (prioStacks_srcEvent ..) hs
  · split <;> exact hs
  · exact stacksOk_of_eq (prioStacks_claimRead ..) hs
  · exact stacksOk_completeSource hs
  · split <;> exact hs
  · exact stacksOk_command hs (stacksOk_emptyStack _ hs)
  · intro t
    rw [State.stack, prioStacks_porst]
    rfl

/-- Settles O44: a delivery pushes above the running priority, a completion pops, STACK_CLEAR and PORST_N empty, and no other step of the controller
touches a stack. -/
theorem priorityStacksRiseStrictly : Obligations.PriorityStacksRiseStrictly := by
  intro s t n ag v w
  refine ⟨fun h => ⟨stack_deliver t n s, running_le_of_nextSource h⟩, running_of_empty, fun _ _ => running_of_top, ?steps, ?length⟩
  case steps =>
    intro hs i rest u hp hi hstep
    rw [step, hp] at hstep
    have hrest : State.stacksOk { s with pending := rest } := hs
    exact stacksOk_exec hrest hi hstep
  case length => exact fun hs hprio => stackFalls_length _ 15 (hs t) hprio

/-- Settles O4: in reset no byte of a memory and no stack is listed. -/
theorem resetMeetsTheInvariants : Obligations.ResetMeetsTheInvariants := ⟨rfl, fun _ => rfl⟩

/-! ### Events (R527, R531) -/

/-- An event on an enabled, connected source is counted, up to 255, and sets PENDING. -/
theorem srcEvent_enabled {s : State} {n : Nat} (hen : s.rdB (wISRC n) F.SRC_EN = true) (hc : srcConnected n = true)
    (hr : s.inState pINT .reset = false) :
    srcEvent n s = s.updSrc n (fun x => { x with count := min 255 (x.count + 1), pending := true }) := by
  simp only [srcEvent, hen, hc, hr, Bool.not_false, Bool.and_self, if_true, satAdd]

theorem srcEvent_disabled {s : State} {n : Nat} (h : s.rdB (wISRC n) F.SRC_EN = false) : srcEvent n s = s := by
  simp [srcEvent, h]

theorem src_updSrc_same (s : State) (n : Nat) (f : Src → Src) : (s.updSrc n f).src n = f (s.src n) := by
  rw [src_updSrc, if_pos rfl]

theorem src_updSrc_other (s : State) {n m : Nat} (f : Src → Src) (h : m ≠ n) : (s.updSrc n f).src m = s.src m := by
  rw [src_updSrc, if_neg h]

theorem execLevelDeassert_fallen {s : State} {n : Nat} (hl : (s.src n).line = true) (ho : lineOf s n = false) :
    execLevelDeassert n s = .next (srcFall n s) := by
  simp [execLevelDeassert, hl, ho]

/-- The fall of a source that pends and is not active takes its PENDING and keeps its COUNT. -/
theorem src_srcFall_pending {s : State} {n : Nat} (hp : (s.src n).pending = true) (ha : (s.src n).active = false) :
    (srcFall n s).src n = { s.src n with line := false, pending := false } := by
  simp [srcFall, src_updSrc_same, hp, ha]

/-- A masked source is not the next of any target. -/
theorem nextSource_ne_of_masked {s : State} {t n : Nat} (h : s.rdB (wISRC n) F.SRC_MASK = true) : nextSource s t ≠ some n := by
  intro hn
  obtain ⟨-, hw⟩ := nextSource_spec hn
  simp [wouldDeliver, h] at hw

/-- Settles O45: an event by whether its source is enabled, a fall by what its source holds. -/
theorem eventsSetPending : Obligations.EventsSetPending := by
  intro s n t
  refine ⟨srcEvent_disabled, ?counts, nextSource_ne_of_masked, ?falls⟩
  case counts =>
    intro hen hc hr
    rw [srcEvent_enabled hen hc hr, src_updSrc_same]
    exact ⟨rfl, rfl, rfl, rfl, rfl, fun m hm => src_updSrc_other s _ hm, rfl⟩
  case falls =>
    intro hl ho hp ha
    refine ⟨_, execLevelDeassert_fallen hl ho, ?_, ?_⟩ <;> rw [src_srcFall_pending hp ha]

/-! ### The next source (R528) -/

theorem wouldDeliver_iff (s : State) (t n : Nat) :
    wouldDeliver s t n = true ↔ s.rdB (wISRC n) F.SRC_EN = true ∧ s.rdB (wISRC n) F.SRC_MASK = false ∧ (s.src n).pending = true
      ∧ (s.src n).active = false ∧ s.rd (wISRC n) F.SRC_TARGET = t ∧ running s t < s.rd (wISRC n) F.SRC_PRIO + 1
      ∧ (∀ e, s.int.holdEnd.find? (n / 32) = some e → e ≤ s.now)
      ∧ s.rdB pINT F.INT_GLOBAL_HOLD_HOLD = false ∧ s.inState pINT .run = true := by
  rw [← heldOff_iff]
  simp only [wouldDeliver, Bool.and_eq_true, Bool.not_eq_true', decide_eq_true_eq, Nat.lt_succ_iff]
  constructor
  · rintro ⟨⟨⟨⟨⟨⟨⟨⟨hen, htarget⟩, hmask⟩, hpending⟩, hactive⟩, hprio⟩, hheld⟩, hhold⟩, hrun⟩
    exact ⟨hen, hmask, hpending, hactive, htarget, hprio, hheld, hhold, hrun⟩
  · rintro ⟨hen, hmask, hpending, hactive, htarget, hprio, hheld, hhold, hrun⟩
    exact ⟨⟨⟨⟨⟨⟨⟨⟨hen, htarget⟩, hmask⟩, hpending⟩, hactive⟩, hprio⟩, hheld⟩, hhold⟩, hrun⟩

/-- A source is deliverable to a target: but for the target's mask, and the target is not masked. -/
def Deliverable (s : State) (t n : Nat) : Prop := targetMasked s t = false ∧ wouldDeliver s t n = true

/-- The deliverable sources of an unmasked target, in the order they are listed in. -/
def eligible (s : State) (t : Nat) : List Nat := s.int.src.keys.filter (wouldDeliver s t)

theorem mem_eligible {s : State} {t n : Nat} : n ∈ eligible s t ↔ wouldDeliver s t n = true := by
  rw [eligible, List.mem_filter, and_iff_right_iff_imp]
  intro h
  obtain ⟨-, -, hp, -⟩ := (wouldDeliver_iff s t n).1 h
  exact pending_listed hp

theorem nextSource_masked {s : State} {t : Nat} (h : targetMasked s t = true) : nextSource s t = none := if_pos h

theorem nextSource_unmasked {s : State} {t : Nat} (h : targetMasked s t = false) :
    nextSource s t = (eligible s t).foldl (betterSource s) none := if_neg (by simp [h])

theorem beats_antisymm {s : State} {n m : Nat} (h : Beats s n m) (h' : Beats s m n) : n = m := by
  unfold Beats at h h'
  omega

/-- The next source is deliverable and goes before every deliverable one. -/
theorem nextSource_some_iff (s : State) (t n : Nat) :
    nextSource s t = some n ↔ Deliverable s t n ∧ ∀ m, Deliverable s t m → Beats s n m := by
  cases hm : targetMasked s t with
  | true => simp [nextSource_masked hm, Deliverable, hm]
  | false =>
    have hfold := betterSource_fold s (eligible s t) none
    rw [nextSource_unmasked hm]
    simp only [Deliverable, hm, true_and, ← mem_eligible]
    generalize (eligible s t).foldl (betterSource s) none = best at hfold
    cases best with
    | none => simp [hfold.2]
    | some k =>
      obtain ⟨hk, hbest, -⟩ := hfold
      replace hk : k ∈ eligible s t := hk.resolve_right (by simp)
      constructor
      · rintro ⟨⟩
        exact ⟨hk, hbest⟩
      · rintro ⟨hn, hbeats⟩
        rw [beats_antisymm (hbest n hn) (hbeats k hk)]

theorem nextSource_none_iff (s : State) (t : Nat) : nextSource s t = none ↔ ∀ m, ¬ Deliverable s t m := by
  cases hm : targetMasked s t with
  | true => simp [nextSource_masked hm, Deliverable, hm]
  | false =>
    have hfold := betterSource_fold s (eligible s t) none
    rw [nextSource_unmasked hm]
    simp only [Deliverable, hm, true_and, ← mem_eligible]
    generalize (eligible s t).foldl (betterSource s) none = best at hfold
    cases best with
    | none => simp [hfold.2]
    | some k =>
      obtain ⟨hk, -⟩ := hfold
      replace hk : k ∈ eligible s t := hk.resolve_right (by simp)
      simpa using ⟨k, hk⟩

/-- Settles O46: the statement's ready sources are the deliverable ones, and the selection answers the best of those. -/
theorem highestPriorityIsDeliveredFirst : Obligations.HighestPriorityIsDeliveredFirst := by
  intro s t n ready hready
  have hdel (m : Nat) : ready m ↔ Deliverable s t m := by
    rw [hready, Deliverable, wouldDeliver_iff, targetMasked_iff]
    constructor
    · rintro ⟨hen, hmask, hpending, hactive, htarget, hprio, hheld, hhold, hrun, hvector, hpin⟩
      exact ⟨⟨hvector, hpin⟩, hen, hmask, hpending, hactive, htarget, hprio, hheld, hhold, hrun⟩
    · rintro ⟨⟨hvector, hpin⟩, hen, hmask, hpending, hactive, htarget, hprio, hheld, hhold, hrun⟩
      exact ⟨hen, hmask, hpending, hactive, htarget, hprio, hheld, hhold, hrun, hvector, hpin⟩
  simp only [hdel]
  exact ⟨nextSource_some_iff s t n, nextSource_none_iff s t⟩

/-! ### Claims and completions (R530, R532, R533) -/

theorem mayClaim_iff (s : State) (t ag : Nat) : mayClaim s t ag = true ↔ ag < 8 ∧ (256 ≤ t ∨ vecOwner s t = some ag) := by
  simp [mayClaim]

/-- What INT_CLAIM_t answers of a top entry (R530): VALID, RETRACTED, PRIO, COUNT and SOURCE. -/
def claimWord (s : State) (e : StkEntry) : Nat :=
  2 ^ 31 + b2n (s.src e.source).retracted * 2 ^ 30 + e.prio * 2 ^ 24 + (s.src e.source).count * 2 ^ 16 + e.source

/-- A source once its entry is claimed: COUNT is latched and starts again. -/
def Src.claim (x : Src) : Src := { x with claimed := true, claimCount := x.count, count := 0 }

theorem claimRead_top {s : State} {t ag : Nat} {e : StkEntry} {l : List StkEntry} (ht : s.stack t = e :: l) (hc : (s.src e.source).claimed = false)
    (hm : mayClaim s t ag = true) : claimRead t ag .normal s = emit (.claim t (claimWord s e)) (s.updSrc e.source Src.claim) := by
  simp only [claimRead, ht, hc, hm, decide_true, Bool.and_self, Bool.not_false, if_true]
  rfl

/-- A read that may not claim answers zeros. -/
theorem claimRead_zeros {s : State} {t ag : Nat} {w : View}
    (h : w ≠ .normal ∨ mayClaim s t ag = false ∨ s.stack t = [] ∨ ∃ e l, s.stack t = e :: l ∧ (s.src e.source).claimed = true) :
    claimRead t ag w s = emit (.claim t 0) s := by
  unfold claimRead
  split
  · next e l hl =>
    refine if_neg ?_
    obtain h | h | h | ⟨e', l', hl', h⟩ := h
    · simp [h]
    · simp [h]
    · simp [h] at hl
    · rw [hl] at hl'
      cases hl'
      simp [h]
  · rfl

theorem b2n_lt_two (b : Bool) : b2n b < 2 := by cases b <;> decide

theorem claimWord_fields {s : State} {e : StkEntry} (hs : e.source < 2048) (hp : e.prio < 16) (hc : (s.src e.source).count < 256) :
    bitsOf (claimWord s e) 31 31 = 1 ∧ bitsOf (claimWord s e) 30 30 = b2n (s.src e.source).retracted ∧ bitsOf (claimWord s e) 27 24 = e.prio
      ∧ bitsOf (claimWord s e) 23 16 = (s.src e.source).count ∧ bitsOf (claimWord s e) 10 0 = e.source := by
  have hr := b2n_lt_two (s.src e.source).retracted
  unfold bitsOf claimWord
  refine ⟨?_, ?_, ?_, ?_, ?_⟩ <;> norm_num <;> omega

/-- Settles O47: a claim of the top entry by the word it answers, every other read by its zeros. -/
theorem claimsTakeTheTopEntry : Obligations.ClaimsTakeTheTopEntry := by
  intro s t ag w
  refine ⟨mayClaim_iff s t ag, ?claims, fun h => congrArg Host.Outcome.next (claimRead_zeros h)⟩
  intro e l ht hc hm hsource hprio hcount
  obtain ⟨hvalid, hretracted, hpriority, hcounted, hnumber⟩ := claimWord_fields hsource hprio hcount
  refine ⟨_, claimWord s e, congrArg Host.Outcome.next (claimRead_top ht hc hm), rfl, hvalid, hretracted, hpriority, hcounted, hnumber, ?_, ?_, rfl⟩
  · exact src_updSrc_same ..
  · exact fun m hne => src_updSrc_other s _ hne

/-- A source once its entry is completed. -/
def Src.complete (x : Src) : Src := { x with active := false, claimed := false, retracted := false }

section completions
variable {s : State} {t ag v : Nat} {w : View} {e : StkEntry} {r : List StkEntry} (hl : lockedBy s pINT ag = false)
  (hr : rangeOk s pINT .int (0x400 + 4 * t) w v = true) (hs : stateOk s pINT ag .int (0x400 + 4 * t) = true) (hm : mayClaim s t ag = true)
  (ht : s.stack t = e :: r)
include hl hr hs hm ht

/-- What a completion past its checks does, by the entry on top of its target's stack. -/
theorem completeSource_checked : completeSource t ag w v s =
    (let n := nv s pINT (newVals s pINT .int (0x400 + 4 * t) w v) F.INT_CLAIM_SOURCE t
     if e.source = n && (s.src n).claimed then record pINT ag ((0x400 + 4 * t) / 4) 0xFF rDONE (setStack t r (s.updSrc n Src.complete))
     else stackFault t n (record pINT ag ((0x400 + 4 * t) / 4) 0xFF rSTATE s)) := by
  simp only [completeSource, hl, hr, hs, hm, ht, firstFail, rDONE, Bool.not_true, Bool.false_eq_true, if_false, bne_self_eq_false]
  rfl

theorem completeSource_done (hn : e.source = nv s pINT (newVals s pINT .int (0x400 + 4 * t) w v) F.INT_CLAIM_SOURCE t)
    (hc : (s.src e.source).claimed = true) : completeSource t ag w v s
      = record pINT ag ((0x400 + 4 * t) / 4) 0xFF rDONE (setStack t r (s.updSrc e.source Src.complete)) := by
  rw [completeSource_checked hl hr hs hm ht]
  dsimp only
  rw [← hn, hc, if_pos (by simp)]

theorem completeSource_fault (hn : e.source ≠ nv s pINT (newVals s pINT .int (0x400 + 4 * t) w v) F.INT_CLAIM_SOURCE t) : completeSource t ag w v s
    = stackFault t (nv s pINT (newVals s pINT .int (0x400 + 4 * t) w v) F.INT_CLAIM_SOURCE t) (record pINT ag ((0x400 + 4 * t) / 4) 0xFF rSTATE s) := by
  rw [completeSource_checked hl hr hs hm ht]
  dsimp only
  rw [if_neg (by simp [hn])]

end completions

/-! ### Hold-off and the source window (R534, R547) -/

theorem execHoldoffExpiry_over {s : State} {g : Nat} (h : heldOff s g = false) :
    execHoldoffExpiry g s = .next { s with int := { s.int with holdEnd := s.int.holdEnd.erase g } } := by
  simp [execHoldoffExpiry, h]

theorem execHoldoffExpiry_early {s : State} {g e : Nat} (he : s.int.holdEnd.find? g = some e) (h : s.now < e) : execHoldoffExpiry g s = .next s := by
  have hheld : heldOff s g = true := by simp [heldOff, he, h]
  rw [execHoldoffExpiry, if_pos hheld]

theorem sourceWrite_done {s : State} {n k ag v : Nat}
    (h : entryCode s pINT (wISRC n) .isrc (4 * k) ag v (sourceRange s n k v) (sourceState s n k) = rDONE) :
    sourceWrite n k ag v s = windowResult pINT ag (0x800000 + 32 * n + 4 * k) rDONE (sourceTaken s n k v (entryVals s (wISRC n) .isrc (4 * k) v)
      ((entryVals s (wISRC n) .isrc (4 * k) v).foldl (storeVal (wISRC n) ag) s)) := (entryWrite_eq ..).1 h

/-- Settles O39: each command by what its operation does. -/
theorem interruptCommandsComplete : Obligations.InterruptCommandsComplete := by
  intro t n ag v g k w s
  refine ⟨?event, ?deassert, ?delivery, ?claim, ?complete, ?fault, ?holdOver, ?holdEarly, ?clear, ?source, ?fire⟩
  case event =>
    intro hlevel hc hen hr
    rw [exec, execInterruptEvent, hlevel, if_neg Bool.false_ne_true, srcEvent_enabled hen hc hr]
  case deassert => exact fun hl ho => execLevelDeassert_fallen hl ho
  case delivery =>
    intro h
    rw [exec, execInterruptDelivery, h]
  case claim => exact fun e r ht hm hc => congrArg Host.Outcome.next (claimRead_top ht hc hm)
  case complete =>
    rintro _ e r rfl hl hr hs hm ht hn hc
    exact congrArg Host.Outcome.next (completeSource_done hl hr hs hm ht hn hc)
  case fault =>
    rintro _ e r rfl hl hr hs hm ht rfl hn
    exact congrArg Host.Outcome.next (completeSource_fault hl hr hs hm ht hn)
  case holdOver => exact fun h => execHoldoffExpiry_over ((heldOff_iff s g).2 h)
  case holdEarly => exact fun e he h => execHoldoffExpiry_early he h
  case clear => exact fun h => congrArg Host.Outcome.next (command_done h _)
  case source => exact fun h => congrArg Host.Outcome.next (sourceWrite_done h)
  case fire => exact fun h => congrArg Host.Outcome.next (sourceWrite_done h)

end Sys2Proof.Machine
end

section
/-! SUPPORT. Addressed memory and the counters (R340, R551, R554, R593, R600): tables in canonical form that read alike, entries that a filter keeps, the
bytes an operation of the flash leaves, and increments modulo 2⁶⁴. -/
namespace Sys2Proof.SMap

variable {α : Type}

/-! ### Tables that read alike -/

theorem findIn_of_above {l : List (Nat × α)} {i : Nat} (h : above i l) : findIn l i = none := by
  induction l with
  | nil => rfl
  | cons e l ih =>
    obtain ⟨k, v⟩ := e
    have hk : i < k := h (k, v) List.mem_cons_self
    rw [findIn, if_neg (by omega)]
    exact ih fun e he => h e (List.mem_cons_of_mem _ he)

theorem mem_of_findIn {l : List (Nat × α)} {i : Nat} {v : α} (h : findIn l i = some v) : (i, v) ∈ l := by
  induction l with
  | nil => cases h
  | cons e l ih =>
    obtain ⟨k, w⟩ := e
    rw [findIn] at h
    split at h
    · next hk =>
      cases h
      rw [hk]
      exact List.mem_cons_self
    · exact List.mem_cons_of_mem _ (ih h)

theorem findIn_of_getD {l : List (Nat × α)} {d v : α} {i : Nat} (h : (findIn l i).getD d = v) (hv : v ≠ d) : findIn l i = some v := by
  cases hf : findIn l i with
  | none =>
    rw [hf] at h
    exact absurd h.symm hv
  | some w =>
    rw [hf] at h
    exact congrArg some h

/-- Two rising lists without default entries that read alike have the same entries. -/
theorem entries_eq_of_reads {l m : List (Nat × α)} {d : α} (hl : rising l = true) (hm : rising m = true) (hld : ∀ e ∈ l, e.2 ≠ d)
    (hmd : ∀ e ∈ m, e.2 ≠ d) (h : ∀ i, (findIn l i).getD d = (findIn m i).getD d) : l = m := by
  induction l generalizing m with
  | nil =>
    cases m with
    | nil => rfl
    | cons e m => exact absurd (by simpa [findIn] using (h e.1).symm) (hmd e List.mem_cons_self)
  | cons e l ih =>
    obtain ⟨k, v⟩ := e
    obtain ⟨hal, hrl⟩ := (rising_cons ..).1 hl
    have hv : v ≠ d := hld (k, v) List.mem_cons_self
    cases m with
    | nil => exact absurd (by simpa [findIn] using h k) hv
    | cons e' m =>
      obtain ⟨k', v'⟩ := e'
      obtain ⟨ham, hrm⟩ := (rising_cons ..).1 hm
      have hv' : v' ≠ d := hmd (k', v') List.mem_cons_self
      have hk : k = k' := by
        have hin : (k, v) ∈ (k', v') :: m := mem_of_findIn (findIn_of_getD (by rw [← h k]; simp [findIn]) hv)
        have hin' : (k', v') ∈ (k, v) :: l := mem_of_findIn (findIn_of_getD (by rw [h k']; simp [findIn]) hv')
        rcases List.mem_cons.1 hin with heq | hin
        · exact congrArg Prod.fst heq
        rcases List.mem_cons.1 hin' with heq | hin'
        · exact (congrArg Prod.fst heq).symm
        · exact absurd (Nat.lt_trans (ham _ hin) (hal _ hin')) (Nat.lt_irrefl _)
      subst hk
      have hvv : v = v' := by simpa [findIn] using h k
      have htail : ∀ i, (findIn l i).getD d = (findIn m i).getD d := by
        intro i
        by_cases hi : i = k
        · rw [hi, findIn_of_above hal, findIn_of_above ham]
        · simpa [findIn, hi] using h i
      rw [hvv, ih hrl hrm (fun e he => hld e (List.mem_cons_of_mem _ he)) (fun e he => hmd e (List.mem_cons_of_mem _ he)) htail]

/-! ### Filters by index -/

theorem findIn_filter (l : List (Nat × α)) (p : Nat → Bool) (i : Nat) :
    findIn (l.filter (fun e => p e.1)) i = if p i then findIn l i else none := by
  induction l with
  | nil => simp [findIn]
  | cons e l ih =>
    obtain ⟨k, v⟩ := e
    by_cases hk : p k
    · by_cases hi : i = k
      · simp [findIn, hi, hk]
      · simp [findIn, hi, hk, ih]
    · by_cases hi : i = k
      · simp [hi ▸ ih, hi, hk]
      · simp [findIn, hi, hk, ih]

theorem rising_filter {l : List (Nat × α)} (h : rising l = true) (p : Nat × α → Bool) : rising (l.filter p) = true := by
  induction l with
  | nil => rfl
  | cons e l ih =>
    obtain ⟨k, v⟩ := e
    obtain ⟨ha, hr⟩ := (rising_cons ..).1 h
    rw [List.filter_cons]
    split
    · exact (rising_cons ..).2 ⟨fun e he => ha e (List.mem_of_mem_filter he), ih hr⟩
    · exact ih hr

theorem get_filter (d : α) (m : SMap α) (p : Nat → Bool) (i : Nat) : (m.filter (fun j _ => p j)).get d i = if p i then m.get d i else d := by
  unfold get filter
  rw [findIn_filter]
  split <;> rfl

theorem has_filter (m : SMap α) (p : Nat → Bool) (i : Nat) : (m.filter (fun j _ => p j)).has i = if p i then m.has i else false := by
  unfold has filter
  rw [findIn_filter]
  split <;> rfl

end Sys2Proof.SMap

namespace Sys2Proof.Machine

/-! ### The window (R340) -/

/-- Two memories in canonical form that read alike are equal. -/
theorem Memory.ext_of_reads {m m' : SMap Byte} (h : Memory.wf m = true) (h' : Memory.wf m' = true) (hr : ∀ x, m.get 0 x = m'.get 0 x) : m = m' := by
  simp only [Memory.wf, Bool.and_eq_true, List.all_eq_true, bne_iff_ne] at h h'
  obtain ⟨hrise, hval⟩ := h
  obtain ⟨hrise', hval'⟩ := h'
  cases m
  cases m'
  exact congrArg SMap.mk (SMap.entries_eq_of_reads hrise hrise' hval hval' hr)

/-- Settles O51. -/
theorem windowBytesReadBack : Obligations.WindowBytesReadBack := by
  intro s a d
  exact ⟨winByte_setWin a d s, wf_setWin a d s, rfl, fun m m' => Memory.ext_of_reads⟩

/-! ### The flash (R593, R600) -/

/-- An address outside the sector an erase takes. -/
def outsideSector (a x : Nat) : Bool := x < a || a + 4096 ≤ x

theorem flashApply_erase (a : Nat) (d : List Byte) (lg : Bool) (s : State) :
    flashApply ⟨true, a, d, lg⟩ s = { s with boot := { s.boot with flash := s.boot.flash.filter (fun x _ => outsideSector a x) } } := rfl

theorem flashApply_program (a : Nat) (d : List Byte) (lg : Bool) (s : State) :
    flashApply ⟨false, a, d, lg⟩ s = setFlash a (List.zipWith (· &&& ·) (flashRead s a d.length) d) s := rfl

theorem flashByte_erase (a : Nat) (d : List Byte) (lg : Bool) (s : State) (x : Nat) :
    flashByte (flashApply ⟨true, a, d, lg⟩ s) x = if a ≤ x ∧ x < a + 4096 then 0xFF else flashByte s x := by
  have hget : flashByte (flashApply ⟨true, a, d, lg⟩ s) x = if outsideSector a x then flashByte s x else 0xFF := SMap.get_filter ..
  have hout : outsideSector a x = true ↔ ¬ (a ≤ x ∧ x < a + 4096) := by
    simp only [outsideSector, Bool.or_eq_true, decide_eq_true_eq]
    omega
  rw [hget]
  simp only [hout, ite_not]

/-- A byte of what a program puts over the flash: only bits that were set stay set. -/
theorem programmed_getElem? (s : State) (a : Nat) (d : List Byte) {k : Nat} (hk : k < d.length) :
    (List.zipWith (· &&& ·) (flashRead s a d.length) d)[k]? = some (flashByte s (a + k) &&& d[k]) := by
  simp [flashRead, hk]

theorem flashByte_program (a : Nat) (d : List Byte) (lg : Bool) (s : State) (x : Nat) :
    flashByte (flashApply ⟨false, a, d, lg⟩ s) x
      = if a ≤ x ∧ x < a + d.length then flashByte s x &&& (d[x - a]?).getD 0xFF else flashByte s x := by
  have hlen : (List.zipWith (· &&& ·) (flashRead s a d.length) d).length = d.length := by simp [flashRead]
  rw [flashApply_program, flashByte_setFlash, hlen]
  split
  · next h =>
    have hk : x - a < d.length := by omega
    rw [programmed_getElem? s a d hk, List.getElem?_eq_getElem hk, show a + (x - a) = x by omega]
    rfl
  · rfl

theorem wf_flashApply (o : FlashOp) (s : State) (h : Flash.wf s.boot.flash = true) : Flash.wf (flashApply o s).boot.flash = true := by
  unfold flashApply
  split
  · simp only [Flash.wf, Bool.and_eq_true, List.all_eq_true] at h ⊢
    obtain ⟨hrise, hval⟩ := h
    exact ⟨SMap.rising_filter hrise _, fun e he => hval e (List.mem_of_mem_filter he)⟩
  · exact wf_setFlash _ _ s h

theorem flashApply_frame (o : FlashOp) (s : State) : flashApply o s = { s with boot := { s.boot with flash := (flashApply o s).boot.flash } } := by
  unfold flashApply
  split <;> rfl

/-- Settles O52: an erase by the filter it is, a program byte by byte. -/
theorem flashProgramsClearBits : Obligations.FlashProgramsClearBits := by
  intro s a d lg h
  exact ⟨flashByte_erase a d lg s, flashByte_program a d lg s, fun e => ⟨wf_flashApply _ s h, flashApply_frame _ s⟩⟩

/-! ### Counters (R551, R554, R570) -/

theorem inState_countBy (i n : Nat) (s : State) (p : Nat) (b : BlkState) : (countBy i n s).inState p b = s.inState p b :=
  inState_of_pages (by rw [countBy_frame]) p b

/-- Increments of one counter add up, modulo 2⁶⁴. -/
theorem counter_foldl_countBy (i : Nat) (l : List Nat) {s : State} (h : s.inState pLDG .reset = false) (hc : s.counter i < 2 ^ 64) :
    (l.foldl (fun u k => countBy i k u) s).counter i = (s.counter i + l.sum) % 2 ^ 64 := by
  induction l generalizing s with
  | nil => exact (Nat.mod_eq_of_lt hc).symm
  | cons k l ih =>
    have hone : (countBy i k s).counter i = (s.counter i + k) % 2 ^ 64 := by rw [counter_countBy _ _ _ _ h, if_pos rfl]
    rw [List.foldl_cons, ih (by rw [inState_countBy, h]) (by rw [hone]; exact Nat.mod_lt _ (by decide)), hone, Nat.mod_add_mod, List.sum_cons, Nat.add_assoc]

theorem has_ovf_countBy {i n : Nat} {s : State} (h : s.inState pLDG .reset = false) :
    (countBy i n s).cnt.ovf.has i = true ↔ s.cnt.ovf.has i = true ∨ 2 ^ 64 ≤ s.counter i + n := by
  rw [countBy_ovf _ _ _ h]
  split
  · next hlt => exact ⟨.inl, fun h => h.resolve_right (Nat.not_le.mpr hlt)⟩
  · next hge => exact ⟨fun _ => .inr (Nat.not_lt.mp hge), fun _ => by simp [has_insert]⟩

/-- The counters a CNT_CLEAR leaves. -/
def outsideRange (b m j : Nat) : Bool := j < b || b + m ≤ j

theorem outsideRange_iff (b m j : Nat) : outsideRange b m j = true ↔ j < b ∨ b + m ≤ j := by simp [outsideRange]

theorem counter_clearCounters (b m j : Nat) (s : State) : (clearCounters b m s).counter j = if j < b ∨ b + m ≤ j then s.counter j else 0 := by
  have hget : (clearCounters b m s).counter j = if outsideRange b m j then s.counter j else 0 := SMap.get_filter ..
  simp only [hget, outsideRange_iff]

theorem ovf_clearCounters (b m j : Nat) (s : State) :
    (clearCounters b m s).cnt.ovf.has j = if j < b ∨ b + m ≤ j then s.cnt.ovf.has j else false := by
  have hhas : (clearCounters b m s).cnt.ovf.has j = if outsideRange b m j then s.cnt.ovf.has j else false := SMap.has_filter ..
  simp only [hhas, outsideRange_iff]

/-- A range that ends above the last counter is refused. -/
theorem execLdgCntClear_range {s : State} {ag : Nat} (hr : 524288 < s.rd pLDG F.LDG_CLR_BASE_BASE + s.rd pLDG F.LDG_CLR_COUNT_COUNT)
    (hl : lockedBy s pLDG ag = false) : execLdgCntClear pLDG ag 0 s = .next (record pLDG ag 4 0x42 rRANGE s) := by
  simp [execLdgCntClear, command, cmdCode, firstFail, hl, Nat.not_le.mpr hr, rRANGE, rDONE]

/-- Settles O48: an increment by what it stores, a clear by the filter it is. -/
theorem countersAddModulo64 : Obligations.CountersAddModulo64 := by
  intro s i n b m
  refine ⟨?adds, countBy_reset i n s, fun j => ⟨counter_clearCounters b m j s, ovf_clearCounters b m j s⟩, rfl, ?range⟩
  case adds =>
    intro h hc
    refine ⟨?_, ?_, has_ovf_countBy h, fun l => counter_foldl_countBy i l h hc, countBy_frame i n s⟩
    · rw [counter_countBy _ _ _ _ h, if_pos rfl]
    · intro j hj
      rw [counter_countBy _ _ _ _ h, if_neg hj]
  case range =>
    rintro ag rfl rfl hr hl
    exact execLdgCntClear_range hr hl

end Sys2Proof.Machine
end

section
/-! SUPPORT. The ledger, the statistics window and the SMBus slave (R550 to R571, R602, R612, R620): samples, records and their writing, the hold-up energy, and the
commands by their acceptance. -/
namespace Sys2Proof.Machine

/-! ### Samples and records (R560, R561, R565) -/

/-- A sample changes the open hour: a second more, its extremes and its histograms. -/
theorem ledgerSample_run {s : State} (h : s.inState pLDG .run = true) (temp : Int) :
    ∃ o, ledgerSample temp s = { s with ldg := { s.ldg with open_ := o } } ∧ o.secs = s.ldg.open_.secs + 1
      ∧ o.tmax = some (match s.ldg.open_.tmax with | some x => max x temp | none => temp)
      ∧ o.tmin = some (match s.ldg.open_.tmin with | some x => min x temp | none => temp) ∧ o.errs = s.ldg.open_.errs := by
  refine ⟨(ledgerSample temp s).ldg.open_, ?_⟩
  simp only [ledgerSample, h, Bool.not_true, Bool.false_eq_true, if_false]
  exact ⟨rfl, rfl, rfl, rfl, rfl⟩

/-- While fewer than 16 records wait, one more joins the queue. -/
theorem queueRecord_room {s : State} (h : s.ldg.queue.length < 16) (r : LdgRec) :
    queueRecord r s = { s with ldg := { s.ldg with queue := s.ldg.queue ++ [r] } } := if_pos h

theorem execPeriodRecord_room {s : State} (hr : s.inState pLDG .run = true) (h : s.ldg.queue.length < 16) : execPeriodRecord s
    = .next { s with ldg := { s.ldg with queue := s.ldg.queue ++ [⟨1, s.ldg.open_.hour, s.ldg.open_.bytes, false⟩] } } := by
  rw [execPeriodRecord, if_pos hr, queueRecord_room h]

theorem hourClose_room {s : State} (hr : s.inState pLDG .run = true) (h : s.ldg.queue.length < 16) :
    hourClose s = updHour (fun _ => { hour := max (s.ldg.open_.hour + 1) (uptime s / 3600) })
      { s with ldg := { s.ldg with queue := s.ldg.queue ++ [⟨2, s.ldg.open_.hour, s.ldg.open_.bytes, false⟩] } } := by
  simp only [hourClose, hr, if_true, queueRecord_room h]

/-! ### Writing (R563 to R566) -/

/-- A writer that is idle or deferred takes the oldest record, and starts or defers it. -/
theorem ledgerWrite_takes {s : State} {r : LdgRec} {l : List LdgRec} (hr : s.inState pLDG .run = true) (hp : slotCount s ≠ 0)
    (hw : s.ldg.wstate = .idle ∨ s.ldg.wstate = .deferred) (hf : s.boot.flashOp = none) (hwarm : s.boot.warm = none) (hq : s.ldg.queue = r :: l) :
    ledgerWrite s = if mayStartOp s (recordNeeds s) then recordStart r { s with ldg := { s.ldg with queue := l } } else recordDefer r l s := by
  rcases hw with hw | hw <;> simp [ledgerWrite, hr, hp, hw, hf, hwarm, hq]

theorem settleReset_none {s : State} (h : s.boot.warm = none) : settleReset s = s := by
  rw [settleReset, h]

theorem flashTimeout_ledger {s : State} {o : FlashOp} (ho : s.boot.flashOp = some o) (hl : o.ldg = true) :
    flashTimeout s = flashFree (ledgerFail (setFlashOp none (flashTear o s))) := by
  simp [flashTimeout, ho, hl]

/-! ### Hold-up energy (R564) -/

theorem holdupSample_serving {s : State} (h : s.inState pLDG .reset = false) (uv : Nat) :
    holdupSample uv s = syncHoldup ((s.wr pLDG F.LDG_HU_STAT_CODE (min 4095 (uv * 4096 / 1200000))).wr pLDG F.LDG_HU_STAT_E_MJ
      (min 65535 (holdupEnergy (min 4095 (uv * 4096 / 1200000)) (s.rd pLDG F.LDG_HU_CFG_DIV) (s.rd pLDG F.LDG_HU_CFG_CAP_MF)
        (s.rd pLDG F.LDG_HU_LIM_VMIN_MV)))) := by
  rw [holdupSample, h, if_neg Bool.false_ne_true]

theorem holdupOk_falls (s : State) : holdupOk false s = syncHoldup (s.wr pLDG F.LDG_HU_STAT_HOLDUP_OK 0) := rfl

/-- The rise of HOLDUP_OK starts its 10 µs. -/
theorem holdupOk_rises {s : State} (h : s.rdB pLDG F.LDG_HU_STAT_HOLDUP_OK = false) :
    holdupOk true s = syncHoldup { s.wr pLDG F.LDG_HU_STAT_HOLDUP_OK 1 with
      ldg := { s.ldg with holdupAt := (s.wr pLDG F.LDG_HU_STAT_HOLDUP_OK 1).now } } := by
  simp only [holdupOk, h, Bool.not_false, Bool.and_self, if_true]
  rfl

/-! ### Commands (R554, R567, R570) -/

theorem execLdgCntClear_done {s : State} {ag arg : Nat} (hr : s.rd pLDG F.LDG_CLR_BASE_BASE + s.rd pLDG F.LDG_CLR_COUNT_COUNT ≤ 524288)
    (h : cmdCode s pLDG ag (arg = 0) (stateIn s pLDG [.ready, .run, .fenced]) = rDONE) : execLdgCntClear pLDG ag arg s
      = .next (record pLDG ag 4 0x42 rDONE (clearCounters (s.rd pLDG F.LDG_CLR_BASE_BASE) (s.rd pLDG F.LDG_CLR_COUNT_COUNT) s)) := by
  simp only [execLdgCntClear, hr, decide_true, Bool.true_and, Bool.and_true, command_done h]

theorem readRec_found {s : State} {back : Nat} {d : List Byte} (h : findRec s back = some d) :
    readRec back s = ((List.range 64).foldl (fun s w => s.wr pLDG F.LDG_RD_DATA_DATA (ofLe (slice d (4 * w) 4)) w) s, rDONE) := by
  rw [readRec, h]

theorem execReadRec_free {s : State} {ag arg : Nat} {d : List Byte} (hf : s.boot.flashOp = none)
    (h : cmdCode s pLDG ag (arg = 0) (stateIn s pLDG [.ready, .run]) = rDONE) (hd : findRec s (s.rd pLDG F.LDG_RD_SEL_BACK) = some d) :
    execReadRec pLDG ag arg s = .next (record pLDG ag 4 0x43 rDONE
      ((List.range 64).foldl (fun s w => s.wr pLDG F.LDG_RD_DATA_DATA (ofLe (slice d (4 * w) 4)) w) s)) := by
  simp only [execReadRec, hf, Option.isSome_none, Bool.false_eq_true, if_false, decide_true, Bool.true_and, command_done h, readRec_found hd]

theorem execReadRec_busy {s : State} {ag arg : Nat} (hf : s.boot.flashOp.isSome = true)
    (h : cmdCode s pLDG ag (arg = 0) (stateIn s pLDG [.ready, .run]) = rDONE) : execReadRec pLDG ag arg s
      = .next (s.updPage pLDG (fun h => { h with cmd := some ⟨0x43, arg, ag, [s.rd pLDG F.LDG_RD_SEL_BACK]⟩ })) := by
  simp only [execReadRec, hf, if_true, decide_true, Bool.true_and, commandLong_done h, id]

theorem execLdgRestart_done {s : State} {ag arg : Nat} (hw : s.ldg.wstate = .stopped)
    (h : cmdCode s pLDG ag (arg = 0) (s.inState pLDG .run) = rDONE) :
    execLdgRestart pLDG ag arg s = .next (record pLDG ag 4 0x44 rDONE (setW .idle { s with ldg := { s.ldg with fails := 0 } })) := by
  simp only [execLdgRestart, hw, decide_true, Bool.true_and, Bool.and_true, command_done h]

/-! ### The statistics window (R550, R552, R628) -/

theorem execStatLowRead_serving {s : State} (h : s.inState pLDG .reset = false) (i ag : Nat) : execStatLowRead i ag s
    = .next (emit (.read ag (s.counter i % 2 ^ 32)) { s with cnt := { s.cnt with latch := s.cnt.latch.insert ag (i, s.counter i) } }) := by
  rw [execStatLowRead, h, if_neg Bool.false_ne_true]

theorem statWrite_done {s : State} {ag : Nat} (hl : lockedBy s pLDG ag = false) (hw : windowState s pLDG = true) (addr : Nat) (eff : State → State) :
    statWrite addr ag eff s = windowResult pLDG ag addr rDONE (eff s) := by
  simp [statWrite, hl, hw, firstFail]

/-- A high word writes the whole counter with the low word its agent left. -/
theorem statHighWrite_whole {s : State} {i ag lo : Nat} (hl : lockedBy s pLDG ag = false) (hw : windowState s pLDG = true)
    (hh : s.cnt.half.find? ag = some (i, lo)) (v : Nat) : statHighWrite i ag v s = windowResult pLDG ag (0x400004 + 8 * i) rDONE
      (setCounter i (v * 2 ^ 32 + lo) { s with cnt := { s.cnt with half := s.cnt.half.erase ag } }) := by
  rw [statHighWrite, statWrite_done hl hw, hh, statAddr, show 0x400000 + 8 * i + 4 = 0x400004 + 8 * i by omega]
  simp

/-- Settles O41: each part by what its operation does on the state its hypotheses describe. -/
theorem ledgerCommandsComplete : Obligations.LedgerCommandsComplete := by
  intro ag arg i v s
  refine ⟨?sample, ?period, ?hour, ?write, ?holdup, ?falls, ?rises, ?timeout, ?clear, ?read, ?readWaits, ?restart, ?lowRead, ?lowWrite, ?highWrite⟩
  case sample =>
    intro hr temp
    obtain ⟨o, hsample, hsecs, hmax, hmin, herrs⟩ := ledgerSample_run hr temp
    exact ⟨_, congrArg Host.Outcome.next hsample, hsecs, hmax, hmin, herrs, rfl⟩
  case period => exact fun hr h => execPeriodRecord_room hr h
  case hour =>
    intro hr h
    exact ⟨_, congrArg Host.Outcome.next (hourClose_room hr h), rfl, Nat.lt_of_succ_le (Nat.le_max_left ..), rfl⟩
  case write =>
    intro hr hp hw hf hwarm r l hq
    have htakes := ledgerWrite_takes hr hp hw hf hwarm hq
    exact ⟨fun h => congrArg Host.Outcome.next (htakes.trans (if_pos h)),
      fun h => congrArg Host.Outcome.next (htakes.trans (if_neg (by simp [h])))⟩
  case holdup =>
    rintro hr _ rfl
    exact congrArg Host.Outcome.next (holdupSample_serving hr v)
  case falls => exact congrArg Host.Outcome.next (holdupOk_falls s)
  case rises =>
    rintro _ rfl h
    exact congrArg Host.Outcome.next (holdupOk_rises h)
  case timeout =>
    rintro o ho hl _ rfl hwarm
    refine congrArg Host.Outcome.next ?_
    rw [flashTimeout_ledger ho hl, settleReset_none hwarm]
  case clear =>
    rintro _ _ rfl rfl hr h
    exact execLdgCntClear_done hr h
  case read => exact fun hf h d hd => execReadRec_free hf h hd
  case readWaits => exact fun hf h => execReadRec_busy hf h
  case restart => exact fun hw h => execLdgRestart_done hw h
  case lowRead => exact fun h => execStatLowRead_serving h i ag
  case lowWrite => exact fun hl hw => congrArg Host.Outcome.next (statWrite_done hl hw _ _)
  case highWrite => exact fun hl hw lo hh => congrArg Host.Outcome.next (statHighWrite_whole hl hw hh v)

/-! ### The SMBus slave (R568, R602, R612, R620) -/

/-- The state in which a record and its chunk are selected and nothing is fetched. -/
def smbSelected (w : Nat) (s : State) : State := { s with ldg := { s.ldg with smbSel := some (w % 4096, w / 4096 % 8), smbRec := none } }

theorem smbFetch_selected_free {s : State} (hf : s.boot.flashOp = none) (w : Nat) : smbFetch (smbSelected w s)
    = { smbSelected w s with ldg := { (smbSelected w s).ldg with smbRec := findRec (smbSelected w s) (w % 4096) } } := by
  simp [smbFetch, smbSelected, hf]

theorem smbFetch_selected_busy {s : State} (hf : s.boot.flashOp.isSome = true) (w : Nat) : smbFetch (smbSelected w s) = smbSelected w s := by
  simp [smbFetch, smbSelected, hf]

theorem smbAnswers_own (s : State) : smbAnswers s false = true := rfl

theorem smbAnswers_shared (s : State) : smbAnswers s true = singleOwner s := rfl

/-- Settles O42: a select by the flash it waits for, a read by what is fetched, an answer at the shared address by who holds it. -/
theorem smbusCommandsComplete : Obligations.SmbusCommandsComplete := by
  intro w temp s
  refine ⟨?select, ?asksNothing, ?chunk, ?unfetched, rfl, rfl, rfl, rfl, ?shared, ?silent, rfl, ?alert, rfl⟩
  case select =>
    rintro h15 _ rfl
    have hsel : exec (.smbRecordSelect w) s = .next (smbFetch (smbSelected w s)) := by
      rw [exec, execSmbRecordSelect, h15, if_neg Bool.false_ne_true]
      rfl
    exact ⟨fun hf => hsel.trans (congrArg _ (smbFetch_selected_free hf w)), fun hf => hsel.trans (congrArg _ (smbFetch_selected_busy hf w))⟩
  case asksNothing =>
    intro h15
    rw [exec, execSmbRecordSelect, if_pos h15]
  case chunk =>
    intro b c d hsel hrec
    rw [exec, execSmbRecordRead, hsel, hrec]
    rfl
  case unfetched =>
    intro hrec
    rw [exec, execSmbRecordRead, hrec]
    cases s.ldg.smbSel <;> rfl
  case shared =>
    intro ho
    rw [exec, execSmbTemperature, smbAnswers_shared, if_pos ho]
    rfl
  case silent =>
    intro ho
    constructor
    · rw [exec, execSmbTemperature, smbAnswers_shared, ho, if_neg Bool.false_ne_true]
    · rw [exec, execSmbAlarm, smbAnswers_shared, ho, if_neg Bool.false_ne_true]
  case alert =>
    intro h
    rw [exec, execSmbAlertResponse, if_pos h]
    rfl

end Sys2Proof.Machine
end

section
/-! SUPPORT. The time unit (R394 to R419): domain times as lines in the local counter, and the clocks' commands. -/
namespace Sys2Proof.Machine

/-! ### Domains (R397) -/

theorem dom_updDom_same (s : State) (d : Nat) (f : Dom → Dom) : (s.updDom d f).dom d = f (s.dom d) := by
  unfold State.updDom State.dom
  split <;> rfl

/-- Of the two domains, a change of one leaves the other. -/
theorem dom_updDom_other (s : State) {d e : Nat} (f : Dom → Dom) (hd : d < 2) (he : e < 2) (h : e ≠ d) : (s.updDom d f).dom e = s.dom e := by
  have hcases : (d = 0 ∧ e = 1) ∨ (d = 1 ∧ e = 0) := by omega
  obtain ⟨rfl, rfl⟩ | ⟨rfl, rfl⟩ := hcases <;> rfl

theorem dom_wrS (s : State) (p : Nat) (f : Field) (v : Int) (i j d : Nat) : (s.wrS p f v i j).dom d = s.dom d := rfl

theorem dom_rebaseDom_same (d : Nat) (s : State) : (rebaseDom d s).dom d = { s.dom d with
    baseN := (s.dom d).fine s.now, baseL := s.now, rhoAcc := (s.dom d).rhoAcc + (s.dom d).rho * (s.now - (s.dom d).rhoAt : Nat), rhoAt := s.now } :=
  dom_updDom_same ..

theorem dom_rebaseDom_other {s : State} {d e : Nat} (hd : d < 2) (he : e < 2) (h : e ≠ d) : (rebaseDom d s).dom e = s.dom e :=
  dom_updDom_other s _ hd he h

/-- A new rate runs from the time of its instant. -/
theorem fine_setRate (d l : Nat) (rho integ : Int) (s : State) :
    ((setRate d rho integ s).dom d).fine l = (s.dom d).fine s.now + ((l : Int) - s.now) * (timeDen + rho) := by
  rw [setRate, dom_wrS, dom_updDom_same, dom_rebaseDom_same]
  rfl

/-- A step moves the domain's whole line. -/
theorem fine_moveDom (d l : Nat) (x : Int) (s : State) :
    ((moveDom d x s).dom d).fine l = (s.dom d).fine s.now + ((l : Int) - s.now) * (timeDen + (s.dom d).rho) + x := by
  rw [moveDom, dom_updDom_same, dom_rebaseDom_same]
  simp only [Dom.fine]
  ring

theorem dom_setRate_other {s : State} {d e : Nat} (rho integ : Int) (hd : d < 2) (he : e < 2) (h : e ≠ d) :
    (setRate d rho integ s).dom e = s.dom e := by
  rw [setRate, dom_wrS, dom_updDom_other _ _ hd he h, dom_rebaseDom_other hd he h]

theorem dom_moveDom_other {s : State} {d e : Nat} (x : Int) (hd : d < 2) (he : e < 2) (h : e ≠ d) : (moveDom d x s).dom e = s.dom e := by
  rw [moveDom, dom_updDom_other _ _ hd he h, dom_rebaseDom_other hd he h]

/-- A rate not below −1 never turns time back. -/
theorem fine_mono (x : Dom) (hr : -(timeDen : Int) ≤ x.rho) {m l : Nat} (h : m ≤ l) : x.fine m ≤ x.fine l := by
  have hslope : (0 : Int) ≤ timeDen + x.rho := by omega
  have hstep : (m : Int) - x.baseL ≤ (l : Int) - x.baseL := by omega
  exact Int.add_le_add_left (Int.mul_le_mul_of_nonneg_right hstep hslope) _

theorem time_lt_wrap (x : Dom) (l : Nat) : x.time l < 2 ^ 48 * 65536000000000 := by
  have hnonneg : 0 ≤ (x.fine l / timeDen) % timeWrap := Int.emod_nonneg _ (by decide)
  have hlt : (x.fine l / timeDen) % timeWrap < timeWrap := Int.emod_lt_of_pos _ (by decide)
  unfold Dom.time
  unfold timeWrap at *
  omega

/-- Settles O53: each change of a domain by the line it leaves. -/
theorem domainTimeIsContinuous : Obligations.DomainTimeIsContinuous := by
  intro s d l rho integ x
  refine ⟨?keeps, fine_setRate d l rho integ s, fine_moveDom d l x s, fun m hr h => fine_mono _ hr h,
    fun e hd he h => ⟨dom_setRate_other rho integ hd he h, dom_moveDom_other x hd he h⟩, fun y => time_lt_wrap y l⟩
  rw [fine_setRate, sub_self, zero_mul, add_zero]

/-! ### Samples (R404) -/

theorem syncSample_taken {d p l : Nat} {m : List Byte} {s : State} (hl : l ≤ s.now) (hd : s.domState d ≠ dOFF) (ht : domTakes s d p 0 m = true) :
    syncSample d p m l s = (let t2 := capturedIn s d l (-(1024 * s.rdS pTIME F.TS_ASYM_RX_ASYM p))
      if (byteAt m 6).testBit 1 then s.updDom d (fun x => { x with wait := x.wait ++ [(⟨beAt m 30 2, l, t2, msgCorr m⟩ : SyncWait)] })
      else sample d l (syncOffset s d t2 (msgTime m + msgCorr m)) s) := by
  simp [syncSample, hl, hd, ht]

theorem followUp_taken {d p : Nat} {m : List Byte} {y : SyncWait} {s : State} (ht : domTakes s d p 8 m = true)
    (hy : (s.dom d).wait.find? (fun y => y.seqId = beAt m 30 2) = some y) :
    followUp d p m s = (let s1 := s.updDom d (fun x => { x with wait := x.wait.erase y })
      sample d y.at_ (syncOffset s1 d y.t2 (msgTime m + msgCorr m + y.corr)) s1) := by
  simp only [followUp, ht, Bool.not_true, Bool.false_eq_true, if_false, hy]

theorem execFollowUpTimeout_waits {d seqId : Nat} {y : SyncWait} {s : State} (hy : (s.dom d).wait.find? (fun y => y.seqId = seqId) = some y) :
    execFollowUpTimeout d seqId s = .next (count (cChip (66 + d)) (s.updDom d (fun x => { x with wait := x.wait.erase y }))) := by
  rw [execFollowUpTimeout, hy]

/-! ### Registers and timers (R396, R401, R403, R408, R409) -/

theorem timeWrite_done {off ag v : Nat} {w : View} {s : State} (h : gateCode s pTIME off w ag v (timeRange s) (timeState s) noBusy = rDONE) :
    timeWrite off w ag v s = record pTIME ag (off / 4) 0xFF rDONE ((gateVals s pTIME off w v).foldl (storeVal pTIME ag) s) :=
  regWrite_done (by decide) h

theorem execDomainLossTimeout_loses {d : Nat} {s : State} (h : s.domState d = dACQUIRING ∨ s.domState d = dLOCKED) :
    execDomainLossTimeout d s = .next (checkSelect (enterDom d dLOST s)) := by
  rw [execDomainLossTimeout, if_pos (by simpa using h)]

theorem execRevertTimer_reverts {s : State} (ha : s.rdB pTIME F.TIME_SEL_AUTO_SEL = true) (hr : s.rdB pTIME F.TIME_SEL_REVERT_EN = true)
    (hsel : s.selDom ≠ s.rd pTIME F.TIME_SEL_PREF) (hl : s.domState (s.rd pTIME F.TIME_SEL_PREF) = dLOCKED) (hb : s.banked = false) :
    execRevertTimer s = .next (switchTo (s.rd pTIME F.TIME_SEL_PREF) s) := by
  simp [execRevertTimer, ha, hr, hsel, hl, hb]

theorem execSlewEnd_ended {s : State} (hp : s.phase s.now = 0) (hb : s.banked = false) : execSlewEnd s = .next (setPhase 0 s) := by
  simp [execSlewEnd, hp, hb]

theorem execTimeClkLoss_first {s : State} (h : s.time.onSerdes = false) (hr : s.inState pTIME .reset = false) : execTimeClkLoss s
    = .next (escalate pTIME (ledgerEvent 0x04 0 (withLine 322 (fun s => s.setF pTIME F.TIME_EVENT_CLK_FAIL)
        { s with time := { s.time with onSerdes := true } }))) := by
  simp [execTimeClkLoss, h, hr]

theorem execTsCalDone_measured {p : Nat} {s : State} (hp : p < 48) (hr : s.raw p = true) : execTsCalDone p s
    = .next ((({ s with free := s.free + 1 }.wr pTIME F.TS_CAL_RX_DELAY (Config.calDelay p s.free).1 p).wr pTIME F.TS_CAL_TX_DELAY
        (Config.calDelay p s.free).2 p).wr pTIME F.TS_CAL_RX_CAL_DONE 1 p) := by
  simp [execTsCalDone, hr, hp, nextFree]

/-! ### Commands (R417) -/

/-- An argument below 2 names its one domain. -/
theorem domArg_of_lt_two {d : Nat} (h : d < 2) : domArg d = [d] := if_neg (by omega)

section commands
variable {ag arg d : Nat} {s : State}

theorem execTimeSet_one (hd : d < 2) (h : cmdCode s pTIME ag true (stateIn s pTIME [.ready, .run]) = rDONE) :
    execTimeSet pTIME ag d s = .next (record pTIME ag 4 0x42 rDONE (stepByCommand d
      ((timeOf (s.rd pTIME F.TIME_SET_SEC_HI_SEC_HI * 2 ^ 32 + s.rd pTIME F.TIME_SET_SEC_LO_SEC_LO) (s.rd pTIME F.TIME_SET_NS_NS)
        (s.rd pTIME F.TIME_SET_SEC_HI_FRAC) : Int) * timeDen - (s.dom d).fine s.now) s)) := by
  simp only [execTimeSet, show d < 3 by omega, decide_true, Bool.and_self, command_done h, domArg_of_lt_two hd, List.foldl_cons, List.foldl_nil]

theorem execTimeAdj_one (hd : d < 2) (h : cmdCode s pTIME ag ((stagedAdj s).natAbs ≤ 1000000000 * nsU) (stateIn s pTIME [.ready, .run]) = rDONE) :
    execTimeAdj pTIME ag d s = .next (record pTIME ag 4 0x43 rDONE (stepByCommand d (stagedAdj s * timeDen) s)) := by
  simp only [execTimeAdj, show d < 3 by omega, decide_true, Bool.true_and, command_done h, domArg_of_lt_two hd, List.foldl_cons, List.foldl_nil]

theorem execServoReset_one (hd : d < 2) (hoff : s.domState d ≠ dOFF) (h : cmdCode s pTIME ag true (stateIn s pTIME [.ready, .run]) = rDONE) :
    execServoReset pTIME ag d s
      = .next (record pTIME ag 4 0x46 rDONE (checkSelect (enterDom d dFREERUN (s.updDom d (fun x => { x with run := 0 }))))) := by
  simp only [execServoReset, show d < 3 by omega, decide_true, Bool.and_self, command_done h, domArg_of_lt_two hd, List.foldl_cons, List.foldl_nil,
    if_neg hoff]

end commands

/-- Settles O34: a sample by what its message asks, a register's write and a command by their acceptance, a timer by what it finds. -/
theorem timeCommandsComplete : Obligations.TimeCommandsComplete := by
  intro ag arg d p l off v m w s
  refine ⟨?sync, ?followUp, ?followUpTimeout, ?offset, ?rate, ?enable, ?trigger, ?loss, ?revert, ?slewEnd, ?clockLoss, rfl, ?calibrated, ?set, ?adjust,
    ?select, ?snap, ?servoReset⟩
  case sync =>
    rintro hl hd ht _ rfl
    have htaken := syncSample_taken hl hd ht
    exact ⟨fun hone => congrArg Host.Outcome.next (htaken.trans (if_neg (by simp [hone]))),
      fun htwo => congrArg Host.Outcome.next (htaken.trans (if_pos htwo))⟩
  case followUp =>
    rintro y _ ht hy rfl
    exact congrArg Host.Outcome.next (followUp_taken ht hy)
  case followUpTimeout => exact fun y seqId hy => execFollowUpTimeout_waits hy
  case offset => exact fun h => congrArg Host.Outcome.next (regWrite_done (by decide) h)
  case rate => exact fun h => congrArg Host.Outcome.next (timeWrite_done h)
  case enable => exact fun h => congrArg Host.Outcome.next (timeWrite_done h)
  case trigger => exact fun n h => congrArg Host.Outcome.next (timeWrite_done h)
  case loss => exact fun h => execDomainLossTimeout_loses h
  case revert =>
    rintro _ rfl ha hr hsel hl hb
    exact execRevertTimer_reverts ha hr hsel hl hb
  case slewEnd => exact fun hp hb => execSlewEnd_ended hp hb
  case clockLoss => exact fun h hr => execTimeClkLoss_first h hr
  case calibrated =>
    rintro hp hr _ rfl
    exact execTsCalDone_measured hp hr
  case set =>
    rintro _ rfl hd h
    exact execTimeSet_one hd h
  case adjust => exact fun hd h => execTimeAdj_one hd h
  case select => exact fun h => congrArg Host.Outcome.next (command_done h _)
  case snap => exact fun h => congrArg Host.Outcome.next (command_done h _)
  case servoReset => exact fun hd hoff h => execServoReset_one hd hoff h

end Sys2Proof.Machine
end

section
/-! SUPPORT. The idle step, the oscillator model, banked time and the pulses (R395, R411, R420 to R442, R459): what time brings where nothing is commanded, what the
model's commands leave, and the edges of pulses, outputs and captures. -/
namespace Sys2Proof.Machine

/-! ### The idle step (R395, R459) -/

/-- Whatever the mate link takes, the rest of the part keeps. -/
theorem mateSend_frame (kind tc q : Nat) (d : List Byte) (s : State) : mateSend kind tc q d s = { s with
    mate := (mateSend kind tc q d s).mate, cnt := (mateSend kind tc q d s).cnt, int := (mateSend kind tc q d s).int, out := (mateSend kind tc q d s).out } := by
  unfold mateSend
  split
  · rfl
  · rw [count, countBy_frame]

theorem mateSend_up {s : State} (h : s.rd pMATE F.MATE_STATUS_LINK_STATE = lUP) (kind tc q : Nat) (d : List Byte) :
    mateSend kind tc q d s = emit (.mate (mateBytes kind tc q (s.mate.seq.get 0 kind) d))
      { s with mate := { s.mate with seq := s.mate.seq.put 0 kind ((s.mate.seq.get 0 kind + 1) % 65536) } } := if_pos h

theorem mateSend_down {s : State} (h : s.rd pMATE F.MATE_STATUS_LINK_STATE ≠ lUP) (kind tc q : Nat) (d : List Byte) :
    mateSend kind tc q d s = count (cChip 82) s := if_neg h

theorem walk_mateSend (kind tc q : Nat) (d : List Byte) (s : State) : (mateSend kind tc q d s).mate.walk = s.mate.walk := by
  by_cases h : s.rd pMATE F.MATE_STATUS_LINK_STATE = lUP
  · rw [mateSend_up h]
    rfl
  · rw [mateSend_down h, count, countBy_frame]

/-- A tick moves the local counter alone. -/
theorem localTick_frame (s : State) : localTick s = { s with time := { s.time with local_ := (localTick s).time.local_ } } := by
  unfold localTick
  split <;> rfl

theorem now_localTick (s : State) : (localTick s).now = s.now + (if s.rdB pTIME F.TIME_STATUS_PLL_LOCK then 1024 else 0) := by
  unfold localTick
  split <;> rfl

@[simp] theorem localTick_mate (s : State) : (localTick s).mate = s.mate := by rw [localTick_frame]
@[simp] theorem localTick_tab (s : State) : (localTick s).tab = s.tab := by rw [localTick_frame]
@[simp] theorem localTick_reg (s : State) : (localTick s).reg = s.reg := by rw [localTick_frame]
@[simp] theorem localTick_pages (s : State) : (localTick s).pages = s.pages := by rw [localTick_frame]
@[simp] theorem localTick_cnt (s : State) : (localTick s).cnt = s.cnt := by rw [localTick_frame]
@[simp] theorem localTick_out (s : State) : (localTick s).out = s.out := by rw [localTick_frame]

/-- The payload a walk sends of a learned group of the own chip (R459). -/
def walkPayload (e : Nat × Group) : List Byte := beBytes 16 (learnWord e.2.key 1 (actionPort e.2.action) e.2.ts true false e.1)

/-- The next group a walk sends from index `n` on. -/
def nextLearned (s : State) (n : Nat) : Option (Nat × Group) :=
  s.tab.groups.entries.find? (fun e => n ≤ e.1 && isLearned e.2.action && !e.2.mate)

/-- The walk stands at group `n`. -/
def walkTo (n : Nat) (s : State) : State := { s with mate := { s.mate with walk := some n } }

@[simp] theorem walkTo_seq (n : Nat) (s : State) : (walkTo n s).mate.seq = s.mate.seq := rfl
@[simp] theorem walkTo_pages (n : Nat) (s : State) : (walkTo n s).pages = s.pages := rfl
@[simp] theorem walkTo_reg (n : Nat) (s : State) : (walkTo n s).reg = s.reg := rfl
@[simp] theorem walkTo_cnt (n : Nat) (s : State) : (walkTo n s).cnt = s.cnt := rfl
@[simp] theorem walkTo_out (n : Nat) (s : State) : (walkTo n s).out = s.out := rfl

section walk
variable {s : State} {n : Nat}

theorem resyncStep_still (h : s.mate.walk = none) : resyncStep s = s := by
  rw [resyncStep, h]

theorem resyncStep_sends {e : Nat × Group} (h : s.mate.walk = some n) (he : nextLearned s n = some e) :
    resyncStep s = mateSend 2 0 0 (walkPayload e) (walkTo (e.1 + 1) s) := by
  unfold nextLearned at he
  simp only [resyncStep, h, he]
  rfl

theorem resyncStep_ends (h : s.mate.walk = some n) (he : nextLearned s n = none) :
    resyncStep s = { s with mate := { s.mate with walk := none } }.wr pMATE F.MATE_STATUS_RESYNC_ACTIVE 0 := by
  unfold nextLearned at he
  simp only [resyncStep, h, he]

theorem resyncStep_time (s : State) : (resyncStep s).time = s.time := by
  unfold resyncStep
  split
  · rfl
  · split
    · rw [mateSend_frame]
    · rfl

end walk

/-- Settles O2: the tick first, then the walk's step on the ticked state, whose tables, registers and mate interface are those of before. -/
theorem emptyQueueOnlyAdvancesTime : Obligations.EmptyQueueOnlyAdvancesTime := by
  intro s hp
  have hstep : step s = .next (resyncStep (localTick s)) := by
    rw [step, hp]
    rfl
  have hwalk : (localTick s).mate.walk = s.mate.walk := by rw [localTick_mate]
  have hlearned (n : Nat) : nextLearned (localTick s) n = nextLearned s n := by rw [nextLearned, localTick_tab, nextLearned]
  refine ⟨_, hstep, ?now, ?still, ?sends, ?ends⟩
  case now => rw [State.now, resyncStep_time, ← State.now, now_localTick]
  case still =>
    intro h
    rw [resyncStep_still (hwalk.trans h)]
    exact localTick_frame s
  case sends =>
    intro n e h he
    rw [resyncStep_sends (hwalk.trans h) ((hlearned n).trans he)]
    have hreg : (walkTo (e.1 + 1) (localTick s)).reg = s.reg := by rw [walkTo_reg, localTick_reg]
    have hpages : (walkTo (e.1 + 1) (localTick s)).pages = s.pages := by rw [walkTo_pages, localTick_pages]
    have hlink : (walkTo (e.1 + 1) (localTick s)).rd pMATE F.MATE_STATUS_LINK_STATE = s.rd pMATE F.MATE_STATUS_LINK_STATE := rd_of_reg hreg ..
    refine ⟨walk_mateSend .., by rw [mateSend_frame]; exact localTick_tab s, by rw [mateSend_frame]; exact hreg, fun hup => ?_, fun hdown => ?_⟩
    · rw [mateSend_up (hlink.trans hup), walkTo_seq, localTick_mate]
      exact congrArg (· ++ [_]) (localTick_out s)
    · rw [mateSend_down (by rwa [hlink]), count]
      refine ⟨by rw [countBy_frame]; exact localTick_out s, fun hr => ?_⟩
      rw [counter_countBy _ _ _ _ ((inState_of_pages hpages ..).trans hr), if_pos rfl, State.counter, State.counter, walkTo_cnt, localTick_cnt]
  case ends =>
    intro n h he
    rw [resyncStep_ends (hwalk.trans h) ((hlearned n).trans he)]
    exact ⟨by rw [localTick_mate]; rfl, rd_wr_same .., localTick_out s⟩

/-! ### Fields of the time page -/

theorem rdS_wr_other {p q : Nat} {f g : Field} {i j k l : Nat} (s : State) (v : Nat) (h : fkey q g k l ≠ fkey p f i j) :
    (s.wr p f v i j).rdS q g k l = s.rdS q g k l := by
  rw [State.rdS, rd_wr_other _ _ h, State.rdS]

theorem rdB_wr_other {p q : Nat} {f g : Field} {i j k l : Nat} (s : State) (v : Nat) (h : fkey q g k l ≠ fkey p f i j) :
    (s.wr p f v i j).rdB q g k l = s.rdB q g k l := by
  rw [State.rdB, rd_wr_other _ _ h, State.rdB]

/-- Two fields of one stride stand at different bits of each entry. -/
def Field.apart (f g : Field) : Bool := f.s1 = g.s1 && f.s1 % 4 = 0 && f.off / 4 * 32 + f.lo != g.off / 4 * 32 + g.lo

theorem fkey_ne_of_apart (p k : Nat) {f g : Field} (h : f.apart g = true) : fkey p f k 0 ≠ fkey p g k 0 := by
  simp only [Field.apart, Bool.and_eq_true, decide_eq_true_eq, bne_iff_ne] at h
  obtain ⟨⟨hs, h4⟩, hplace⟩ := h
  have hword (o : Nat) : (o + f.s1 * k) / 4 = o / 4 + f.s1 / 4 * k := by
    rw [show f.s1 * k = 4 * (f.s1 / 4 * k) by rw [← Nat.mul_assoc, show 4 * (f.s1 / 4) = f.s1 by omega], Nat.add_mul_div_left _ _ (by decide)]
  simp only [fkey, Field.at, Nat.mul_zero, Nat.add_zero, ← hs, hword]
  omega

theorem rd_wr_apart {f g : Field} (s : State) (p v k : Nat) (h : g.apart f = true) : (s.wr p f v k).rd p g k = s.rd p g k :=
  rd_wr_other s v (fkey_ne_of_apart p k h)

theorem rdB_wr_apart {f g : Field} (s : State) (p v k : Nat) (h : g.apart f = true) : (s.wr p f v k).rdB p g k = s.rdB p g k :=
  rdB_wr_other s v (fkey_ne_of_apart p k h)

theorem banked_wr_other {f : Field} {i j : Nat} (s : State) (v : Nat) (h : fkey pTIME F.TIME_STATUS_BANKED 0 0 ≠ fkey pTIME f i j) :
    (s.wr pTIME f v i j).banked = s.banked := rdB_wr_other s v h

theorem toSigned_ofSigned_word {x : Int} (h0 : -(2 ^ 31) ≤ x) (h1 : x < 2 ^ 31) : toSigned 32 (ofSigned 32 x) = x := by
  unfold toSigned ofSigned
  norm_num at *
  omega

/-! ### The model (R420 to R423) -/

/-- The rate an evaluation shows (R421), in whole units of BANK_RHO. -/
def shownRho (theta : Int) (s : State) : Int :=
  clampInt (-(2 ^ 31)) (2 ^ 31 - 1) (modelRho s.time.model (thetaOf s theta) (tSec (s.wrS pTIME F.BANK_THETA_THETA (thetaOf s theta)).sNow) / 64)

theorem modelEvaluate_unbanked {s : State} (hr : s.inState pTIME .reset = false) (hb : s.banked = false) (theta : Int) :
    modelEvaluate theta s = (s.wrS pTIME F.BANK_THETA_THETA (thetaOf s theta)).wrS pTIME F.BANK_RHO_RHO (shownRho theta s) := by
  have hkeeps : ((s.wrS pTIME F.BANK_THETA_THETA (thetaOf s theta)).wrS pTIME F.BANK_RHO_RHO (shownRho theta s)).banked = false := by
    rw [State.wrS, banked_wr_other _ _ (by decide), State.wrS, banked_wr_other _ _ (by decide), hb]
  simp only [modelEvaluate, hr, Bool.false_eq_true, if_false]
  exact if_neg (by simpa [shownRho] using hkeeps)

theorem modelLearn_resting {s : State} (h : learning s = false) (theta : Int) : modelLearn theta s = newSecond s := by
  simp [modelLearn, h]

theorem model_updDom (s : State) (d : Nat) (f : Dom → Dom) : (s.updDom d f).time.model = s.time.model := by
  unfold State.updDom
  split <;> rfl

theorem model_rebaseDom (d : Nat) (s : State) : (rebaseDom d s).time.model = s.time.model := model_updDom ..

theorem free_rebaseDom (d : Nat) (s : State) : (rebaseDom d s).free = s.free := updDom_free ..

theorem model_newSecond (s : State) : (newSecond s).time.model = s.time.model :=
  (model_rebaseDom 1 _).trans (model_rebaseDom 0 s)

theorem free_newSecond (s : State) : (newSecond s).free = s.free := (free_rebaseDom 1 _).trans (free_rebaseDom 0 s)

@[simp] theorem syncTime_time (s : State) : (syncTime s).time = s.time := rfl
@[simp] theorem syncTime_free (s : State) : (syncTime s).free = s.free := rfl

/-- A learning step counts, sets the reference where none is set, and draws one free value. -/
theorem modelLearn_learns {s : State} (h : learning s = true) (theta : Int) :
    (modelLearn theta s).time.model.steps = s.time.model.steps + 1 ∧ (modelLearn theta s).time.model.refSet = true
      ∧ (modelLearn theta s).free = s.free + 1 := by
  simp only [modelLearn, h, Bool.not_true, Bool.false_eq_true, if_false, model_newSecond, free_newSecond, syncTime_time, syncTime_free, nextFree,
    free_rebaseDom, model_rebaseDom, and_true]
  constructor
  · split <;> rfl
  · split
    · assumption
    · rfl

/-- MODEL_SNAP shows the model in the staging registers alone. -/
theorem rdS_modelSnap_c0 {s : State} (h0 : -(2 ^ 31) ≤ s.time.model.c0) (h1 : s.time.model.c0 < 2 ^ 31) :
    (modelSnap s).rdS pTIME F.BANK_C0_C0 = s.time.model.c0 := by
  simp only [modelSnap]
  rw [rdS_wr_other _ _ (by decide), rdS_wr_other _ _ (by decide), rdS_wrS_other _ _ (by decide), rdS_wr_other _ _ (by decide),
    rdS_wrS_other _ _ (by decide), rdS_wrS_other _ _ (by decide), rdS_wrS_other _ _ (by decide), rdS_wrS_same]
  exact toSigned_ofSigned_word h0 h1

/-- RESTORED is none of the bits that follow the time unit's state. -/
theorem restored_syncTime (s : State) : (syncTime s).rdB pTIME F.BANK_STATUS_RESTORED = s.rdB pTIME F.BANK_STATUS_RESTORED := by
  simp only [syncTime]
  rw [rdB_wr_other _ _ (by decide), rdB_wr_other _ _ (by decide), rdB_wr_other _ _ (by decide)]

theorem restored_modelLoad (s : State) : (modelLoad s).rdB pTIME F.BANK_STATUS_RESTORED = true := by
  rw [modelLoad, restored_syncTime, State.rdB, State.setF, rd_wr_same]
  rfl

/-- MODEL_CLEAR leaves the coefficients 0, no reference and nothing restored. -/
def modelCleared (s : State) : State :=
  syncTime ({ s with time := { s.time with model := { s.time.model with c0 := 0, c1 := 0, c2 := 0, a := 0, steps := 0, refSet := false } } }.wr
    pTIME F.BANK_STATUS_RESTORED 0)

theorem restored_modelCleared (s : State) : (modelCleared s).rdB pTIME F.BANK_STATUS_RESTORED = false := by
  rw [modelCleared, restored_syncTime, State.rdB, rd_wr_same]
  rfl

theorem execModelClear_done {s : State} {ag arg : Nat} (h : cmdCode s pTIME ag (arg = 0) (stateIn s pTIME [.ready, .run] && !s.banked) = rDONE) :
    execModelClear pTIME ag arg s = .next (record pTIME ag 4 0x49 rDONE (modelCleared s)) := congrArg Host.Outcome.next (command_done h _)

theorem rdB_record (s : State) (p ag idx op code q : Nat) (f : Field) (i j : Nat) : (record p ag idx op code s).rdB q f i j = s.rdB q f i j := rfl

/-! ### Banked time (R421, R427) -/

theorem execTempStaleTimeout_host {s : State} (h : s.rdB pTIME F.BANK_CFG_TEMP_SRC = true) :
    execTempStaleTimeout s = .next (syncTime (s.setF pTIME F.BANK_STATUS_TEMP_STALE)) := by
  rw [execTempStaleTimeout, if_pos h]

/-- Banked time past its limit: EXPIRED is raised. -/
def bankExpired (s : State) : State := withLine 326 (fun s => s.setF pTIME F.BANK_STATUS_EXPIRED) (syncElapsed s)

theorem execBankExpiry_banked {s : State} (h : s.banked = true) : execBankExpiry s = .next { bankExpired s with time := { (bankExpired s).time with
    ppsHeld := true, ppsOut := (bankExpired s).time.ppsOut && !(bankExpired s).rdB pTIME F.BANK_LIMIT_PPS_SQ_EXP } } := by
  simp only [execBankExpiry, h, Bool.not_true, Bool.false_eq_true, if_false]
  rfl

/-! ### Pulses (R431 to R433) -/

section ppsIn
variable {s : State} {rise : Bool} {l : Nat} (hf : l + s.rd pTIME F.PPS_IN_CFG_FILT * 4 * nsU ≤ s.now)
  (hen : s.rdB pTIME F.PPS_IN_CFG_EN = true) (hedge : rise ≠ s.rdB pTIME F.PPS_IN_CFG_EDGE)
include hf hen hedge

theorem ppsInEdge_extra {t : Nat} (ht : s.time.ppsInAt = some t) (hl : l < t + 900000000 * nsU) :
    ppsInEdge rise l s = s.addSat pTIME F.PPS_IN_STAT_EXTRA := by
  simp [ppsInEdge, Nat.not_lt.mpr hf, hen, hedge, ht, hl]

/-- An edge at its second that is no domain's source is noted. -/
theorem ppsInEdge_seen (ht : ∀ t, s.time.ppsInAt = some t → t + 900000000 * nsU ≤ l) (hA : s.rd pTIME F.DOM_CFG_SRC 0 ≠ 1)
    (hB : s.rd pTIME F.DOM_CFG_SRC 1 ≠ 1) :
    ppsInEdge rise l s = { s with time := { s.time with ppsInAt := some l } }.setF pTIME F.PPS_IN_STAT_SEEN := by
  have hpass : ¬ ((s.now < l + s.rd pTIME F.PPS_IN_CFG_FILT * 4 * nsU || !s.rdB pTIME F.PPS_IN_CFG_EN
      || rise = s.rdB pTIME F.PPS_IN_CFG_EDGE) = true) := by
    simp [Nat.not_lt.mpr hf, hen, hedge]
  have hsrc (d : Nat) (hk : fkey pTIME F.DOM_CFG_SRC d 0 ≠ fkey pTIME F.PPS_IN_STAT_SEEN 0 0) (h : s.rd pTIME F.DOM_CFG_SRC d ≠ 1) :
      ({ s with time := { s.time with ppsInAt := some l } }.setF pTIME F.PPS_IN_STAT_SEEN).rd pTIME F.DOM_CFG_SRC d ≠ 1 := by
    rw [State.setF, rd_wr_other _ _ hk]
    exact h
  rw [ppsInEdge, if_neg hpass]
  refine (if_neg ?first).trans ?_
  case first =>
    cases hat : s.time.ppsInAt with
    | none => simp
    | some t => simpa using ht t hat
  simp only [List.foldl_cons, List.foldl_nil]
  rw [if_neg (hsrc 0 (by decide) hA), if_neg (hsrc 1 (by decide) hB)]

end ppsIn

theorem ppsOutEdge_rises {s : State} (hen : s.rdB pTIME F.PPS_OUT_CFG_EN = true)
    (hl : s.rdB pTIME F.PPS_OUT_CFG_SQ_NOLOCK = false ∨ s.time.everLocked = true)
    (hb : s.time.ppsHeld = false ∨ s.rdB pTIME F.BANK_LIMIT_PPS_SQ_EXP = false) (hd : sharedDriven s = true) (hdue : ppsDue s = true) :
    ppsOutEdge true s = { s with time := { s.time with ppsOut := true } } := by
  have hlocked : (!s.rdB pTIME F.PPS_OUT_CFG_SQ_NOLOCK || s.time.everLocked) = true := by rcases hl with h | h <;> simp [h]
  have hsilent : ppsSilent s = false := by rcases hb with h | h <;> simp [ppsSilent, h]
  simp [ppsOutEdge, hen, hlocked, hsilent, hd, hdue]

/-! ### Timed outputs, captures and triggers (R434 to R438) -/

theorem toutEdge_due {s : State} {n : Nat} {x : Plan} (hx : toutPlan s n = some x) (hd : instantDue s x (s.toutS n) = true) :
    toutEdge n true s = setTout n true (setToutS n (x.fired (s.toutS n)) s) := by
  simp [toutEdge, hx, hd]

/-- An edge of a capture input that takes both goes into its FIFO, where there is room. -/
theorem tinEdge_captures {s : State} {k l : Nat} {rise : Bool} (hf : l + s.rd pTIME F.TIN_CFG_FILT k * 4 * nsU ≤ s.now)
    (hen : s.rdB pTIME F.TIN_CFG_EN k = true) (he : s.rd pTIME F.TIN_CFG_EDGE k = 2) (hlen : (s.time.tin.get [] k).length < 16) :
    tinEdge k rise l s = { srcEvent 328 s with time := { s.time with
      tin := s.time.tin.put [] k (s.time.tin.get [] k ++ [(⟨rise, s.selAt l / 1024 * 1024⟩ : TinRec)]) } }.wr pTIME F.TIN_CFG_COUNT
        ((s.time.tin.get [] k).length + 1) k := by
  have htime : (srcEvent 328 s).time = s.time := by rw [srcEvent_frame]
  simp [tinEdge, Nat.not_lt.mpr hf, hen, he, Nat.not_le.mpr hlen, htime]

theorem tinPop_empty {s : State} {k : Nat} (h : s.time.tin.get [] k = []) : tinPop k s = s.wr pTIME F.TIN_POP_VALID 0 k := by
  rw [tinPop, h]

/-- The oldest capture leaves its FIFO into the POP registers. -/
theorem tinPop_record {s : State} {k : Nat} {x : TinRec} {l : List TinRec} (h : s.time.tin.get [] k = x :: l) :
    (tinPop k s).time.tin.get [] k = l ∧ (tinPop k s).rd pTIME F.TIN_POP_NS k = tNs x.time % 2 ^ 30
      ∧ (tinPop k s).rdB pTIME F.TIN_POP_RISE k = x.rise ∧ (tinPop k s).rdB pTIME F.TIN_POP_VALID k = true := by
  simp only [tinPop, h]
  refine ⟨SMap.get_put_same .., ?ns, ?rise, ?valid⟩
  case ns =>
    rw [rd_wr_apart _ _ _ _ (by decide), rd_wr_apart _ _ _ _ (by decide), rd_wr_apart _ _ _ _ (by decide), rd_wr_same]
    rfl
  case rise =>
    rw [rdB_wr_apart _ _ _ _ (by decide), rdB_wr_apart _ _ _ _ (by decide), rdB_wr_apart _ _ _ _ (by decide), rdB_wr_apart _ _ _ _ (by decide), State.rdB, rd_wr_same]
    cases x.rise <;> rfl
  case valid =>
    rw [rdB_wr_apart _ _ _ _ (by decide), rdB_wr_apart _ _ _ _ (by decide), rdB_wr_apart _ _ _ _ (by decide), rdB_wr_apart _ _ _ _ (by decide),
      rdB_wr_apart _ _ _ _ (by decide), State.rdB, rd_wr_same]
    rfl

theorem triggerFire_due {s : State} {n : Nat} {x : Plan} (hx : trigPlan s n = some x) (hd : instantDue s x (s.trigS n) = true) :
    triggerFire n s = (List.range 4).foldl (fun u r => fireEngine r n (x.instant (s.trigS n)).toNat u)
      ((List.range 48).foldl (fun u k => fireGate k n (x.instant (s.trigS n)).toNat u)
        (setTrigS n (x.fired (s.trigS n)) (s.wr pTIME F.TRIG_COUNT_COUNT ((s.trigS n).next % s.rd pTIME F.TRIG_CFG_MODULUS n) n))) := by
  simp only [triggerFire, hx, hd, Bool.not_true, Bool.false_eq_true, if_false]

/-- Settles O35: the model by what each command leaves of it, an edge by what its input asks. -/
theorem modelAndPulseCommandsComplete : Obligations.ModelAndPulseCommandsComplete := by
  intro ag arg n k l theta s
  refine ⟨?evaluate, ?rests, ?learns, ?stale, ?expiry, ?snap, ?load, ?save, ?seen, ?extra, rfl, ?ppsOut, rfl, ?tout, ?capture, ?pop, ?popEmpty, ?trigger⟩
  case evaluate =>
    rintro hr hb _ rfl
    exact congrArg Host.Outcome.next (modelEvaluate_unbanked hr hb theta)
  case rests => exact fun h => congrArg Host.Outcome.next (modelLearn_resting h theta)
  case learns => exact fun h => ⟨modelLearn theta s, rfl, modelLearn_learns h theta⟩
  case stale => exact fun h => execTempStaleTimeout_host h
  case expiry =>
    rintro h _ rfl
    have hexp := execBankExpiry_banked h
    constructor
    · intro hsq
      rw [show (bankExpired s).rdB pTIME F.BANK_LIMIT_PPS_SQ_EXP = true from hsq, Bool.not_true, Bool.and_false] at hexp
      exact hexp
    · intro hsq
      rw [show (bankExpired s).rdB pTIME F.BANK_LIMIT_PPS_SQ_EXP = false from hsq, Bool.not_false, Bool.and_true] at hexp
      exact hexp
  case snap => exact fun h => ⟨modelSnap s, congrArg Host.Outcome.next (command_done h _), rfl, fun h0 h1 => rdS_modelSnap_c0 h0 h1⟩
  case load =>
    intro h
    refine ⟨⟨congrArg Host.Outcome.next (command_done h _), rfl, rfl, restored_modelLoad s⟩, _, execModelClear_done h, rfl, rfl, rfl, rfl, rfl, ?_⟩
    rw [rdB_record, restored_modelCleared]
  case save => exact fun h => congrArg Host.Outcome.next (command_done h _)
  case seen => exact fun rise hf hen hedge ht hA hB => congrArg Host.Outcome.next (ppsInEdge_seen hf hen hedge ht hA hB)
  case extra => exact fun rise t hen hf hedge ht hl => congrArg Host.Outcome.next (ppsInEdge_extra hf hen hedge ht hl)
  case ppsOut => exact fun hen hl hb hd hdue => congrArg Host.Outcome.next (ppsOutEdge_rises hen hl hb hd hdue)
  case tout => exact fun x hx hd => congrArg Host.Outcome.next (toutEdge_due hx hd)
  case capture =>
    rintro rise hf hen he _ rfl hlen
    refine ⟨_, congrArg Host.Outcome.next (tinEdge_captures hf hen he hlen), SMap.get_put_same .., ?_⟩
    rw [rd_wr_same]
    rfl
  case pop => exact fun x t h => ⟨tinPop k s, rfl, tinPop_record h⟩
  case popEmpty => exact fun h => congrArg Host.Outcome.next (tinPop_empty h)
  case trigger =>
    rintro x hx hd _ rfl
    exact congrArg Host.Outcome.next (triggerFire_due hx hd)

end Sys2Proof.Machine
end

section
/-! SUPPORT. The mate interface (R443 to R467): the configuration, the heartbeats and the paths, the claim, takeover, forwarding and the link, and what
crosses the mate link. -/
namespace Sys2Proof.Machine

/-! ### Configuration (R443, R451) -/

theorem modeWrite_done {ag v : Nat} {w : View} {s : State} (h : gateCode s pMATE 0x040 w ag v (fun l => nv s pMATE l F.MATE_CFG_MODE != 3)
      (fun l => !changes s pMATE l F.MATE_CFG_MODE || s.inState pMATE .ready) noBusy = rDONE) :
    modeWrite w ag v s = record pMATE ag 16 0xFF rDONE
      (modeTaken s (gateVals s pMATE 0x040 w v) ((gateVals s pMATE 0x040 w v).foldl (storeVal pMATE ag) s)) := regWrite_done (by decide) h

theorem fwdWrite_done {ag v k half : Nat} {w : View} {s : State}
    (h : gateCode s pMATE (0x800 + 8 * k + 4 * half) w ag v (fwdRange s k half) (fwdState s k half) noBusy = rDONE) :
    fwdWrite k half w ag v s = record pMATE ag ((0x800 + 8 * k + 4 * half) / 4) 0xFF rDONE
      (withFwd (fun u => (gateVals s pMATE (0x800 + 8 * k + 4 * half) w v).foldl (storeVal pMATE ag) u) s) := regGate_done (by decide) h

/-! ### Heartbeats and paths (R456 to R458) -/

theorem execHeartbeatSend_unlinked {s : State} (hb : beating s = true) (hu : mateUp s = false) :
    execHeartbeatSend s = .next (emit (.heartbeat (heartbeatWord s)) { s with mate := { s.mate with hbSeq := (s.mate.hbSeq + 1) % 256 } }) := by
  have hup : mateUp { s with mate := { s.mate with hbSeq := (s.mate.hbSeq + 1) % 256 } } = false := hu
  simp [execHeartbeatSend, hb, hup]

theorem execHeartbeatSend_linked {s : State} (hb : beating s = true) (hu : mateUp s = true) :
    execHeartbeatSend s = .next (emit (.heartbeat (heartbeatWord s))
      (mateSend 0 0 0 (beBytes 8 (heartbeatWord s)) { s with mate := { s.mate with hbSeq := (s.mate.hbSeq + 1) % 256 } })) := by
  have hup : mateUp { s with mate := { s.mate with hbSeq := (s.mate.hbSeq + 1) % 256 } } = true := hu
  simp [execHeartbeatSend, hb, hup]

section heartbeatRx
variable {path word : Nat} {s : State} (hw : watching s = true)
include hw

/-- A valid word by any path but the mate link's is a heartbeat, whatever the link's CRC. -/
theorem heartbeatRx_direct (hp : path ≠ 0) (ha : bitsOf word 63 56 = 0xA5) (hc : crc16 word = word % 65536)
    (hq : (s.path path).seq ≠ some (bitsOf word 55 48)) (crc : Bool) : heartbeatRx path word crc s = heartbeat path word s := by
  simp [heartbeatRx, hp, hw, ha, hc, hq]

theorem heartbeatRx_linked (hp : path = 0) (hu : mateUp s = true) (ha : bitsOf word 63 56 = 0xA5) (hc : crc16 word = word % 65536)
    (hq : (s.path path).seq ≠ some (bitsOf word 55 48)) : heartbeatRx path word true s = heartbeat path word s := by
  subst hp
  simp [heartbeatRx, hu, hw, ha, hc, hq]

theorem heartbeatRx_invalid (hp : path ≠ 0)
    (h : bitsOf word 63 56 ≠ 0xA5 ∨ crc16 word ≠ word % 65536 ∨ (s.path path).seq = some (bitsOf word 55 48)) (crc : Bool) :
    heartbeatRx path word crc s = s.updHb path (fun x => { x with run := 0 }) := by
  rcases h with h | h | h <;> simp [heartbeatRx, hp, hw, h]

theorem pathLoss_good (hg : s.rdB pMATE (pathF path) = true) : pathLoss path s = peerChanged s.peerState
    (srcEvent 332 ((withFwd (pathDown path) s).wr pMATE (if path = 0 then F.MATE_EVENT_PATH_A_LOST else F.MATE_EVENT_PATH_B_LOST) 1)) := by
  simp only [pathLoss, hw, hg, Bool.not_true, Bool.or_self, Bool.false_eq_true, if_false]
  rfl

end heartbeatRx

theorem failEnd_failing {s : State} (h : s.mate.failing = true) : failEnd s
    = withFwd (fun u => (releaseFns { u with mate := { u.mate with failing := false } }).wr pMATE F.MATE_STATUS_FWD_HOLD 1) s := by
  simp only [failEnd, h, Bool.not_true, Bool.false_eq_true, if_false]

/-! ### The claim (R453, R454) -/

theorem execClaim_done {ag arg : Nat} {s : State} (hr : s.role ≠ 3) (hi : s.mate.claim = .idle)
    (h : cmdCode s pMATE ag (arg = 0) (s.inState pMATE .run && s.mateMode = 1 && !s.rdB pMATE F.MATE_EVENT_ID_CONFLICT) = rDONE) :
    execClaim pMATE ag arg s = .next (record pMATE ag 4 0x42 rDONE (claimStart s)) := by
  rw [execClaim]
  simp only [decide_true, Bool.true_and]
  rw [command_done h]
  simp [hr, hi]

theorem claimAssert_waiting {s : State} (hc : s.mate.claim = .waiting) (hr : s.inState pMATE .run = true)
    (hi : s.rdB pMATE F.MATE_STATUS_CLAIM_IN = false) (hp : peerClaims s = false) :
    claimAssert s = { s with mate := { s.mate with claim := .guard } }.wr pMATE F.MATE_STATUS_CLAIM_OUT 1 := by
  simp [claimAssert, hc, hr, hi, hp]

/-- A claim no takeover waits for ends alone. -/
theorem claimOver_alone {s : State} (h : s.mate.taking = false) : claimOver s = { s with mate := { s.mate with claim := .idle } } :=
  if_neg (by simp [h])

section guard
variable {s : State} (hc : s.mate.claim = .guard)
include hc

theorem claimGuard_unopposed (hi : s.rdB pMATE F.MATE_STATUS_CLAIM_IN = false) : claimGuard s = claimOver (setRole 3 s) := by
  simp [claimGuard, hc, hi]

theorem claimGuard_yields (hi : s.rdB pMATE F.MATE_STATUS_CLAIM_IN = true) (hid : s.mateId = 0) :
    claimGuard s = { s with mate := { s.mate with claim := .yield } } := by
  simp [claimGuard, hc, hi, hid]

theorem claimGuard_loses (hi : s.rdB pMATE F.MATE_STATUS_CLAIM_IN = true) (hid : s.mateId = 1) :
    claimGuard s = claimOver (setRole 1 ((s.wr pMATE F.MATE_STATUS_CLAIM_OUT 0).setF pMATE F.MATE_EVENT_CLAIM_LOST)) := by
  simp [claimGuard, hc, hi, hid]

end guard

theorem claimBlocked_waiting {s : State} (hc : s.mate.claim = .waiting) (ht : s.mate.taking = false) :
    claimBlocked s = srcEvent 334 (s.wr pMATE F.MATE_EVENT_CLAIM_BLOCKED 1) := by
  have htaking : (srcEvent 334 (s.setF pMATE F.MATE_EVENT_CLAIM_BLOCKED)).mate.taking = false := by rw [srcEvent_frame]; exact ht
  simp only [claimBlocked, hc, htaking, bne_self_eq_false, Bool.false_eq_true, if_false]
  rfl

theorem mate_dropClaim (s : State) : (dropClaim s).mate = { s.mate with claim := .idle } := rfl

theorem execMateRelease_done {ag arg : Nat} {s : State} (ht : s.mate.taking = false)
    (h : cmdCode s pMATE ag (arg = 0) (s.inState pMATE .run && s.mateMode = 1) = rDONE) :
    execMateRelease pMATE ag arg s = .next (record pMATE ag 4 0x43 rDONE (dropClaim s)) := by
  rw [execMateRelease]
  simp only [decide_true, Bool.true_and]
  rw [command_done h]
  simp [mate_dropClaim, ht]

/-! ### Arbiter mode (R466) -/

section arbiter
variable {s : State}

/-- A rise of the grant takes over. -/
theorem arbGrant_rises (hw : s.rdB pMATE F.MATE_STATUS_ARB_GRANT = false) (hm : (s.wr pMATE F.MATE_STATUS_ARB_GRANT 1).mateMode = 2)
    (hr : (s.wr pMATE F.MATE_STATUS_ARB_GRANT 1).inState pMATE .run = true) :
    arbGrant true s = takeoverEnd (setRole 3 (takeoverBegin (s.wr pMATE F.MATE_STATUS_ARB_GRANT 1))) := by
  have hone : b2n true = 1 := rfl
  simp [arbGrant, hw, hm, hr, hone]

theorem arbGrant_falls {t : State} (ht : t = { s.wr pMATE F.MATE_STATUS_ARB_GRANT 0 with mate := { s.mate with barred := false } })
    (hw : s.rdB pMATE F.MATE_STATUS_ARB_GRANT = true) (hm : t.mateMode = 2) (hr : t.inState pMATE .run = true) : arbGrant false s = setRole 1 t := by
  have hgo : (s.rdB pMATE F.MATE_STATUS_ARB_GRANT = false || t.mateMode != 2 || !t.inState pMATE .run) = false := by simp [hw, hm, hr]
  subst ht
  exact (if_neg (ne_true_of_eq_false hgo)).trans (if_neg Bool.false_ne_true)

end arbiter

/-! ### Forwarding and the link (R450, R459, R465) -/

theorem execRejoin_done {ag arg : Nat} {s : State} (h : cmdCode s pMATE ag (arg = 0) (s.inState pMATE .run && matePresent s) = rDONE) :
    execRejoin pMATE ag arg s = .next (record pMATE ag 4 0x44 rDONE (withFwd (fun u => u.wr pMATE F.MATE_STATUS_FWD_HOLD 0) s)) :=
  congrArg Host.Outcome.next (command_done h _)

theorem execResync_done {ag arg : Nat} {s : State} (h : cmdCode s pMATE ag (arg = 0) (s.inState pMATE .run) = rDONE) :
    execResync pMATE ag arg s = .next (record pMATE ag 4 0x45 rDONE (resync s)) := congrArg Host.Outcome.next (command_done h _)

/-- The link is up for this device. -/
def linkUp (s : State) : State := withFwd (fun u => u.wr pMATE F.MATE_STATUS_LINK_STATE lUP) s

theorem mateLinkUp_trained {s : State} (hen : s.rdB pMATE F.MATE_CFG_LINK_EN = true)
    (hl : s.rd pMATE F.MATE_STATUS_LINK_STATE = lTRAINING ∨ s.rd pMATE F.MATE_STATUS_LINK_STATE = lDOWN) (hs : stateIn s pMATE [.ready, .run] = true) :
    mateLinkUp s = if (linkUp s).inState pMATE .run && (linkUp s).peerState = 1 then resync (linkUp s) else linkUp s := by
  have hstate : (decide (s.rd pMATE F.MATE_STATUS_LINK_STATE = lTRAINING) || decide (s.rd pMATE F.MATE_STATUS_LINK_STATE = lDOWN)) = true := by
    simpa using hl
  simp only [mateLinkUp, hen, hstate, hs, Bool.not_true, Bool.or_self, Bool.false_eq_true, if_false]
  rfl

/-- Settles O36: a register's write and a command by the shared gate, every other step by the branch its hypotheses name. -/
theorem mateCommandsComplete : Obligations.MateCommandsComplete := by
  intro ag arg v k half path word w s
  refine ⟨?mode, ?fwd, ?unlinked, ?linked, ?direct, ?byLink, ?invalid, ?loss, ?failEnd, ?claim, ?assert, ?unopposed, ?yields, ?loses, fun _ => rfl, ?blocked,
    ?release, ?rises, ?falls, ?rejoin, ?resync, ?up, ?down⟩
  case mode => exact fun h => congrArg Host.Outcome.next (modeWrite_done h)
  case fwd => exact fun h => congrArg Host.Outcome.next (fwdWrite_done h)
  case unlinked => exact fun hb hu => execHeartbeatSend_unlinked hb hu
  case linked =>
    rintro hb _ rfl hu
    exact execHeartbeatSend_linked hb hu
  case direct => exact fun hp hw ha hc hq crc => congrArg Host.Outcome.next (heartbeatRx_direct hw hp ha hc hq crc)
  case byLink => exact fun hp hu hw ha hc hq => congrArg Host.Outcome.next (heartbeatRx_linked hw hp hu ha hc hq)
  case invalid => exact fun hp hw h crc => congrArg Host.Outcome.next (heartbeatRx_invalid hw hp h crc)
  case loss =>
    rintro hw hg _ rfl
    exact congrArg Host.Outcome.next (pathLoss_good hw hg)
  case failEnd => exact fun h => congrArg Host.Outcome.next (failEnd_failing h)
  case claim => exact fun hr hi h => execClaim_done hr hi h
  case assert => exact fun hc hr hi hp => congrArg Host.Outcome.next (claimAssert_waiting hc hr hi hp)
  case unopposed => exact fun hc hi ht => congrArg Host.Outcome.next ((claimGuard_unopposed hc hi).trans (claimOver_alone ht))
  case yields => exact fun hc hi hid => congrArg Host.Outcome.next (claimGuard_yields hc hi hid)
  case loses => exact fun hc hi hid ht => congrArg Host.Outcome.next ((claimGuard_loses hc hi hid).trans (claimOver_alone ht))
  case blocked => exact fun hc ht => congrArg Host.Outcome.next (claimBlocked_waiting hc ht)
  case release => exact fun ht h => execMateRelease_done ht h
  case rises =>
    rintro _ rfl hw hm hr
    exact congrArg Host.Outcome.next (arbGrant_rises hw hm hr)
  case falls => exact fun s1 hs1 hw hm hr => congrArg Host.Outcome.next (arbGrant_falls hs1 hw hm hr)
  case rejoin => exact fun h => execRejoin_done h
  case resync => exact fun h => execResync_done h
  case up =>
    rintro hen hl hs _ rfl
    constructor
    · exact fun hp => congrArg Host.Outcome.next
        ((mateLinkUp_trained hen hl hs).trans (if_neg (by simp [show (linkUp s).peerState ≠ 1 from hp])))
    · exact fun hp hr => congrArg Host.Outcome.next ((mateLinkUp_trained hen hl hs).trans
        (if_pos (by simp [show (linkUp s).peerState = 1 from hp, show (linkUp s).inState pMATE .run = true from hr])))
  case down => exact fun h => congrArg Host.Outcome.next (if_pos h)

/-! ### What the mate link brings (R447, R448, R459) -/

section onMate
variable {s : State} (hu : mateUp s = true) (hp : pinsTested s = false)
include hu hp

/-- A whole frame is taken while the link is UP and the block runs. -/
theorem onMate_taken (hr : s.inState pMATE .run = true) (f : State → State) : onMate true f s = f s := by
  simp [onMate, hu, hp, hr]

theorem onMate_damaged (f : State → State) : onMate false f s = count (cChip 80) s := by
  simp [onMate, hu, hp]

end onMate

/-- A group is inserted for a record that brings one, and removed for one that withdraws it (R155). -/
theorem mirrorRx_brings {n : Nat} (h : recKind n = 1 ∨ recKind n = 2) (s : State) : mirrorRx n s = queueSeq
    ⟨true, recKey n, 0, learnedAction (recPort n), false, !recMate n, none, recKind n, s.tick, false, true⟩ s := by
  rcases h with h | h <;> simp [mirrorRx, h]

theorem mirrorRx_withdraws {n : Nat} (h : recKind n = 3) (s : State) :
    mirrorRx n s = queueSeq ⟨false, recKey n, 0, 0, false, false, none, 3, s.tick, false, true⟩ s := by
  simp [mirrorRx, h]

section learnRx
variable {n : Nat} {s : State} (ho : singleOwner s = true) (hp : recPort n < 48)
include ho hp

theorem learnRx_new (h : emFind s 0 (recKey n) = none) : learnRx n s = learnEvent (recPort n) (recKind n) (recKey n) true s := by
  simp [learnRx, ho, Nat.not_le.mpr hp, h]

theorem learnRx_moves {l x : Nat} {g : Group} (h : emFind s 0 (recKey n) = some (l, x, g)) (hm : moves g (recPort n) = true) :
    learnRx n s = moveRule (recPort n) (recKey n) g true s := by
  simp [learnRx, ho, Nat.not_le.mpr hp, h, Option.filter, hm]

theorem learnRx_stays {l x : Nat} {g : Group} (h : emFind s 0 (recKey n) = some (l, x, g)) (hm : moves g (recPort n) = false) :
    learnRx n s = learnEvent (recPort n) (recKind n) (recKey n) true s := by
  simp [learnRx, ho, Nat.not_le.mpr hp, h, Option.filter, hm]

end learnRx

theorem slice_whole {d : List Byte} {n : Nat} (h : d.length = n) : slice d 0 n = d := by
  simp [slice, ← h]

/-- A touch of one key refreshes its group. -/
theorem touchRx_one {l x : Nat} {d : List Byte} {g : Group} {s : State} (h : emFind s 0 (ofBe d) = some (l, x, g)) (hd : d.length = 8) :
    touchRx d s = setGroups (s.tab.groups.insert l { g with ts := s.tick }) s := by
  simp [touchRx, hd, List.range_succ, slice_whole hd, h]

/-! ### Snapshots (R459) -/

/-- The servo part of a snapshot is held word by word. -/
theorem snapshotRx_servos {d : List Byte} (hd : d.length = 24) (s : State) :
    (snapshotRx d s).rd pMATE F.MATE_PEER_SERVO_DATA 0 0 = ofBe (slice d 0 4) % 2 ^ 32
      ∧ (snapshotRx d s).rd pMATE F.MATE_PEER_SERVO_DATA 1 2 = ofBe (slice d 20 4) % 2 ^ 32
      ∧ snapshotRx d s = { s with reg := (snapshotRx d s).reg } := by
  rw [snapshotRx, if_pos hd]
  refine ⟨?first, ?last, rfl⟩
  case first =>
    simp only [List.range_succ, List.range_zero, List.nil_append, List.cons_append, List.foldl_cons, List.foldl_nil]
    rw [rd_wr_other _ _ (by decide), rd_wr_other _ _ (by decide), rd_wr_other _ _ (by decide), rd_wr_other _ _ (by decide),
      rd_wr_other _ _ (by decide), rd_wr_same]
    rfl
  case last =>
    simp only [List.range_succ, List.range_zero, List.nil_append, List.cons_append, List.foldl_cons, List.foldl_nil]
    rw [rd_wr_same]
    rfl

theorem snapshotSend_servos {s : State} (hb : beating s = true) (hc : s.rd pMATE F.MATE_POL_MIR_POL_COUNT = 0) :
    snapshotSend s = mateSend 6 0 0 (servoPayload s) s := by
  simp [snapshotSend, hb, hc]

section touchSend
variable {s : State} (hb : beating s = true)
include hb

theorem touchSend_none (h : s.tab.touched = []) : touchSend s = countBy (cChip 83) 0 s := by
  have hsame : { s with tab := { s.tab with touched := [] } } = s := by rw [← h]
  simp [touchSend, hb, h, hsame]

theorem touchSend_one (h0 : 0 < s.tab.touched.length) (h1 : s.tab.touched.length ≤ 2000) : touchSend s
    = mateSend 7 0 0 (s.tab.touched.flatMap (beBytes 8)) (countBy (cChip 83) 0 { s with tab := { s.tab with touched := [] } }) := by
  have hexcess : s.tab.touched.length - 4096 = 0 := by omega
  have hall : s.tab.touched.take 4096 = s.tab.touched := List.take_of_length_le (by omega)
  have hframe : s.tab.touched.take 2000 = s.tab.touched := List.take_of_length_le h1
  have hrest : s.tab.touched.drop 2000 = [] := List.drop_of_length_le h1
  have hlast : s.tab.touched.drop 4000 = [] := List.drop_of_length_le (by omega)
  have hsome : s.tab.touched ≠ [] := List.ne_nil_of_length_pos h0
  simp [touchSend, hb, hexcess, hall, hframe, hrest, hlast, hsome]

end touchSend

/-! ### The pair lock (R460) -/

section plockRx
variable {d : List Byte} {s : State}

theorem plockRx_silent (h : plSpeaks (byteAt d 0) (byteAt d 1) (ofBe (slice d 4 4)) = false) : plockRx d s = s := by
  simp [plockRx, h]

theorem plockRx_request (h0 : byteAt d 0 = 0) (h : plSpeaks 0 (byteAt d 1) (ofBe (slice d 4 4)) = true) (ho : singleOwner s = true) :
    plockRx d s = (let q := plDecide (byteAt d 1 / 16) (byteAt d 1 % 16) (ofBe (slice d 4 4)) s
      mateSend 4 0 0 (plPayload 1 (byteAt d 1) q.2) q.1) := by
  simp [plockRx, h0, h, ho]

theorem plockRx_answer {ag l : Nat} (hl : s.mate.plReq = some (ag, l)) (h0 : byteAt d 0 = 1) (h1 : byteAt d 1 = 16 * s.mateId + ag)
    (h : plSpeaks 1 (byteAt d 1) (ofBe (slice d 4 4)) = true) :
    plockRx d s = record pMATE ag 21 0xFF (ofBe (slice d 4 4)) { s with mate := { s.mate with plReq := none } } := by
  rw [h1] at h
  simp [plockRx, h0, h1, h, hl]

end plockRx

section plockWrite
variable {ag v : Nat} {w : View} {s : State} (h : plockCode s ag w v = rDONE) (ho : singleOwner s = true)
include h ho

theorem plockWrite_acquires (ha : plAcq (newVals s pMATE .mate 0x054 w v) = true) (hr : plRel (newVals s pMATE .mate 0x054 w v) = false)
    (h0 : v % 2 ^ 20 ≠ 0) (h1 : v % 2 ^ 20 ≤ 1000000) :
    plockWrite w ag v s = record pMATE ag 21 0xFF (plDecide s.mateId ag v s).2 (plDecide s.mateId ag v s).1 := by
  norm_num at h0 h1
  simp [plockWrite, h, ha, hr, ho, h0, Nat.not_lt.mpr h1]

theorem plockWrite_releases (ha : plAcq (newVals s pMATE .mate 0x054 w v) = false) (hr : plRel (newVals s pMATE .mate 0x054 w v) = true) :
    plockWrite w ag v s = record pMATE ag 21 0xFF (plDecide s.mateId ag v s).2 (plDecide s.mateId ag v s).1 := by
  simp [plockWrite, h, ha, hr, ho]

end plockWrite

theorem execPlockTimeout_waits {ag l : Nat} {s : State} (h : s.mate.plReq = some (ag, l)) :
    execPlockTimeout s = .next (record pMATE ag 21 0xFF rTIMEOUT { s with mate := { s.mate with plReq := none } }) := by
  rw [execPlockTimeout, h]

/-! ### Gate commits (R461) -/

theorem gateCommitRx_performed {d : List Byte} {s : State} (h : (gateCommit d s).1 = true) : gateCommitRx d s = (gateCommit d s).2 := if_pos h

theorem gateCommitRx_refused {d : List Byte} {s : State} (h : (gateCommit d s).1 = false) :
    gateCommitRx d s = srcEvent 334 (count (cChip 84) (gateCommit d s).2) := if_neg (ne_true_of_eq_false h)

/-- Settles O37: a whole frame reaches its handler (`onMate_taken`), whose branch the hypotheses name. -/
theorem mateFramesComplete : Obligations.MateFramesComplete := by
  intro ag v n tc q w d s
  refine ⟨fun hu hp hr => ?taken, ?damaged, ?noTouch, ?touches, ?snapshot, ?plock, ?timeout⟩
  case taken =>
    have hrx {f : State → State} {t : State} (h : f s = t) : Host.Outcome.next (onMate true f s) = (.next t : Res) := by
      rw [onMate_taken hu hp hr, h]
    refine ⟨hrx rfl, fun h => hrx (mirrorRx_brings h s), fun h => hrx (mirrorRx_withdraws h s), fun ho hq h => hrx (learnRx_new ho hq h),
      fun l x g ho hq h => ⟨fun hm => hrx (learnRx_moves ho hq h hm), fun hm => hrx (learnRx_stays ho hq h hm)⟩,
      fun l x g h hd => hrx (touchRx_one h hd), fun hd => ⟨snapshotRx d s, hrx rfl, snapshotRx_servos hd s⟩,
      fun l hl h0 h1 h => hrx (plockRx_answer hl h0 h1 h), fun h => hrx (plockRx_silent h), ?request,
      fun h => hrx (gateCommitRx_performed h), fun h => hrx (gateCommitRx_refused h)⟩
    rintro h0 h ho _ rfl
    exact hrx (plockRx_request h0 h ho)
  case damaged => exact fun hu hp => ⟨congrArg Host.Outcome.next (onMate_damaged hu hp _), congrArg Host.Outcome.next (onMate_damaged hu hp _)⟩
  case noTouch => exact fun hb h => congrArg Host.Outcome.next (touchSend_none hb h)
  case touches => exact fun hb h0 h1 => congrArg Host.Outcome.next (touchSend_one hb h0 h1)
  case snapshot => exact fun hb hc => congrArg Host.Outcome.next (snapshotSend_servos hb hc)
  case plock =>
    rintro _ rfl h ho
    exact ⟨fun ha hr h0 h1 => congrArg Host.Outcome.next (plockWrite_acquires h ho ha hr h0 h1),
      fun ha hr => congrArg Host.Outcome.next (plockWrite_releases h ho ha hr)⟩
  case timeout => exact fun l h => execPlockTimeout_waits h

end Sys2Proof.Machine
end

section
/-! SUPPORT. The host interface (R495 to R522): rings and their slots, held lines, the decoder and the time window, and the link's resets. -/
namespace Sys2Proof.Machine

/-! ### Ring entries (R502) -/

theorem ringWrite_done {n k ag v : Nat} {s : State} (h : ringCode s n k ag v = rDONE) :
    ringWrite n k ag v s = windowResult pHIF ag (0xA00000 + 64 * n + 4 * k) rDONE
      (prefetch n (ringEnable n (s.ringRd n F.RING_EN) ((entryVals s (wRING n) .ring (4 * k) v).foldl (storeVal (wRING n) ag) s))) := if_pos h

theorem ringWrite_refused {n k ag v c : Nat} {s : State} (hc : c ≠ rDONE) (h : ringCode s n k ag v = c) :
    ringWrite n k ag v s = windowResult pHIF ag (0xA00000 + 64 * n + 4 * k) c s := by
  subst h
  exact if_neg hc

/-! ### RX rings (R503) -/

section ringDelivery
variable {c : RingCopy} {s t : State} (hc : s.hif.waiting.find? (fun c => crosses s c.copy.frame) = some c)
  (ht : t = { s with hif := { s.hif with waiting := s.hif.waiting.erase c } })
include hc ht

/-- The oldest copy that reaches the host interface takes a slot of an open ring. -/
theorem ringDelivery_takes {u : State} (ho : ringOpen t c.ring 0 = true) (hu : u = takeSlot c.ring (holdLine c.ring (t.ringRd c.ring F.RING_DEV_IDX) t)) :
    ringDelivery s = prefetch c.ring { u with hif := { u.hif with
      slots := u.hif.slots ++ [(⟨c.ring, t.ringRd c.ring F.RING_DEV_IDX, c.copy, c.reason, c.code⟩ : RxSlot)] } } := by
  subst ht hu
  simp only [ringDelivery, hc, ho, if_true]

theorem ringDelivery_drops (ho : ringOpen t c.ring 0 = false) : ringDelivery s = dropHostCopy c.copy (count (cRing c.ring 0) t) := by
  subst ht
  simp only [ringDelivery, hc, ho, Bool.false_eq_true, if_false]

end ringDelivery

/-- The bytes a slot's copy delivers, and the state without the slot and its copy. -/
def slotBytes (s : State) (y : RxSlot) (x : Frame) : List Byte := if x.served then padFrame x.edited else copyBytes s x y.copy
def slotGone (y : RxSlot) (x : Frame) (ecc : Nat) (s : State) : State :=
  let s1 := { s with hif := { s.hif with slots := s.hif.slots.erase y } }
  dropHostCopy y.copy (if x.served then s1 else readData y.copy.frame ecc s1)

section slotWrite
variable {n ecc : Nat} {y : RxSlot} {x : Frame} {s : State} (hy : s.hif.slots.find? (fun y => y.ring = n) = some y)
  (hx : s.frames.find? y.copy.frame = some x) (hw : x.complete = true) (hcross : crosses s y.copy.frame = true)
include hy hx hw hcross

theorem slotWrite_whole {addr len : Nat} (hb : x.bad = false) (he : readBad ecc = false) (hl : 64 ≤ len) :
    slotWrite n addr len ecc s = completeSlot n y.idx (rxLine s y x (if len < (slotBytes s y x).length then 1 else 0))
      (emit (.dma addr ((slotBytes s y x).take len)) (slotGone y x ecc s)) := by
  simp only [slotWrite, hy, hx, hw, hcross, hb, he, Nat.not_lt.mpr hl, Bool.and_self, Bool.not_true, Bool.false_and, Bool.and_false, Bool.or_self, Bool.false_eq_true,
    if_false]
  rfl

theorem slotWrite_small {addr len : Nat} (hb : x.bad = false) (he : readBad ecc = false) (hl : len < 64) :
    slotWrite n addr len ecc s = completeSlot n y.idx
      [(slotAddr s n y.idx + 0x3C, cmplWord s n y.idx 3 y.reason (min 16383 (fullBytes s x y.copy).length))] (slotGone y x ecc s) := by
  simp only [slotWrite, hy, hx, hw, hcross, hb, he, hl, Bool.and_self, Bool.not_true, Bool.false_and, Bool.and_false, Bool.or_self, Bool.false_eq_true, if_false, if_true]
  rfl

/-- A cord whose data cannot be read completes as a bad frame (R230). -/
theorem slotWrite_unread {addr len : Nat} (hs : x.served = false) (he : readBad ecc = true) :
    slotWrite n addr len ecc s = completeSlot n y.idx (rxLine s y x 2) (slotGone y x ecc s) := by
  simp only [slotWrite, hy, hx, hw, hcross, hs, he, slotGone, Bool.and_self, Bool.not_true, Bool.not_false, Bool.or_true, Bool.false_eq_true, if_false, if_true]

end slotWrite

/-! ### TX rings and records (R504 to R506) -/

section txFetch
variable {n len dest ctrl tc : Nat} {d : List Byte} {s t u : State} (hn : nextTx s = some n)
  (ho : fabricOpen s = true ∨ ctrl % 4 = 2 ∨ s.emb.asleep = true) (ht : t = takeSlot n (holdLine n (s.ringRd n F.RING_DEV_IDX) s))
  (hu : u = prefetch n { t with hif := { t.hif with txNext := n + 1 } })
include hn ho ht hu

/-- The ring served next fetches its descriptor. -/
theorem txFetch_served : txFetch n len dest ctrl tc 0 d s = if descOk len dest ctrl tc 0 then sendHost n (s.ringRd n F.RING_DEV_IDX) dest ctrl tc (d.take len) u
    else txDone n (s.ringRd n F.RING_DEV_IDX) 1 9 none u := by
  subst hu ht
  have hopen : (fabricOpen s || ctrl % 4 = 2 || s.emb.asleep) = true := by simpa [or_assoc] using ho
  simp only [txFetch, hn, hopen, bne_self_eq_false, Bool.not_true, Bool.or_self, Bool.false_eq_true, if_false]

end txFetch

theorem txCompletion_plain {n : Nat} {y : TxDone} {s : State} (hy : s.hif.dones.find? (fun y => y.ring = n) = some y) (hr : y.rec_ = none) :
    txCompletion n s = completeSlot n y.idx [(slotAddr s n y.idx + 0x3C, cmplWord s n y.idx y.status y.reason 0)]
      { s with hif := { s.hif with dones := s.hif.dones.erase y } } := by
  simp only [txCompletion, hy, hr, List.nil_append]

theorem recordWrite_open {n : Nat} {r : List Byte} {l : List (Nat × List Byte)} {s t : State} (hl : s.tab.notices = (n, r) :: l)
    (ht : t = { s with tab := { s.tab with notices := l } }) (ho : ringOpen t n 2 = true) (hr : r.length = 16) :
    recordWrite s = completeSlot n (t.ringRd n F.RING_DEV_IDX)
      [(slotAddr t n (t.ringRd n F.RING_DEV_IDX), r ++ List.replicate 44 0),
        (slotAddr t n (t.ringRd n F.RING_DEV_IDX) + 0x3C, cmplWord t n (t.ringRd n F.RING_DEV_IDX) 0 0x10 0)]
      (prefetch n (takeSlot n (holdLine n (t.ringRd n F.RING_DEV_IDX) t))) := by
  have hall : r.take 16 = r := List.take_of_length_le (Nat.le_of_eq hr)
  subst ht
  simp only [recordWrite, hl, ho, hall, hr, if_true]

/-- The read of an open TX ring's next descriptor failed (R508). -/
theorem dmaError_early {n k : Nat} {s : State} (ho : ringOpen s n 1 = true) : dmaError n k false s = count (cRing n 1) (stopRing n 2
    (((withLine 337 (fun u => u.setF pHIF F.HIF_RING_ERR_ANY) (txDone n (s.ringRd n F.RING_DEV_IDX) 2 0 none (takeSlot n s))).wr
      pHIF F.HIF_RING_ERR_KIND k).wr pHIF F.HIF_RING_ERR_RING n)) := by
  simp only [dmaError, ho, Bool.false_eq_true, if_false, if_true]

/-! ### Held lines (R509) -/

theorem lineLeaves_held {n i : Nat} {x : HeldLine} {s : State} (hx : s.hif.lines.find? (fun x => x.ring = n && x.idx = i) = some x) :
    lineLeaves n i false s = releaseLine x s := by
  simp only [lineLeaves, hx, Bool.false_and, Bool.false_eq_true, if_false]

theorem lineLeaves_dirty {n i : Nat} {x : HeldLine} {s : State} (hx : s.hif.lines.find? (fun x => x.ring = n && x.idx = i) = some x) (hd : x.data ≠ []) :
    lineLeaves n i true s = releaseLine x s := by
  simp [lineLeaves, hx, hd]

/-! ### The decoder and the time window (R512 to R517) -/

section decoder
variable {v : Nat} {s : State} (hm : s.rd pHIF F.HIF_LINK_LINK_MODE = 1)
include hm

theorem hdmCommit_fits (hv : v % 2 ^ 28 = 0) (hw : windowBytes (s.rd pPEAT F.PEAT_CTRL_WIN_GIB) + 2 ^ 28 ≤ v) :
    hdmCommit v s = { s with hif := { s.hif with hdmSize := v, hdmErr := false } }.wr pHIF F.HIF_LINK_HDM_COMMITTED 1 :=
  if_pos (by simp only [hm, hv, hw, decide_true, Bool.and_self])

theorem hdmCommit_fails (hv : v % 2 ^ 28 ≠ 0 ∨ v < windowBytes (s.rd pPEAT F.PEAT_CTRL_WIN_GIB) + 2 ^ 28) :
    hdmCommit v s = { s with hif := { s.hif with hdmErr := true } } := by
  have hno : ¬(s.rd pHIF F.HIF_LINK_LINK_MODE = 1 && v % 2 ^ 28 = 0 && windowBytes (s.rd pPEAT F.PEAT_CTRL_WIN_GIB) + 2 ^ 28 ≤ v) = true := by
    simp only [Bool.and_eq_true, decide_eq_true_eq]
    omega
  exact (if_neg hno).trans (if_pos hm)

end decoder

section timeRead
variable {k : Nat} {s : State} (hc : s.rdB pHIF F.HIF_LINK_HDM_COMMITTED = true) (hr : s.inState pTIME .reset = false)
include hc hr

theorem timeRead_first : timeRead 0 s = emit (.cxlData (s.hif.hdmSize - 4096) (timeSnapshot s).1 false) (timeSnapshot s).2 := by
  rw [timeRead, if_neg (by simp [hc, hr]), if_pos rfl, Nat.mul_zero, Nat.add_zero]

theorem timeRead_later (hk : 0 < k) : timeRead k s = emit (.cxlData (s.hif.hdmSize - 4096 + 64 * k) (List.replicate 64 0) false) s := by
  simp only [timeRead, hc, hr, Nat.ne_of_gt hk, Bool.not_true, Bool.or_self, Bool.false_eq_true, if_false]

end timeRead

/-- A read of BAR2 from its start latches a snapshot and answers it. -/
theorem bar2Read_first {f : Nat} {s t : State} (hm : s.rd pHIF F.HIF_LINK_LINK_MODE = 2) (hf : fnPresent s f = true) (hr : s.inState pTIME .reset = false)
    (ht : t = (timeSnapshot s).2) : bar2Read f 0 64 s = { t with
      hif := { t.hif with bar2 := t.hif.bar2.insert f (timeSnapshot s).1 }
      out := t.out ++ [.bar2 f 0 (slice (timeSnapshot s).1 0 64 ++ List.replicate (64 - (slice (timeSnapshot s).1 0 64).length) 0)] } := by
  subst ht
  simp only [bar2Read, hm, hf, hr, bne_self_eq_false, Bool.not_true, Bool.or_self, Bool.false_eq_true, if_false, if_true, SMap.get_eq_find?,
    SMap.find?_insert_same, Option.getD_some]
  rfl

/-! ### MSI-X and the link (R496, R497, R518, R519) -/

theorem configWrite_enables {f : Nat} {s : State} (hm : s.rd pHIF F.HIF_LINK_LINK_MODE ≠ 0) (hf : fnPresent s f = true) (v : Nat) :
    configWrite f 0 v s = faultSync { s with hif := { s.hif with msixEn := s.hif.msixEn.put false f (v % 2 = 1) } }
      ∧ configWrite f 1 v s = faultSync { s with hif := { s.hif with fnMask := s.hif.fnMask.put false f (v % 2 = 1) } }
      ∧ configWrite f 2 v s = faultSync { s with hif := { s.hif with busMaster := s.hif.busMaster.put false f (v % 2 = 1) } } := by
  simp [configWrite, hm, hf]

/-- The fields of HIF_LINK a fall of the link clears. -/
def clearLink (s : State) : State :=
  [F.HIF_LINK_LINK_MODE, F.HIF_LINK_WIDTH, F.HIF_LINK_SPEED, F.HIF_LINK_CACHE_ON, F.HIF_LINK_MEM_ON, F.HIF_LINK_HDM_COMMITTED].foldl
    (fun u f => u.wr pHIF f 0) s

theorem clearLink_mode (s : State) : (clearLink s).rd pHIF F.HIF_LINK_LINK_MODE = 0 := by
  simp only [clearLink, List.foldl_cons, List.foldl_nil]
  rw [rd_wr_other _ _ (by decide), rd_wr_other _ _ (by decide), rd_wr_other _ _ (by decide), rd_wr_other _ _ (by decide),
    rd_wr_other _ _ (by decide), rd_wr_same, Nat.zero_mod]

theorem clearLink_committed (s : State) : (clearLink s).rd pHIF F.HIF_LINK_HDM_COMMITTED = 0 := by
  simp only [clearLink, List.foldl_cons, List.foldl_nil]
  rw [rd_wr_same, Nat.zero_mod]

/-- Every function of the host is reset. -/
def functionsReset (s : State) : State := (List.range 8).foldl (fun u f => if fnPresent u f then functionReset f u else u) s

theorem hostDown_eq (s : State) : hostDown s = { clearLink (flushLines (functionsReset s)) with
    hif := { (clearLink (flushLines (functionsReset s))).hif with hdmSize := 0, hdmErr := false } }.updPage pHIF (fun h => { h with substate := 0 }) := rfl

theorem hostDown_reg (s : State) : (hostDown s).reg = (clearLink (flushLines (functionsReset s))).reg := by
  rw [hostDown_eq]
  exact updPage_reg ..

/-- The link comes up with the functions FN_EN names. -/
theorem hostUp_down {mode width speed : Nat} {s : State} (hm : s.rd pHIF F.HIF_LINK_LINK_MODE = 0) (hk : mode = 1 ∨ mode = 2) :
    (hostUp mode width speed s).rd pHIF F.HIF_LINK_LINK_MODE = mode
      ∧ (hostUp mode width speed s).hif.present = 1 + 2 * s.rd pHIF F.HIF_FN_FN_EN
      ∧ hostUp mode width speed s = { s with
        reg := (hostUp mode width speed s).reg, hif := { s.hif with present := (hostUp mode width speed s).hif.present }
        pages := (hostUp mode width speed s).pages } := by
  have hup : hostUp mode width speed s = _ := if_neg (by simp [hm])
  rw [hup]
  refine ⟨?mode, ?present, rfl⟩
  case mode =>
    rw [rd_of_reg (updPage_reg ..)]
    refine (rd_wr_other _ _ (by decide)).trans ((rd_wr_other _ _ (by decide)).trans ((rd_wr_same ..).trans ?_))
    rcases hk with rfl | rfl <;> rfl
  case present =>
    simp only [updPage_hif]
    rw [rd_wr_other _ _ (by decide), rd_wr_other _ _ (by decide), rd_wr_other _ _ (by decide)]

/-- Settles O38: each step by the branch its hypotheses name. -/
theorem hostCommandsComplete : Obligations.HostCommandsComplete := by
  intro ag arg n k i f v len addr w d s
  refine ⟨rfl, ?abort, ?doorbell, ?ringWrite, ?ringRefused, ?delivery, ?slot, ?descriptor, ?done, ?record, ?dma, ?lines, ?flush, ?commit, ?fails, ?timeRead, rfl,
    ?bar2, ?partition, ?mgmt, ?config, ?flr, ?linkReset, ?linkUp⟩
  case abort =>
    rintro _ rfl
    rfl
  case doorbell => exact fun h => congrArg Host.Outcome.next (ringWrite_done h)
  case ringWrite => exact fun h => congrArg Host.Outcome.next (ringWrite_done h)
  case ringRefused => exact fun c hc h => congrArg Host.Outcome.next (ringWrite_refused hc h)
  case delivery =>
    intro c s1 hc hs1
    exact ⟨fun ho s2 hs2 => congrArg Host.Outcome.next (ringDelivery_takes hc hs1 ho hs2), fun ho => congrArg Host.Outcome.next (ringDelivery_drops hc hs1 ho)⟩
  case slot =>
    rintro y x ecc hy hx hw hcross _ rfl _ _ rfl rfl
    exact ⟨fun hb he hl => congrArg Host.Outcome.next (slotWrite_whole hy hx hw hcross hb he hl),
      fun hb he hl => congrArg Host.Outcome.next (slotWrite_small hy hx hw hcross hb he hl),
      fun hs he => congrArg Host.Outcome.next (slotWrite_unread hy hx hw hcross hs he)⟩
  case descriptor =>
    rintro dest ctrl tc s1 hn ho rfl hs1 s2 hs2
    have hfetch := txFetch_served (len := len) (dest := dest) (tc := tc) (d := d) hn ho hs1 hs2
    exact ⟨fun hd => congrArg Host.Outcome.next (hfetch.trans (if_pos hd)),
      fun hd => congrArg Host.Outcome.next (hfetch.trans (if_neg (ne_true_of_eq_false hd)))⟩
  case done => exact fun y hy hr => congrArg Host.Outcome.next (txCompletion_plain hy hr)
  case record =>
    rintro r l s1 hl hs1 ho hr rfl
    exact congrArg Host.Outcome.next (recordWrite_open hl hs1 ho hr)
  case dma =>
    rintro ho _ rfl
    exact congrArg Host.Outcome.next (dmaError_early ho)
  case lines => exact fun x hx => ⟨congrArg Host.Outcome.next (lineLeaves_held hx), fun hd => congrArg Host.Outcome.next (lineLeaves_dirty hx hd)⟩
  case flush => exact fun h => congrArg Host.Outcome.next (command_done h _)
  case commit => exact fun hm hv hw => congrArg Host.Outcome.next (hdmCommit_fits hm hv hw)
  case fails => exact fun hm hv => congrArg Host.Outcome.next (hdmCommit_fails hm hv)
  case timeRead =>
    rintro hc hr _ rfl
    exact ⟨congrArg Host.Outcome.next (timeRead_first hc hr), fun hk => congrArg Host.Outcome.next (timeRead_later hc hr hk)⟩
  case bar2 => exact fun hm hf hr s1 hs1 => congrArg Host.Outcome.next (bar2Read_first hm hf hr hs1)
  case partition => exact fun h => congrArg Host.Outcome.next (regWrite_done (by decide) h)
  case mgmt => exact fun h => congrArg Host.Outcome.next (regWrite_done (by decide) h)
  case config =>
    intro hm hf
    obtain ⟨h0, h1, h2⟩ := configWrite_enables hm hf v
    exact ⟨congrArg Host.Outcome.next h0, congrArg Host.Outcome.next h1, congrArg Host.Outcome.next h2⟩
  case flr => exact fun h => congrArg Host.Outcome.next (if_pos h)
  case linkReset =>
    refine ⟨hostDown s, rfl, rfl, ?_, ?_⟩
    · rw [rd_of_reg (hostDown_reg s), clearLink_mode]
    · rw [State.rdB, rd_of_reg (hostDown_reg s), clearLink_committed]
      rfl
  case linkUp => exact fun speed hm hk => ⟨hostUp k len speed s, rfl, hostUp_down hm hk⟩

end Sys2Proof.Machine
end

section
/-! SUPPORT. The Ember domain (R538 to R545): what power's failure and return, the wake causes and the supply's steps do in each state. -/
namespace Sys2Proof.Machine

/-! ### Power (R539) -/

section power
variable {s t : State}

/-- The state POWER_FAIL_N leaves of itself, before any entry. -/
def powerFailed (s : State) : State := (withLine 338 (fun u => { u with emb := { u.emb with pfLevel := true } }) s).wr pEMB F.EMB_STATUS_PF_LEVEL 1

theorem powerFail_alone (h : s.emb.pfLevel = true ∨ (powerFailed s).rdB pEMB F.EMB_CTRL_PF_EN = false ∨ (powerFailed s).inState pEMB .run = false) :
    powerFail s = powerFailed s := by
  have hno : (s.emb.pfLevel || !(powerFailed s).rdB pEMB F.EMB_CTRL_PF_EN || !(powerFailed s).inState pEMB .run) = true := by
    rcases h with h | h | h <;> simp [h]
  exact if_pos hno

theorem powerFail_enters (hp : s.emb.pfLevel = false) (he : (powerFailed s).rdB pEMB F.EMB_CTRL_PF_EN = true)
    (hr : (powerFailed s).inState pEMB .run = true) (hm : smState (powerFailed s) = 0) : powerFail s = smoulderStart true (powerFailed s) := by
  have hgo : (s.emb.pfLevel || !(powerFailed s).rdB pEMB F.EMB_CTRL_PF_EN || !(powerFailed s).inState pEMB .run) = false := by simp [hp, he, hr]
  exact (if_neg (ne_true_of_eq_false hgo)).trans (if_pos hm)

section powerBack
variable (ht : t = ({ s with emb := { s.emb with pfLevel := false, deferred := none } }.wr pEMB F.EMB_STATUS_PF_LEVEL 0).wr pEMB F.EMB_STATUS_WAKE_DEFERRED 0)
include ht

theorem powerBack_deferred {x : Wake} (hd : s.emb.deferred = some x) : powerBack s = wakeTaken x t := by
  subst ht
  simp only [powerBack, hd]

theorem powerBack_wakes (hd : s.emb.deferred = none) (hp : s.emb.pfLevel = true) (hw : t.rdB pEMB F.EMB_CTRL_WAKE_ON_PWR = true) :
    powerBack s = wakeTaken .power t := by
  subst ht
  simp only [powerBack, hd, hp, hw, Bool.and_self, if_true]

theorem powerBack_still (hd : s.emb.deferred = none) (hp : s.emb.pfLevel = false) : powerBack s = t := by
  subst ht
  simp only [powerBack, hd, hp, Bool.false_and, Bool.false_eq_true, if_false]

end powerBack

/-! ### Wakes (R538, R543) -/

/-- With the power there, a wake cause is taken at once. -/
theorem wakeCause_powered {w : Wake} (hm : smState s = 2) (hp : s.emb.pfLevel = false) : wakeCause w s = wakeStart w s := by
  simp only [wakeCause, wakeTaken, hm, hp, Bool.false_and, Bool.false_eq_true, if_false, if_true]

theorem wakeCause_waits {w : Wake} (hp : s.emb.pfLevel = true) (ho : s.rdB pEMB F.EMB_CTRL_PF_OVERRIDE = false) (hd : s.emb.deferred = none) :
    wakeCause w s = { s with emb := { s.emb with deferred := some w } }.wr pEMB F.EMB_STATUS_WAKE_DEFERRED 1 := by
  simp only [wakeCause, hp, ho, hd, Bool.not_false, Bool.and_self, if_true, Option.getD_none]
  rfl

theorem execWatchedWake_asleep {k : Nat} (hk : s.rdB pEMB F.EMB_WATCH_EN k = true) (hm : smState s = 2) :
    execWatchedWake k s = .next (wakeCause (.watch k) s) := by
  simp only [execWatchedWake, hk, hm, decide_true, Bool.and_self, if_true]

end power

/-! ### Commands (R541, R543) -/

section commands
variable {ag arg : Nat} {s : State} (h : cmdCode s pEMB ag (arg = 0) (s.inState pEMB .run) = rDONE)
include h

theorem execSmoulderEnter_done (hm : smState s = 0) :
    execSmoulderEnter pEMB ag arg s = .next (record pEMB ag 4 0x42 rDONE (smoulderStart false s)) := by
  have hcode : cmdCode s pEMB ag (pEMB = pEMB && arg = 0) (s.inState pEMB .run && (smState s = 0 || smState s = 3)) = rDONE := by simpa [hm] using h
  rw [execSmoulderEnter, command_done hcode, smoulderEntry, if_pos hm]

theorem execSmoulderExit_done (hm : smState s = 2) (hp : s.emb.pfLevel = false) :
    execSmoulderExit pEMB ag arg s = .next (record pEMB ag 4 0x43 rDONE (wakeStart .command s)) := by
  have hcode : cmdCode s pEMB ag (pEMB = pEMB && arg = 0) (s.inState pEMB .run && smState s = 2) = rDONE := by simpa [hm] using h
  rw [execSmoulderExit, command_done hcode, wakeCause_powered hm hp]

end commands

/-! ### The core supply's steps (R542, R543) -/

section supply
variable {s t : State}

theorem vcoreStep_down (hm : smState s = 1) (ht : t = smoulderHalt s) (hl : t.rd pEMB F.EMB_CTRL_SM_VCORE_MV < coreMv t) (hf : t.sns.failed = false) :
    vcoreStep s = requestMv (max (t.rd pEMB F.EMB_CTRL_SM_VCORE_MV) (coreMv t - 5)) t := by
  subst ht
  simp only [vcoreStep, hm, hl, hf, decide_true, Bool.not_false, Bool.and_self, if_true]

theorem vcoreStep_up (hm : smState s = 3) (hl : coreMv s < s.emb.vBefore) (hf : s.sns.failed = false) :
    vcoreStep s = requestMv (min s.emb.vBefore (coreMv s + 5)) s := by
  have hone : ¬ (3 : Nat) = 1 := by decide
  simp only [vcoreStep, hm, hl, hf, hone, decide_true, Bool.not_false, Bool.and_self, if_true, if_false]

/-- The smoulder state is reached: it is shown and counted, with the time it took. -/
def smoulderReached (s : State) : State :=
  (((s.wr pEMB F.EMB_STATUS_SM_STATE 2).setF pEMB F.EMB_EVENT_ENTRY_SEEN).addSat pEMB F.EMB_EVENT_ENTRY_CNT).wr pEMB F.EMB_TIMES_LAST_ENTRY_US
    (min 65535 ((s.now - s.emb.since) / usU))

section entryDone
variable (hm : smState s = 1) (hl : coreMv (smoulderHalt s) ≤ (smoulderHalt s).rd pEMB F.EMB_CTRL_SM_VCORE_MV ∨ (smoulderHalt s).sns.failed = true)
include hm hl

/-- The supply is at its level, or no request can be sent. -/
theorem entryDone_ready :
    ¬ (smState s != 1 || ((smoulderHalt s).rd pEMB F.EMB_CTRL_SM_VCORE_MV < coreMv (smoulderHalt s) && !(smoulderHalt s).sns.failed)) = true := by
  rcases hl with hl | hl
  · simp [hm, Nat.not_lt.mpr hl]
  · simp [hm, hl]

theorem entryDone_rests (hw : (smoulderReached (smoulderHalt s)).emb.latched = none) : entryDone s = smoulderReached (smoulderHalt s) := by
  refine (if_neg (entryDone_ready hm hl)).trans ?_
  rw [smoulderReached] at hw
  rw [hw]
  rfl

theorem entryDone_wakes {x : Wake} (hw : (smoulderReached (smoulderHalt s)).emb.latched = some x) :
    entryDone s = wakeStart x (smoulderReached (smoulderHalt s)) := by
  refine (if_neg (entryDone_ready hm hl)).trans ?_
  rw [smoulderReached] at hw
  rw [hw]
  rfl

end entryDone

theorem execSmoulderExitDone_ends (hm : smState s = 3) (hl : s.emb.vBefore ≤ coreMv s ∨ s.sns.failed = true) :
    execSmoulderExitDone s = .next (wakeEnd s) := by
  have hready : (smState s = 3 && (s.emb.vBefore ≤ coreMv s || s.sns.failed)) = true := by simpa [hm] using hl
  rw [execSmoulderExitDone, if_pos hready]

end supply

/-- Settles O40: each step in the smoulder state its hypotheses name. -/
theorem emberCommandsComplete : Obligations.EmberCommandsComplete := by
  intro ag arg k s
  refine ⟨?fail, ?back, ?watch, fun hm h => execSmoulderEnter_done h hm, fun hm hp h => execSmoulderExit_done h hm hp, ?down,
    fun hm hl hf => congrArg Host.Outcome.next (vcoreStep_up hm hl hf), ?entry, fun hm hl => execSmoulderExitDone_ends hm hl, fun _ => rfl⟩
  case fail =>
    rintro _ rfl
    exact ⟨fun h => congrArg Host.Outcome.next (powerFail_alone h), fun hp he hr hm => congrArg Host.Outcome.next (powerFail_enters hp he hr hm)⟩
  case back =>
    intro s1 hs1
    exact ⟨fun x hd => congrArg Host.Outcome.next (powerBack_deferred hs1 hd), fun hd hp hw => congrArg Host.Outcome.next (powerBack_wakes hs1 hd hp hw),
      fun hd hp => congrArg Host.Outcome.next (powerBack_still hs1 hd hp)⟩
  case watch =>
    intro hk hm
    have hwake := execWatchedWake_asleep hk hm
    exact ⟨fun hp => hwake.trans (congrArg _ (wakeCause_powered hm hp)), fun hp ho hd => hwake.trans (congrArg _ (wakeCause_waits hp ho hd))⟩
  case down =>
    rintro hm s1 _ hs1 rfl hl hf
    exact congrArg Host.Outcome.next (vcoreStep_down hm hs1 hl hf)
  case entry =>
    rintro hm _ _ rfl hl rfl
    exact ⟨fun hw => congrArg Host.Outcome.next (entryDone_rests hm hl hw), fun x hw => congrArg Host.Outcome.next (entryDone_wakes hm hl hw)⟩

end Sys2Proof.Machine
end

section
/-! SUPPORT. Reset and boot (R580 to R600): what PORST_N leaves, a boot that ends safe, the image from the host, and the commands of the boot page. -/
namespace Sys2Proof.Machine

/-- Settles O1. -/
theorem stepTakesFrontCommand : Obligations.StepTakesFrontCommand := fun _ _ _ => rfl

/-! ### PORST_N (R580) -/

theorem porst_idle {s : State} (h : s.boot.flashOp = none) : porst s = coldState s := by
  rw [porst, h]

/-- Settles O5: without a flash operation only the reset state is left, with what it keeps. -/
theorem porstLeavesOnlyTheFlash : Obligations.PorstLeavesOnlyTheFlash := by
  intro s h
  have hexec : exec .porstNAssert s = .next (coldState s) := congrArg Host.Outcome.next (porst_idle h)
  exact ⟨coldState s, hexec, fun _ => rfl, rfl, rfl, rfl, rfl, rfl, rfl, rfl, rfl, rfl, rfl, rfl, rfl, rfl, rfl, rfl, rfl⟩

/-! ### A boot that ends safe (R592, R596) -/

/-- MODE of BOOT_STATUS, as boot found it. -/
def bootModeOf (s : State) : Nat := s.rd pBOOT F.BOOT_STATUS_MODE

theorem bootModeOf_newNonce (s : State) : bootModeOf (newNonce s) = bootModeOf s := by
  simp only [newNonce, List.range_succ, List.range_zero, List.nil_append, List.cons_append, List.foldl_cons, List.foldl_nil, bootModeOf]
  rw [rd_wr_other _ _ (by decide), rd_wr_other _ _ (by decide), rd_wr_other _ _ (by decide), rd_wr_other _ _ (by decide)]
  rfl

theorem bootModeOf_syncScopes (s : State) : bootModeOf (syncScopes s) = bootModeOf s := by
  rw [bootModeOf, syncScopes, rd_wr_other _ _ (by decide), rd_wr_other _ _ (by decide), bootModeOf]

theorem bootModeOf_queueRecord (r : LdgRec) (s : State) : bootModeOf (queueRecord r s) = bootModeOf s := by
  unfold queueRecord
  split
  · rfl
  split
  · rfl
  · rw [srcEvent_frame]
    exact rd_wr_other _ _ (by decide)

theorem bootModeOf_withLine (n : Nat) (f : State → State) (s : State) : bootModeOf (withLine n f s) = bootModeOf (f s) := by
  rw [withLine_frame]
  rfl

theorem bootModeOf_clkFail (s : State) :
    bootModeOf ({ s with time := { s.time with onSerdes := true } }.setF pTIME F.TIME_EVENT_CLK_FAIL) = bootModeOf s := rd_wr_other _ _ (by decide)

/-- The straps are shown with the mode boot goes by. -/
theorem bootModeOf_bootStart (cause : Nat) (mode : Option Nat) (s : State) :
    bootModeOf (bootStart cause mode s) = mode.getD s.boot.board.bootMode % 4 := by
  unfold bootStart
  extract_lets b found s1 s2 w s3 s4 s5 clock s6
  refine (rd_wr_other _ _ (by decide)).trans ?_
  rw [← bootModeOf, bootModeOf_newNonce, bootModeOf_syncScopes]
  have hfields : bootModeOf s4 = mode.getD b.bootMode % 4 := by
    simp only [s4, setBoot, List.foldl_cons, List.foldl_nil, bootModeOf]
    rw [rd_wr_other _ _ (by decide), rd_wr_other _ _ (by decide), rd_wr_same]
    rfl
  have hclock : bootModeOf s5 = bootModeOf s4 := (rd_wr_other _ _ (by decide)).trans (rd_wr_other _ _ (by decide))
  rw [← hfields, ← hclock]
  by_cases hclk : b.clk < 2
  · rw [show s6 = s5 from if_pos hclk]
  · rw [show s6 = _ from if_neg hclk, bootModeOf_queueRecord, bootModeOf_withLine]
    exact bootModeOf_clkFail s5

/-- Boot's end shows DONE, and SAFE where it ends safe. -/
theorem bootEnd_shows (safe : Bool) (s : State) : (bootEnd safe s).rd pBOOT F.BOOT_STATUS_PHASE = 8
    ∧ (bootEnd safe s).rdB pBOOT F.BOOT_STATUS_DONE = true ∧ (bootEnd safe s).rdB pBOOT F.BOOT_STATUS_SAFE = safe := by
  simp only [bootEnd, setBoot, List.foldl_cons, List.foldl_nil]
  refine ⟨?phase, ?done, ?safe⟩
  case phase =>
    rw [rd_wr_other _ _ (by decide), rd_wr_other _ _ (by decide), rd_wr_other _ _ (by decide), rd_wr_same]
    rfl
  case done =>
    rw [State.rdB, rd_wr_other _ _ (by decide), rd_wr_other _ _ (by decide), rd_wr_same]
    rfl
  case safe =>
    rw [State.rdB, rd_wr_other _ _ (by decide), rd_wr_same]
    cases safe <;> rfl

theorem bootOn_safe {s : State} (h : bootModeOf s = 2) : bootOn s = bootSafe s := by
  rw [bootModeOf] at h
  simp only [bootOn, h]

theorem coldReset_safe {b : Board} (h : b.bootMode = 2) (cells : List (Nat × Nat)) (s : State) : ∃ u, coldReset b cells s = bootEnd true u := by
  refine ⟨_, bootOn_safe ?_⟩
  rw [bootModeOf_bootStart]
  exact congrArg (· % 4) h

/-! ### Commands of the boot page (R583 to R585, R597 to R600) -/

section commands
variable {ag arg op : Nat} {range state : Bool} {s : State}

/-- A host function's command is performed once it passes its checks. -/
theorem bootCommand_done (hag : ag < 8) (h : cmdCode s pBOOT ag range (s.inState pBOOT .ready && state) = rDONE) (body : State → State × Nat) :
    bootCommand pBOOT ag op range state body s = record pBOOT ag 4 op (body s).2 (body s).1 := by
  rw [bootCommand]
  simp only [decide_true, Bool.true_and]
  rw [command_done h]
  simp only [if_neg (Nat.not_le.mpr hag)]

theorem bootLong_done (hag : ag < 8) (h : cmdCode s pBOOT ag range (s.inState pBOOT .ready && state) = rDONE) (ops : List Nat) (body : State → State) :
    bootLong pBOOT ag op arg range state ops body s = (body s).updPage pBOOT (fun h => { h with cmd := some ⟨op, arg, ag, ops⟩ }) := by
  rw [bootLong, if_neg (Nat.not_le.mpr hag)]
  simp only [decide_true, Bool.true_and]
  rw [commandLong_done h]

end commands

section chipReset
variable {ag arg : Nat} {s : State}

/-- A warm reset waits for the flash's operation. -/
theorem execChipReset_waits (b : Board) (hag : ag < 8) (harg : arg < 3) (hm : smState s = 0) (hf : s.boot.flashOp.isSome = true)
    (h : cmdCode s pBOOT ag true (s.inState pBOOT .ready) = rDONE) : execChipReset pBOOT ag arg b s
      = .next (record pBOOT ag 4 0x40 rDONE { s with boot := { s.boot with board := b, warm := some arg } }) := by
  have hcode : cmdCode { s with boot := { s.boot with board := b } } pBOOT ag (arg < 3)
      ({ s with boot := { s.boot with board := b } }.inState pBOOT .ready && smState { s with boot := { s.boot with board := b } } = 0) = rDONE := by
    rw [show smState { s with boot := { s.boot with board := b } } = 0 from hm, decide_eq_true harg, decide_eq_true rfl, Bool.and_true]
    exact h
  rw [execChipReset, chipReset, bootCommand_done hag hcode]
  exact congrArg Host.Outcome.next (if_pos hf)

end chipReset

/-! ### Host-load (R594) -/

section hostImage
variable {s : State} (hp : s.rd pBOOT F.BOOT_STATUS_PHASE = 9) (hm : s.rd pHIF F.HIF_LINK_LINK_MODE ≠ 0) (hb : s.hif.busMaster.get false 0 = true)
  (h0 : 1024 ≤ s.hif.imgLen) (h1 : s.hif.imgLen ≤ 4194304)
include hp hm hb h0 h1

theorem hostImage_failed : hostImage none s = s.wr pBOOT F.BOOT_STATUS_DETAIL 13 := by
  simp only [hostImage, hp, hm, hb, Nat.not_lt.mpr h0, Nat.not_lt.mpr h1, bne_self_eq_false, decide_false, Bool.not_true, Bool.or_self, Bool.false_eq_true, if_false]
  rfl

theorem hostImage_rejected {d : List Byte} (hh : headerCode s ((d.take s.hif.imgLen).take 1024) = 3) :
    hostImage (some d) s = (s.wr pBOOT F.BOOT_STATUS_CODE rAUTH).wr pBOOT F.BOOT_STATUS_DETAIL 3 := by
  have h3 : ¬ (3 : Nat) = 0 := by decide
  simp only [hostImage, hp, hm, hb, hh, h3, Nat.not_lt.mpr h0, Nat.not_lt.mpr h1, bne_self_eq_false, decide_false, Bool.not_true, Bool.or_self,
    Bool.false_eq_true, if_false]
  rfl

theorem hostImage_boots {d : List Byte} {t : State} (hh : headerCode s ((d.take s.hif.imgLen).take 1024) = 0) (hi : imageCode s (d.take s.hif.imgLen) = 0)
    (hboot : bootImage 2 (d.take s.hif.imgLen) s = (none, t)) : hostImage (some d) s = t := by
  simp only [hostImage, hp, hm, hb, hh, hi, hboot, Nat.not_lt.mpr h0, Nat.not_lt.mpr h1, bne_self_eq_false, decide_false, Bool.not_true, Bool.or_self, Bool.false_eq_true,
    if_false, if_true]

end hostImage

/-! ### Fuses and the unlock (R585, R589, R597) -/

section fuses
variable {ag arg : Nat} {s : State} (hag : ag < 8) (h : cmdCode s pBOOT ag (arg = 0) (s.inState pBOOT .ready) = rDONE)
include hag h

theorem execRbAdvance_done (hs : s.rdB pBOOT F.BOOT_STATUS_SAFE = false) : execRbAdvance pBOOT ag arg s
    = .next (s.updPage pBOOT (fun h => { h with cmd := some ⟨0x41, arg, ag, [s.rd pBOOT F.BOOT_ROLLBACK_IMG_RB]⟩ })) := by
  have hcode : cmdCode s pBOOT ag (arg = 0) (s.inState pBOOT .ready && !s.rdB pBOOT F.BOOT_STATUS_SAFE) = rDONE := by simpa [hs] using h
  rw [execRbAdvance, bootLong_done hag hcode, id]

theorem execOtpWrite_done {w v : Nat} (hw : w = s.rd pBOOT F.BOOT_OTP_SEL_WORD) (hv : v = s.rd pBOOT F.BOOT_OTP_DATA_DATA) (h21 : w < 21) (h12 : w ≠ 12)
    (hl : s.rdB pBOOT F.BOOT_OTP_LOCK = false) :
    execOtpWrite pBOOT ag arg s = .next (s.updPage pBOOT (fun h => { h with cmd := some ⟨0x42, arg, ag, [w, v]⟩ })) := by
  have hcode : cmdCode s pBOOT ag (arg = 0 && w < 21 && !(w = 12 && v.testBit 1 && !s.rdB pBOOT F.BOOT_OTP_CUST_VALID))
      (s.inState pBOOT .ready && !s.rdB pBOOT F.BOOT_OTP_LOCK) = rDONE := by simpa [h21, h12, hl] using h
  subst hw hv
  simp only [execOtpWrite, bootLong_done hag hcode, id]

theorem execUnlock_done (hs : s.rdB pBOOT F.BOOT_STATUS_SAFE = false) (hf : s.rd pBOOT F.BOOT_JTAG_FAIL_CNT < 8) :
    execUnlock pBOOT ag arg s = .next (record pBOOT ag 4 0x43 (unlock s).2 (unlock s).1) := by
  have hcode : cmdCode s pBOOT ag (arg = 0) (s.inState pBOOT .ready && (!s.rdB pBOOT F.BOOT_STATUS_SAFE && s.rd pBOOT F.BOOT_JTAG_FAIL_CNT < 8)) = rDONE := by
    simpa [hs, hf] using h
  rw [execUnlock, bootCommand_done hag hcode]

/-! ### The flash commands (R600) -/

theorem execFlashRead_free {a n : Nat} (ha : a = s.rd pBOOT F.BOOT_FL_ADDR_FL_ADDR) (hn : n = s.rd pBOOT F.BOOT_FL_LEN_LEN)
    (hsize : a + n ≤ s.boot.flashSize) (hf : s.boot.flashOp = none) :
    execFlashRead pBOOT ag arg s = .next (record pBOOT ag 4 0x44 rDONE (flashToData a n s)) := by
  have hcode : cmdCode s pBOOT ag (arg = 0 && a + n ≤ s.boot.flashSize) (s.inState pBOOT .ready && true) = rDONE := by simpa [hsize] using h
  subst ha hn
  simp only [execFlashRead, hf, Option.isSome_none, Bool.false_eq_true, if_false, bootCommand_done hag hcode]

end fuses

/-- The boot page runs command `c`, with no flash operation done for it. -/
def bootRuns (c : RunCmd) (s : State) : State :=
  { s with boot := { s.boot with opCode := none } }.updPage pBOOT (fun h => { h with cmd := some c })

theorem cmd_bootRuns (c : RunCmd) (s : State) : ((bootRuns c s).page pBOOT).cmd = some c := by
  rw [bootRuns, page_updPage_same]

/-- A command that finds the flash free starts its operation. -/
theorem startWaiting_bootRuns {c : RunCmd} {s : State} (hf : s.boot.flashOp = none) (hw : s.boot.warm = none) :
    startWaiting (bootRuns c s) = setFlashOp (commandOp c) (bootRuns c s) := by
  have hfree : (bootRuns c s).boot.flashOp.isNone && (bootRuns c s).boot.opCode.isNone && (bootRuns c s).boot.warm.isNone := by
    simp [bootRuns, hf, hw]
  simp only [startWaiting, cmd_bootRuns, hfree, if_true]

theorem commandOp_program (a n arg ag : Nat) (l : List Nat) :
    commandOp ⟨0x45, arg, ag, a :: n :: l⟩ = some ⟨false, a, l.map (BitVec.ofNat 8), false⟩ := rfl

theorem commandOp_erase (a arg ag : Nat) : commandOp ⟨0x46, arg, ag, [a]⟩ = some ⟨true, a, [], false⟩ := rfl

section flash
variable {ag arg a : Nat} {s : State} (hag : ag < 8) (h : cmdCode s pBOOT ag (arg = 0) (s.inState pBOOT .ready) = rDONE)
  (ha : a = s.rd pBOOT F.BOOT_FL_ADDR_FL_ADDR) (hf : s.boot.flashOp = none) (hw : s.boot.warm = none)
include hag h ha hf hw

theorem execFlashProg_done {n : Nat} (hn : n = s.rd pBOOT F.BOOT_FL_LEN_LEN) (hsize : a + n ≤ s.boot.flashSize) (hpage : a % 256 + n ≤ 256)
    (hpart : inPartition s a n = false) : execFlashProg pBOOT ag arg s = .next (setFlashOp (some ⟨false, a, (stagedBytes s n).map (BitVec.ofNat 8), false⟩)
      (bootRuns ⟨0x45, arg, ag, a :: n :: stagedBytes s n⟩ s)) := by
  have hcode : cmdCode s pBOOT ag (arg = 0 && a + n ≤ s.boot.flashSize && a % 256 + n ≤ 256 && !inPartition s a n) (s.inState pBOOT .ready && true)
      = rDONE := by simpa [hsize, hpage, hpart] using h
  subst ha hn
  rw [← commandOp_program _ _ arg ag, ← startWaiting_bootRuns hf hw]
  simp only [execFlashProg, bootLong_done hag hcode]
  rfl

theorem execFlashErase_done (hsize : a + 4096 ≤ s.boot.flashSize) (hsector : a % 4096 = 0) (hpart : inPartition s a 4096 = false) :
    execFlashErase pBOOT ag arg s = .next (setFlashOp (some ⟨true, a, [], false⟩) (bootRuns ⟨0x46, arg, ag, [a]⟩ s)) := by
  have hcode : cmdCode s pBOOT ag (arg = 0 && a + 4096 ≤ s.boot.flashSize && a % 4096 = 0 && !inPartition s a 4096) (s.inState pBOOT .ready && true)
      = rDONE := by simpa [hsize, hsector, hpart] using h
  subst ha
  rw [← commandOp_erase _ arg ag, ← startWaiting_bootRuns hf hw]
  simp only [execFlashErase, bootLong_done hag hcode]
  rfl

end flash

/-- A free flash nothing waits for stays as it is. -/
theorem flashFree_unwaited {s : State} (hc : (s.page pBOOT).cmd = none) (hsel : s.ldg.smbSel = none) : flashFree s = s := by
  simp only [flashFree, startWaiting, smbFetch, hc, hsel]

/-- An erase has ended: its sector is at 0xFF, and the flash is free. -/
def flashErased (a : Nat) (d : List Byte) (s : State) : State :=
  { s with boot := { s.boot with flash := (flashApply ⟨true, a, d, false⟩ s).boot.flash, flashOp := none, opCode := some rDONE } }

theorem flashDone_erase {a : Nat} {d : List Byte} {s : State} (ho : s.boot.flashOp = some ⟨true, a, d, false⟩) (hc : (s.page pBOOT).cmd = none)
    (hsel : s.ldg.smbSel = none) : flashDone s = flashErased a d s := by
  have hfree : flashFree (flashErased a d s) = flashErased a d s := flashFree_unwaited hc hsel
  rw [flashDone, ho]
  exact hfree

theorem flashByte_flashErased {a x : Nat} (d : List Byte) (s : State) (h : a ≤ x ∧ x < a + 4096) : (flashErased a d s).boot.flash.get 0xFF x = 0xFF :=
  (flashByte_erase a d false s x).trans (if_pos h)

/-! ### The TAP (R582, R597) -/

theorem jtag_unlocked {s : State} (h : s.rdB pBOOT F.BOOT_JTAG_LOCKED = false) (i : Tap) : jtag i s = { s with boot := { s.boot with tap := i } } := by
  cases i <;> simp [jtag, h]

theorem jtag_debug_locked {s : State} (h : s.rdB pBOOT F.BOOT_JTAG_LOCKED = true) (hd : s.rdB pBOOT F.BOOT_JTAG_DBG_OPEN = false) :
    jtag .debug s = { s with boot := { s.boot with tap := .bypass } } := by
  simp [jtag, h, hd]

theorem debug_closed_setScopes (s : State) : (setScopes 0 s).rdB pBOOT F.BOOT_JTAG_DBG_OPEN = false := by
  rw [State.rdB, setScopes, syncScopes, rd_wr_other _ _ (by decide), rd_wr_same]
  rfl

/-- Settles O43: a cold boot of mode 2 by the end it reaches, the image by the checks it passes, a command by its acceptance. -/
theorem bootCommandsComplete : Obligations.BootCommandsComplete := by
  intro ag arg s
  refine ⟨?cold, ?chip, ?image, ?rollback, ?otp, ?unlock, ?flash, ?complete, ?tap, rfl, ?debug, ?free⟩
  case cold =>
    intro b cells hb _
    obtain ⟨u, hu⟩ := coldReset_safe hb cells s
    exact ⟨_, congrArg Host.Outcome.next hu, bootEnd_shows true u⟩
  case chip => exact fun b hag harg hm hf h => ⟨_, execChipReset_waits b hag harg hm hf h, rfl, rfl⟩
  case image =>
    intro hp hm hb h0 h1
    refine ⟨congrArg Host.Outcome.next (hostImage_failed hp hm hb h0 h1), fun d hh => congrArg Host.Outcome.next (hostImage_rejected hp hm hb h0 h1 hh), ?_⟩
    rintro d _ t rfl hh hi hboot
    exact congrArg Host.Outcome.next (hostImage_boots hp hm hb h0 h1 hh hi hboot)
  case rollback => exact fun hag hs h => execRbAdvance_done hag h hs
  case otp => exact fun w v hag hw hv h21 h12 hl h => execOtpWrite_done hag h hw hv h21 h12 hl
  case unlock => exact fun hag hs hf h => execUnlock_done hag h hs hf
  case flash =>
    intro a n hag ha hn h
    refine ⟨fun hsize hf => execFlashRead_free hag h ha hn hsize hf, ?prog, ?erase⟩
    case prog =>
      exact fun hsize hf hw hpage hpart => ⟨_, execFlashProg_done hag h ha hf hw hn hsize hpage hpart, rfl, cmd_bootRuns .., rfl⟩
    case erase => exact fun hsize hf hw hsector hpart => ⟨_, execFlashErase_done hag h ha hf hw hsize hsector hpart, rfl, cmd_bootRuns .., rfl⟩
  case complete =>
    rintro ⟨e, a, d, l⟩ ho rfl rfl hwarm hc hsel
    refine ⟨flashErased a d s, congrArg Host.Outcome.next ?done, rfl, rfl, fun k hk => flashByte_flashErased d s ?sector, rfl⟩
    case sector => exact ⟨Nat.le_add_right .., Nat.add_lt_add_left hk _⟩
    case done =>
      rw [flashDone_erase ho hc hsel]
      exact settleReset_none hwarm
  case tap => exact ⟨_, rfl, rfl, rfl, debug_closed_setScopes _, rfl⟩
  case debug => exact fun h hd => congrArg Host.Outcome.next (jtag_debug_locked h hd)
  case free => exact fun h i => congrArg Host.Outcome.next (jtag_unlocked h i)

end Sys2Proof.Machine
end

section
/-! SUPPORT. Protected streams (R377 to R391): the eliminator's decision and the history it keeps, the timers of a recovery entry, and the writes of
recovery and identification entries. -/
namespace Sys2Proof.Machine

/-! ### The eliminator (R380) -/

/-- The distance of a sequence number from the next one expected. -/
def gap (next seq : Nat) : Int := toSigned 16 ((seq + 65536 - next) % 65536)

theorem gap_cases (next seq : Nat) :
    ((seq + 65536 - next) % 65536 < 32768 ∧ gap next seq = ((seq + 65536 - next) % 65536 : Nat))
      ∨ (32768 ≤ (seq + 65536 - next) % 65536 ∧ gap next seq = ((seq + 65536 - next) % 65536 : Nat) - 65536) := by
  unfold gap toSigned
  split <;> omega

/-- The number just delivered is one behind the next. -/
theorem gap_delivered {next : Nat} (hn : next < 65536) : gap ((next + 1) % 65536) next = -1 := by
  have := gap_cases ((next + 1) % 65536) next
  omega

/-- Every number behind falls one further behind. -/
theorem gap_recedes {next seq : Nat} (hs : seq < 65536) (h0 : -64 ≤ gap next seq) (h1 : gap next seq ≤ -1) : gap ((next + 1) % 65536) seq = gap next seq - 1 := by
  have := gap_cases next seq
  have := gap_cases ((next + 1) % 65536) seq
  omega

theorem decide380_by_gap (next hist seq : Nat) : decide380 false next hist seq =
    if gap next seq = 0 then .expected
    else if -64 ≤ gap next seq && gap next seq ≤ -1 then (if hist.testBit (-gap next seq - 1).toNat then .duplicate else .late)
    else if 1 ≤ gap next seq && gap next seq ≤ 63 then .early (gap next seq).toNat
    else .rogue := rfl

section decide380
variable {next hist seq : Nat}

theorem decide380_expected (h : gap next seq = 0) : decide380 false next hist seq = .expected := if_pos h

theorem decide380_behind (h0 : -64 ≤ gap next seq) (h1 : gap next seq ≤ -1) :
    decide380 false next hist seq = if hist.testBit (-gap next seq - 1).toNat then .duplicate else .late := by
  rw [decide380_by_gap, if_neg (by omega), if_pos (by simp [h0, h1])]

theorem decide380_ahead (h0 : 1 ≤ gap next seq) (h1 : gap next seq ≤ 63) : decide380 false next hist seq = .early (gap next seq).toNat := by
  rw [decide380_by_gap, if_neg (by omega), if_neg (by simp only [Bool.and_eq_true, decide_eq_true_eq]; omega), if_pos (by simp [h0, h1])]

theorem decide380_far (h : gap next seq < -64 ∨ 63 < gap next seq) : decide380 false next hist seq = .rogue := by
  rw [decide380_by_gap, if_neg (by omega), if_neg (by simp only [Bool.and_eq_true, decide_eq_true_eq]; omega),
    if_neg (by simp only [Bool.and_eq_true, decide_eq_true_eq]; omega)]

/-- Only a number behind whose bit the history holds is a duplicate. -/
theorem decide380_duplicate (h : decide380 false next hist seq = .duplicate) :
    -64 ≤ gap next seq ∧ gap next seq ≤ -1 ∧ hist.testBit (-gap next seq - 1).toNat = true := by
  have hrange : gap next seq < -64 ∨ (-64 ≤ gap next seq ∧ gap next seq ≤ -1) ∨ gap next seq = 0 ∨ (1 ≤ gap next seq ∧ gap next seq ≤ 63)
      ∨ 63 < gap next seq := by omega
  rcases hrange with hfar | ⟨h0, h1⟩ | hzero | ⟨h0, h1⟩ | hfar
  · rw [decide380_far (.inl hfar)] at h
    cases h
  · rw [decide380_behind h0 h1] at h
    split at h
    · next hbit => exact ⟨h0, h1, hbit⟩
    · cases h
  · rw [decide380_expected hzero] at h
    cases h
  · rw [decide380_ahead h0 h1] at h
    cases h
  · rw [decide380_far (.inr hfar)] at h
    cases h

end decide380

/-! ### What a delivery leaves (R380) -/

theorem rd_count (i : Nat) (s : State) (p : Nat) (f : Field) : (count i s).rd p f = s.rd p f := rd_of_reg (by rw [count, countBy_frame]) ..

theorem rd_updRec {g : Field} (h : g.apart F.REC_HOLDING = true) (k : Nat) (f : RecSt → RecSt) (s : State) :
    (s.updRec k f).rd (wRECOV k) g = s.rd (wRECOV k) g := rd_wr_apart _ _ _ _ h

theorem rd_setNext_next (k v : Nat) (s : State) : (setNext k v s).rd (wRECOV k) F.REC_NEXT = v % 65536 := by
  rw [setNext, rd_updRec (by decide), rd_wr_same]
  exact Nat.mod_mod ..

theorem recHist_setHist (k v : Nat) (s : State) : recHist (setHist k v s) k = v % 2 ^ 64 := by
  rw [recHist, setHist, rd_wr_same, rd_wr_apart _ _ _ _ (by decide), rd_wr_same]
  norm_num [F.REC_HIST_LO, F.REC_HIST_HI]
  omega

theorem recHist_eq_of_rd {k : Nat} {s t : State} (hlo : t.rd (wRECOV k) F.REC_HIST_LO = s.rd (wRECOV k) F.REC_HIST_LO)
    (hhi : t.rd (wRECOV k) F.REC_HIST_HI = s.rd (wRECOV k) F.REC_HIST_HI) : recHist t k = recHist s k := by
  rw [recHist, hlo, hhi, recHist]

theorem next_deliver380 (k seq : Nat) (s : State) : (deliver380 k seq s).rd (wRECOV k) F.REC_NEXT = (seq + 1) % 65536 := by
  rw [deliver380, rd_updRec (by decide), rd_count, rd_setNext_next]

theorem rd_deliver380_hist {g : Field} (hh : g.apart F.REC_HOLDING = true) (hn : g.apart F.REC_NEXT = true) (k seq : Nat) (s : State) :
    (deliver380 k seq s).rd (wRECOV k) g = (setHist k ((recHist s k * 2 + 1) % 2 ^ 64) s).rd (wRECOV k) g := by
  rw [deliver380, rd_updRec hh, rd_count, setNext, rd_updRec hh, rd_wr_apart _ _ _ _ hn]

/-- The history takes the number delivered in at its lowest bit. -/
theorem recHist_deliver380 (k seq : Nat) (s : State) : recHist (deliver380 k seq s) k = (recHist s k * 2 + 1) % 2 ^ 64 := by
  rw [recHist_eq_of_rd (rd_deliver380_hist (by decide) (by decide) ..) (rd_deliver380_hist (by decide) (by decide) ..), recHist_setHist, Nat.mod_mod]

theorem testBit_shiftedIn (h : Nat) : ((h * 2 + 1) % 2 ^ 64).testBit 0 = true := by
  rw [Nat.testBit_mod_two_pow]
  simp

theorem testBit_shifted {h i : Nat} (hi : i < 63) : ((h * 2 + 1) % 2 ^ 64).testBit (i + 1) = h.testBit i := by
  rw [Nat.testBit_mod_two_pow, Nat.testBit_succ, show (h * 2 + 1) / 2 = h by omega, decide_eq_true (by omega), Bool.true_and]

/-- Settles O56: a delivery moves every number behind by one, and the history with it. -/
theorem eliminatorDeliversOnce : Obligations.EliminatorDeliversOnce := by
  intro s k next hist seq hs hn _
  constructor
  · rintro _ rfl
    exact ⟨rfl, decide380_expected, decide380_behind, decide380_ahead, decide380_far⟩
  rintro hnext hhist _ _ rfl rfl
  rw [next_deliver380, recHist_deliver380, hhist]
  refine ⟨rfl, ?_, fun h => ?_⟩
  · rw [decide380_behind (by rw [gap_delivered hn]; decide) (by rw [gap_delivered hn]), gap_delivered hn]
    exact if_pos (testBit_shiftedIn hist)
  · obtain ⟨h0, h1, hbit⟩ := decide380_duplicate h
    have hgap := gap_recedes hs h0 h1
    by_cases hlast : gap next seq = -64
    · exact .inr (decide380_far (by omega))
    · left
      rw [decide380_behind (by omega) (by omega), hgap, show (-(gap next seq - 1) - 1).toNat = (-gap next seq - 1).toNat + 1 by omega,
        testBit_shifted (by omega), if_pos hbit]

/-! ### Timers and writes of recovery and identification entries (R381 to R391) -/

section timers
variable {k : Nat} {s : State} (hv : s.rdB (wRECOV k) F.REC_VALID = true)
include hv

/-- The hold's end releases the early head. -/
theorem holdEnd_releases {at_ q d seq : Nat} (hh : (s.rec_ k).holdAt = some at_) (hp : stateIn s (recPage k) [.fenced, .reinit] = false)
    (hr : releasedHead s k = some (q, d, seq)) : holdEnd k s = settleAll (recQueues s k) (markDelivered q k (deliver380 k seq
      (setHist k ((recHist s k * 2 ^ d) % 2 ^ 64) (countBy (cRecov k 3) d s)))) := by
  simp only [holdEnd, hv, hh, hp, hr, Option.isNone_some, Bool.not_true, Bool.or_self, Bool.false_eq_true, if_false]

theorem execRecoveryResetTimeout_valid (hp : stateIn s (recPage k) [.fenced, .reinit] = false) :
    execRecoveryResetTimeout k s = .next (settleAll (recQueues s k) (s.setF (wRECOV k) F.REC_TAKE_ANY)) := by
  rw [execRecoveryResetTimeout, hv, hp]
  rfl

theorem latentCheck_valid : latentCheck k s =
    if s.rd (wRECOV k) F.REC_LATENT_DIFF + (s.rec_ k).discarded < (s.rec_ k).passed * (s.rd (wRECOV k) F.REC_PATHS - 1) then
      srcEvent (regSource (k / 1024) 7) ((s.updRec k (fun x => { x with passed := 0, discarded := 0 })).setF (wRECOV k) F.REC_LATENT_ERR)
    else s.updRec k (fun x => { x with passed := 0, discarded := 0 }) := by
  simp only [latentCheck, hv, Bool.not_true, Bool.false_eq_true, if_false]

end timers

/-- Settles O33: a timer by the test it makes, a write by its check (`entryWrite_eq`). -/
theorem streamCommandsComplete : Obligations.StreamCommandsComplete := by
  intro k h word ag v s
  refine ⟨?hold, ?reset, ?latent, ?recovery, ?ident, ?refused⟩
  case hold => exact fun at_ q d seq hh hv hp hr => congrArg Host.Outcome.next (holdEnd_releases hv hh hp hr)
  case reset => exact fun hv hp => execRecoveryResetTimeout_valid hv hp
  case latent =>
    rintro hv _ rfl
    have hcheck := latentCheck_valid hv
    exact ⟨fun hlt => congrArg Host.Outcome.next (hcheck.trans (if_pos hlt)), fun hle => congrArg Host.Outcome.next (hcheck.trans (if_neg (Nat.not_lt.mpr hle)))⟩
  case recovery => exact fun hc => congrArg Host.Outcome.next ((entryWrite_eq ..).1 hc)
  case ident => exact fun hc => congrArg Host.Outcome.next ((entryWrite_eq ..).1 hc)
  case refused =>
    rintro _ hne rfl
    exact congrArg Host.Outcome.next ((entryWrite_eq ..).2 hne)

end Sys2Proof.Machine
end

section
/-! SUPPORT. The Peat Store (R340 to R376): refresh and row activity, the spill writer and the drain, the patrol, the window, the turf commands and the captures, each
on the state its step asks for. -/
namespace Sys2Proof.Machine

/-! ### Refresh and rows (R360, R361) -/

theorem execPerBankRefresh_uncommitted {ch n b : Nat} {s : State} (hch : ch < 16) (ha : dramAwake s = true) (hu : s.rdB pPEAT F.PEAT_CH_STAT_UP ch = true)
    (hc : (s.page pPEAT).commitPending = false) (hn : n = 2 ^ s.rd pPEAT F.PEAT_GEOM_BANK_BITS) (hb : b = s.peat.refBank.get 0 ch % n) :
    execPerBankRefresh ch s = .next { s with peat := { s.peat with
      openRow := s.peat.openRow.erase (bankIdx ch b)
      refBank := s.peat.refBank.put 0 ch ((b + 1) % n)
      refreshed := if s.peat.refreshed.testBit ch then s.peat.refreshed else s.peat.refreshed + 2 ^ ch } } := by
  subst hn hb
  have hrefreshing : refreshing s ch = true := by rw [refreshing, ha, hu, Bool.and_self]
  rw [execPerBankRefresh, if_pos hch]
  refine congrArg Host.Outcome.next ((if_neg (by simp [hrefreshing])).trans (if_neg ?_))
  exact ne_true_of_eq_false hc

theorem execRefreshRatePoll_up {ch : Nat} {s : State} (ha : dramAwake s = true) (hu : s.rdB pPEAT F.PEAT_CH_STAT_UP ch = true) (rate : Nat) :
    execRefreshRatePoll ch rate s = .next (s.wr pPEAT F.PEAT_CH_STAT_REF_RATE rate ch) := by
  rw [execRefreshRatePoll, ha, hu, Bool.and_self, if_pos rfl]

theorem acts_erased_same (m : SMap ActTable) (k : Nat) : (m.erase k).get [] k = [] := by
  rw [SMap.get_eq_find?, SMap.find?_erase_same, Option.getD_none]

theorem acts_erased_other (m : SMap ActTable) {k j : Nat} (h : j ≠ k) : (m.erase k).get [] j = m.get [] j := by
  rw [SMap.get_eq_find?, SMap.find?_erase_other _ h, SMap.get_eq_find?]

/-- The table a neighbour refresh leaves for its bank: the neighbours counted, the row at 0. -/
def neighbourTable (s : State) (k row : Nat) : ActTable :=
  ((neighbours s row).foldl countRow (s.peat.acts.get [] k)).map (fun e => if e.1 = row then (row, 0) else e)

theorem neighbourTable_row {s : State} {k row m : Nat} (h : (row, m) ∈ neighbourTable s k row) : m = 0 := by
  obtain ⟨e, _, he⟩ := List.mem_map.mp h
  split at he
  · exact (congrArg Prod.snd he).symm
  · next hne =>
    rw [he] at hne
    exact absurd rfl hne

theorem neighbourRefresh_reached {ch bank row n : Nat} {s : State} (hm : (row, n) ∈ s.peat.acts.get [] (bankIdx ch bank))
    (hn : s.rd pPEAT F.PEAT_RH_CFG_RH_TH ≤ n) : neighbourRefresh ch bank row s = count (cChip (48 + ch)) { s with peat := { s.peat with
      openRow := s.peat.openRow.erase (bankIdx ch bank)
      acts := s.peat.acts.put [] (bankIdx ch bank) (neighbourTable s (bankIdx ch bank) row) } } :=
  if_pos (List.any_eq_true.mpr ⟨(row, n), hm, by simp [hn]⟩)

/-! ### Spill and drain (R344 to R350) -/

section spillWrite
variable {q ecc : Nat} {c : Copy} {l : List Copy} {f : Frame} {s : State} (hr : s.inState pPEAT .run = true)
  (hq : stateIn s (pQSC (s.qRegion q)) [.ready, .run] = true) (ho : fabricOpen s = true) (hs : (s.queue q).spill = true) (hb : (s.queue q).back = c :: l)
  (hf : s.frames.find? c.frame = some f) (hg : oldGen s c = false) (hw : f.complete = true)
include hr hq ho hs hb hf hg hw

/-- A whole cord at the head of BACK is written where it is good. -/
theorem spillWrite_head (err : Option DramErr) : spillWrite q ecc err s =
    if (f.bad && !c.late) || readBad ecc then leaveSpill q (releaseCopy c (countDrop q 0 (popBack q (readData c.frame ecc s))))
    else leaveSpill q (writeRecord q c f err (readData c.frame ecc s)) := by
  simp only [spillWrite, hr, hq, ho, hs, hb, hf, hg, hw, Bool.and_self, Bool.not_true, Bool.false_eq_true, if_false]

theorem spillWrite_good (hbad : f.bad = false) (hecc : readBad ecc = false) :
    spillWrite q ecc none s = leaveSpill q (writeRecord q c f none (readData c.frame ecc s)) :=
  (spillWrite_head hr hq ho hs hb hf hg hw none).trans (if_neg (by simp [hbad, hecc]))

theorem spillWrite_bad (hbad : (f.bad = true ∧ c.late = false) ∨ readBad ecc = true) :
    spillWrite q ecc none s = leaveSpill q (releaseCopy c (countDrop q 0 (popBack q (readData c.frame ecc s)))) :=
  (spillWrite_head hr hq ho hs hb hf hg hw none).trans (if_pos (by simpa using hbad))

end spillWrite

/-- The queues of a region that may start a record, as its drain's arbiter sees them. -/
def drainWants (s : State) (r : Nat) : List Want :=
  ((knownQueues s).filter (fun q => s.qRegion q = r && mayDrain s q)).map (fun q => (⟨s.qClass q / 2, q, q⟩ : Want))

section drainRecord
variable {r : Nat} {x : PeatRec} {s : State} (hr : s.inState pPEAT .run = true) (hq : stateIn s (pQSC r) [.ready, .run] = true) (ho : fabricOpen s = true)
include hr hq ho

theorem drainRecord_starts {d : Want} {l : List Want} {m : List PeatRec} (hs : startedRec s r = none) (hd : (s.arb (88 + r)).order (drainWants s r) = d :: l)
    (hx : (s.queue d.queue).peat = x :: m) :
    drainRecord r none s = settle d.queue (leaveSpill d.queue (drainGood d.queue x (s.setArb (88 + r) ((s.arb (88 + r)).moved d)))) := by
  rw [drainWants] at hd
  simp only [drainRecord, drainHead, hr, hq, ho, hs, hd, hx, Bool.and_self, Bool.not_true, Bool.false_eq_true, if_false]

theorem drainRecord_goesOn {q : Nat} (hs : startedRec s r = some (q, x)) (hu : drainUp s q = true) :
    drainRecord r none s = settle q (leaveSpill q (drainGood q x s)) := by
  simp only [drainRecord, drainHead, hr, hq, ho, hs, hu, Bool.and_self, Bool.not_true, Bool.false_eq_true, if_false, if_true]

end drainRecord

theorem patrolRead_clean {s : State} (he : s.rdB pPEAT F.PEAT_CTRL_PATROL_EN = true) (ha : dramAwake s = true) : patrolRead none s
    = touch (s.peat.patrol % 16) (s.peat.patrol / 16) { s with peat := { s.peat with patrol := (s.peat.patrol + 1) % (16 * channelUnits) } } := by
  simp only [patrolRead, he, ha, Bool.and_self, Bool.not_true, Bool.false_eq_true, if_false]

/-! ### The window (R340, R512 to R514) -/

/-- The window is there, zeroed, with the free ring beside it. -/
def windowMade (s : State) : State :=
  rebuildRing ({ s with peat := { s.peat with zeroing := false, mem := ⟨[]⟩, poison := [] } }.setF pPEAT F.PEAT_STATUS_WIN_READY)

theorem windowReady_zeroed {s t : State} (hz : s.peat.zeroing = true)
    (ht : t = zeroRows (ownLines 0 (windowBytes (s.rd pPEAT F.PEAT_CTRL_WIN_GIB) / 64) s)) (hzt : t.peat.zeroing = true) : windowReady s = windowMade t := by
  subst ht
  simp only [windowReady, hz, hzt, windowMade, Bool.not_true, Bool.false_eq_true, if_false, if_true]

/-- A window of no GiB has no line to own and no row to write. -/
theorem zeroRows_none {s : State} (h : s.rd pPEAT F.PEAT_CTRL_WIN_GIB = 0) :
    s = zeroRows (ownLines 0 (windowBytes (s.rd pPEAT F.PEAT_CTRL_WIN_GIB) / 64) s) := by
  have hown : ownLines 0 (windowBytes (s.rd pPEAT F.PEAT_CTRL_WIN_GIB) / 64) s = s := by
    rw [h]
    exact if_pos (by simp [windowBytes])
  rw [hown]
  simp [zeroRows, h]

section windowAccess
variable {off a : Nat} {s : State} (ha : a = off / 64 * 64) (hc : s.rdB pHIF F.HIF_LINK_HDM_COMMITTED = true) (hsize : a + 4096 + 64 ≤ s.hif.hdmSize)
  (hw : winServed s = true) (ho : fabricOpen s = true) (hin : a < windowBytes (s.rd pPEAT F.PEAT_CTRL_WIN_GIB))
include ha hc hsize hw ho hin

theorem windowAccess_reads (hp : s.peat.poison.contains (a / 64) = false) : windowAccess off none false none s
    = emit (.cxlData off (winBytes (touchTurf (a / 4096) (a % 4096) 64 s) a 64) false) (touchTurf (a / 4096) (a % 4096) 64 s) := by
  subst ha
  have hrange : (decide (s.hif.hdmSize < off / 64 * 64 + 64) || decide (s.hif.hdmSize < off / 64 * 64 + 4096 + 64)) = false := by
    simp only [Bool.or_eq_false_iff, decide_eq_false_iff_not]
    omega
  simp only [windowAccess, hc, Bool.not_true, Bool.false_or, hrange, hw, ho, hp, Nat.not_le.mpr hin, failsAt, Option.any_none, Bool.or_self, Bool.false_eq_true, if_false]

theorem windowAccess_writes (d : List Byte) {t : State} (ht : t = touchTurf (a / 4096) (a % 4096) 64 s) : windowAccess off (some d) false none s
    = setWin a (d.take 64) { t with peat := { t.peat with poison := t.peat.poison.filter (· != a / 64) } } := by
  subst ht ha
  have hrange : (decide (s.hif.hdmSize < off / 64 * 64 + 64) || decide (s.hif.hdmSize < off / 64 * 64 + 4096 + 64)) = false := by
    simp only [Bool.or_eq_false_iff, decide_eq_false_iff_not]
    omega
  simp only [windowAccess, hc, Bool.not_true, Bool.false_or, hrange, hw, ho, Nat.not_le.mpr hin, failsAt, Option.any_none, Bool.or_self, Bool.false_eq_true, if_false]

end windowAccess

/-! ### Commands (R341, R356, R367) -/

section commands
variable {ag arg : Nat} {s : State}

theorem execTurfRead_done (ht : s.rd pPEAT F.PEAT_CMD_TURF_TURF < turfCount)
    (h : cmdCode s pPEAT ag (decide (arg = 0)) (stateIn s pPEAT [.ready, .run, .fenced]) = rDONE) {x : Nat}
    (hx : x = (s.turf (s.rd pPEAT F.PEAT_CMD_TURF_TURF)).word) : execTurfRead pPEAT ag arg s = .next (record pPEAT ag 4 0x42 rDONE
      (((s.wr pPEAT F.PEAT_DATA_DATA (x % 2 ^ 32) 0).wr pPEAT F.PEAT_DATA_DATA (x / 2 ^ 32) 1).wr pPEAT F.PEAT_CMD_OUT_CODE rDONE)) := by
  subst hx
  simp only [execTurfRead, decide_true, Bool.true_and, command_done h, if_neg (Nat.not_le.mpr ht), peatData]
  rfl

theorem execTurfSweep_runs
    (h : cmdCode s pPEAT ag (arg < 2 && (arg = 1 || s.rd pPEAT F.PEAT_CMD_SEL_TAG != 0xFF)) (stateIn s pPEAT [.ready, .run, .fenced]) = rDONE) :
    execTurfSweep pPEAT ag arg s = .next (s.updPage pPEAT (fun h => { h with
      cmd := some ⟨0x43, arg, ag, [s.rd pPEAT F.PEAT_CMD_SEL_TAG, s.rd pPEAT F.PEAT_CMD_SEL_QUEUE]⟩ })) := by
  have hne : ¬ rDONE = rRANGE := by decide
  simp only [execTurfSweep, decide_true, Bool.true_and, commandLong_done h, h, hne, decide_false, Bool.false_eq_true, if_false, id]

theorem execQPeatRead_done (h : cmdCode s pPEAT ag true (stateIn s pPEAT [.ready, .run, .fenced]) = rDONE) {x : Queue} (hx : x = s.queue arg) :
    execQPeatRead pPEAT ag arg s = .next (record pPEAT ag 4 0x44 rDONE (((((s.wr pPEAT F.PEAT_DATA_DATA (x.turves.head?.getD 0) 0).wr
      pPEAT F.PEAT_DATA_DATA (x.turves.getLast?.getD 0) 1).wr pPEAT F.PEAT_DATA_DATA x.peat.length 2).wr pPEAT F.PEAT_DATA_DATA x.turves.length 3).wr
        pPEAT F.PEAT_CMD_OUT_CODE rDONE)) := by
  subst hx
  simp only [execQPeatRead, decide_true, command_done h, peatData]
  rfl

end commands

/-! ### Captures (R272) -/

section captureWrite
variable {c : CapCopy} {l : List CapCopy} {x : Frame} {ecc : Nat} {s : State} (ho : fabricOpen s = true) (hc : s.peat.captures = c :: l)
  (hx : s.frames.find? c.copy.frame = some x) (hg : oldGen s c.copy = false) (hb : x.bad = false) (he : readBad ecc = false) (hw : x.complete = true)
  (hs : winServed s = true) (hen : s.rdB (pRPL 0) F.RPL_CAP_CTRL_EN = true) (ht : s.rd (pRPL 0) F.RPL_MIR_B_TRUNC c.session = 0)
include ho hc hx hg hb he hw hs hen ht

/-- A good frame whose record fits before the area's end is stored at the write pointer. -/
theorem captureWrite_stores {d : List Byte} {n at_ : Nat} {t : State} (hd : d = captureBytes c x) (hn : n = (16 + d.length + 63) / 64)
    (hat : at_ = s.rd (pRPL 0) F.RPL_CAP_WPTR_WPTR) (hfit : at_ + n ≤ 64 * s.rd (pRPL 0) F.RPL_CAP_SIZE_TURVES)
    (h0 : t = readData c.copy.frame ecc { s with peat := { s.peat with captures := l } }) :
    captureWrite ecc none s = releaseCopy c.copy
      ((captureStore c d d.length n (4096 * s.rd (pRPL 0) F.RPL_CAP_BASE_TURF + 64 * at_) t).wr (pRPL 0) F.RPL_CAP_WPTR_WPTR (at_ + n)) := by
  have hwrap : ¬ 64 * s.rd (pRPL 0) F.RPL_CAP_SIZE_TURVES < at_ + n := by omega
  have harea : ¬ 64 * s.rd (pRPL 0) F.RPL_CAP_SIZE_TURVES < n := by omega
  subst hd hat h0
  rw [hn] at hwrap harea
  simp only [captureWrite, ho, hc, hx, hg, hb, he, hw, hs, hen, ht, hwrap, harea, hn, failsAt, Option.any_none, decide_false, Bool.and_self, Bool.not_true, Bool.and_false,
    Bool.false_and, Bool.or_self, Bool.false_eq_true, if_false, if_true]

end captureWrite

/-- Settles O32: each step by the state it asks for. -/
theorem peatCommandsComplete : Obligations.PeatCommandsComplete := by
  intro ag arg ch q r off v w s
  refine ⟨?refresh, ?rate, ?clear, ?neighbours, ?spill, ?starts, ?goesOn, ?patrol, ?winGib, ?noWindow, ?zeroed, ?access, ?turfRead, ?sweep, ?queueRead, ?capture⟩
  case refresh => exact fun hch ha hu hc n b hn hb => execPerBankRefresh_uncommitted hch ha hu hc hn hb
  case rate => exact fun ha hu rate => execRefreshRatePoll_up ha hu rate
  case clear => exact fun bank => ⟨_, rfl, acts_erased_same .., fun k hk => acts_erased_other _ hk, rfl⟩
  case neighbours =>
    rintro bank row n hm hn _ rfl
    exact ⟨congrArg Host.Outcome.next (neighbourRefresh_reached hm hn), fun m => neighbourTable_row⟩
  case spill =>
    intro c l f ecc hr hq ho hs hb hf hg hw
    exact ⟨fun hbad hecc => congrArg Host.Outcome.next (spillWrite_good hr hq ho hs hb hf hg hw hbad hecc),
      fun hbad => congrArg Host.Outcome.next (spillWrite_bad hr hq ho hs hb hf hg hw hbad)⟩
  case starts => exact fun d l x m hr hq ho hs hd hx => congrArg Host.Outcome.next (drainRecord_starts hr hq ho hs hd hx)
  case goesOn => exact fun x hr hq ho hs hu => congrArg Host.Outcome.next (drainRecord_goesOn hr hq ho hs hu)
  case patrol => exact fun he ha => congrArg Host.Outcome.next (patrolRead_clean he ha)
  case winGib => exact fun h => congrArg Host.Outcome.next (regWrite_done (by decide) h)
  case noWindow => exact fun hz h => congrArg Host.Outcome.next (windowReady_zeroed hz (zeroRows_none h) hz)
  case zeroed => exact fun hz t ht hzt => congrArg Host.Outcome.next (windowReady_zeroed hz ht hzt)
  case access =>
    rintro a ha hc hsize hw ho hin _ rfl
    exact ⟨fun hp => congrArg Host.Outcome.next (windowAccess_reads ha hc hsize hw ho hin hp),
      fun d => congrArg Host.Outcome.next (windowAccess_writes ha hc hsize hw ho hin d rfl)⟩
  case turfRead => exact fun ht h x hx => execTurfRead_done ht h hx
  case sweep => exact fun h => execTurfSweep_runs h
  case queueRead => exact fun h x hx => execQPeatRead_done h hx
  case capture =>
    intro c l x d n at_ ecc s0 ho hc hx hg hb he hw hs hen ht hd hn hat hfit h0
    exact congrArg Host.Outcome.next (captureWrite_stores ho hc hx hg hb he hw hs hen ht hd hn hat hfit h0)

end Sys2Proof.Machine
end
